-- ==== Sys2Proof/Word.lean ====
section
/-! DEFINITION. The words of the LX-48: bytes, 16-bit words and the 32-bit millisecond clock (00 section 4.1, R31). -/

namespace Sys2Proof

/-- One byte of a frame, a link message or the image. -/
abbrev Byte := BitVec 8

/-- One word of the configuration image (02 section 2.1), also a two-byte field of a frame. -/
abbrev Word16 := BitVec 16

/-- A value of the station clock: 32-bit milliseconds, wrapping modulo 2^32 (R31). -/
abbrev Clock := BitVec 32

/-- A string of character codes of 12.3 (labels and texts). -/
abbrev Chars := List Byte

/-- A composed page: its lines, each a list of character bytes with the flash attribute in bit 7 (R140, 12.3). -/
abbrev Content := List (List Byte)

end Sys2Proof
end

