-- ==== Sys2Proof/Syntax.lean ====
section
/-! DEFINITION. The commands of the block: one constructor of Instr per row of spec/opcode_table.json, with the
operands that the outside brings. Payload fields are the raw bytes of 12.1; R170 decodes them in the machine. -/

namespace Sys2Proof

/-- What a good frame brings beside its payload: its source byte (R4). Its arrival mark is the part's own reading of the
station clock at its first bit (R3), which the bus station unit holds. -/
structure Rx where
  source : Byte
  deriving DecidableEq, Repr

/-- A frame as received: every byte from the header to the last check byte received.
Fewer bytes than the length byte calls for is a truncated frame (R1 check 2). -/
structure RawFrame where
  bytes : List Byte
  deriving DecidableEq, Repr

/-- Payload of BUILDING MODE (12.1). -/
structure ModeFrame where
  mode : Byte
  zones : Byte
  text : Byte
  deriving DecidableEq, Repr

/-- Payload of CAR MOTION (12.1): position in bytes 1..3, velocity in 4..5. -/
structure MotionFrame where
  car : Byte
  position : BitVec 24
  velocity : Word16
  motion : Byte
  level : Byte
  doors : Byte
  deriving DecidableEq, Repr

/-- Payload of CAR STEP (12.1). -/
structure StepFrame where
  car : Byte
  delta : Word16
  velocity : Word16
  motion : Byte
  deriving DecidableEq, Repr

/-- Payload of CAR CALLS (12.1): up to twelve stop landings. -/
structure CallsFrame where
  car : Byte
  deck : Byte
  seq : Byte
  intent : Byte
  stops : List Byte
  deriving DecidableEq, Repr

/-- Payload of ASSIGN (12.1); byte 6 holds access (low) and language (high). -/
structure AssignFrame where
  keypad : Byte
  ticket : Word16
  dest : Byte
  car : Byte
  deck : Byte
  accessLang : Byte
  deriving DecidableEq, Repr

/-- Payload of STATUS QUERY (12.1). -/
structure QueryFrame where
  target : Byte
  kind : Byte
  clear : Byte
  deriving DecidableEq, Repr

/-- The commands. Each docstring names the row of spec/opcode_table.json and its rule. -/
inductive Instr where
  /-- POWER (R18): application of supply, with what the straps read. -/
  | power (straps : Byte)
  /-- PIN_RESET (R18): assertion of the reset pin, with what the straps read. -/
  | pinReset (straps : Byte)
  /-- END_OF_LOADING (R25, R26): the load ends, having read the image memory, whose words these are. -/
  | endOfLoading (memory : List Word16)
  /-- BAD_FRAME (R1): bytes received that fail a check or are of an unknown kind. -/
  | badFrame (f : RawFrame)
  /-- STATION_CLASH (R16): a frame received that bears the part's own station number. -/
  | stationClash (f : RawFrame)
  /-- BUILDING_MODE (R118). -/
  | buildingMode (rx : Rx) (f : ModeFrame)
  /-- CAR_SERVICE (R58). -/
  | carService (rx : Rx) (car service : Byte)
  /-- RESTART (R28). -/
  | restart (rx : Rx) (target : Byte)
  /-- TEMPO (R39) from another station: the count byte and the sender sync state byte. -/
  | tempo (rx : Rx) (count sync : Byte)
  /-- CAR_MOTION (R53). -/
  | carMotion (rx : Rx) (f : MotionFrame)
  /-- CAR_STEP (R54). -/
  | carStep (rx : Rx) (f : StepFrame)
  /-- CAR_CALLS (R89). -/
  | carCalls (rx : Rx) (f : CallsFrame)
  /-- ASSIGN (R100). -/
  | assign (rx : Rx) (f : AssignFrame)
  /-- WITHDRAW (R108). -/
  | withdraw (rx : Rx) (ticket : Word16)
  /-- STATUS_QUERY (R163). -/
  | statusQuery (rx : Rx) (f : QueryFrame)
  /-- ATTEMPT_START (R5, R11): an attempt begins on the free bus, the part's own where it may begin one, else another
  station's (log 31). -/
  | attemptStart
  /-- ARBITRATION_WON (R11). -/
  | arbitrationWon
  /-- LOST_ARBITRATION (R12). -/
  | lostArbitration
  /-- FAILED_ATTEMPT (R12). -/
  | failedAttempt
  /-- ATTEMPT_COMPLETED (R12). -/
  | attemptCompleted
  /-- TEMPO_THRESHOLD (R37). -/
  | tempoThreshold
  /-- LOCAL_RESTART (R42). -/
  | localRestart
  /-- INDICATION_TIMER_EXPIRY (R63) of a car slot. -/
  | indicationTimerExpiry (slot : Nat)
  /-- LINGER_EXPIRY (R97) of the lantern record of a panel and a car slot. -/
  | lingerExpiry (panel slot : Nat)
  /-- HOLD_EXPIRY (R107) of the prompt entry with a ticket. -/
  | holdExpiry (ticket : Nat)
  /-- CLAIM_WATCH_EXPIRY (R120) of the claim of a source station. -/
  | claimWatchExpiry (source : Byte)
  /-- QUIET_TIMER_EXPIRY (R126) of a panel. -/
  | quietTimerExpiry (panel : Nat)
  /-- SENSE_LINE_EDGE (R128) of a sense line. -/
  | senseLineEdge (line : Nat)
  /-- LAMP_TEST_EXPIRY (R131) of a panel. -/
  | lampTestExpiry (panel : Nat)
  /-- PRELOAD_INSTANT (R139) of a panel. -/
  | preloadInstant (panel : Nat)
  /-- SHOW_MARK (R136) of a panel. -/
  | showMark (panel : Nat)
  /-- SCROLL_EXPIRY (R147) of a panel. -/
  | scrollExpiry (panel : Nat)
  /-- LINK_ACK (R152): tag and module state byte of an ACK on a link. -/
  | linkAck (link : Nat) (tag moduleState : Byte)
  /-- LINK_NAK (R153): tag of a NAK on a link. -/
  | linkNak (link : Nat) (tag : Byte)
  /-- LINK_TIMEOUT (R153) of a link. -/
  | linkTimeout (link : Nat)
  /-- LINK_REPLY_BAD (R171): the raw bytes of a reply that fails the link's check or matches no tag. -/
  | linkReplyBad (link : Nat) (bytes : List Byte)
  /-- REPROBE_EXPIRY (R154) of a link. -/
  | reprobeExpiry (link : Nat)
  /-- BUS_BECOMES_FREE (R1, R5). -/
  | busBecomesFree
  deriving DecidableEq, Repr

end Sys2Proof
end

