-- ==== Sys2Proof/Config.lean ====
section
/-! DEFINITION. The fixed quantities of the part (capacities, periods, limits) and the model's two free values. -/

namespace Sys2Proof.Config

/-- Slots of the transmit queue shared by PANEL LOAD, SENSE and STATUS REPORT (R6). -/
def sharedSlots : Nat := 7
/-- The transmit failure count that enters LISTEN_ONLY and that a station clash sets (R13, R14). -/
def listenOnlyAt : Nat := 96
/-- Entries of the prompt pool (R99). -/
def poolSize : Nat := 48
/-- Entries of one panel's prompt list (R99). -/
def panelListSize : Nat := 12
/-- Notice claims held (R117). -/
def claimSize : Nat := 4
/-- Watch of a notice claim in ms (R119). -/
def claimWatch : Nat := 10000
/-- Period of a car's indication timer in ms (R63). -/
def indicationPeriod : Nat := 100
/-- Length of a lamp test in ms (R131). -/
def lampTest : Nat := 5000
/-- Timeout of one link attempt in ms (R152). -/
def linkTimeout : Nat := 40
/-- Period of the reprobe of a FAULTED link in ms (R154). -/
def reprobePeriod : Nat := 5000
/-- Messages that wait on one link (R156). -/
def linkQueueSize : Nat := 3
/-- Attempts of one link message (R153). -/
def linkAttempts : Nat := 3
/-- Limit of the hold of an access entry in ms (R106). -/
def accessHoldCap : Nat := 60000
/-- Highest position in mm (R52). -/
def maxPosition : Nat := 1048575
/-- Largest magnitude of a velocity in mm/s (R52). -/
def maxVelocity : Int := 16000
/-- Saturation limit of a counter (R167). -/
def counterMax : Nat := 65535
/-- Words of the image header (R19, 12.4). -/
def headerWords : Nat := 15
/-- Most words an image may have (R19). -/
def maxImageWords : Nat := 8192

/-- FREE VALUE (log 9). Whether the upper deck is the serving deck of an ANNOUNCED lantern record that both decks
hold while the car is PARKED or LEVELLING: R95 sends the choice to R94, which names a deck for running cars only.
Applied to the free-value counter of State. -/
opaque parkedServingUpper : Nat → Bool

/-- FREE VALUE (log 9). Bits 5..6 of the EXCEPTIONS state byte while no last tempo record is present: 12.2 gives
them no value then. Applied to the free-value counter of State. -/
opaque absentTempoSync : Nat → BitVec 2

end Sys2Proof.Config
end

