-- ==== Sys2Proof/Machine/State.lean ====
section
/-! DEFINITION. The state of the LX-48 as plain data, one structure per block of 00 section 2, the state right after
POWER, and the reasons a step could stop. -/

namespace Sys2Proof.Machine

/-! ### Names -/

/-- Loader states (02). -/
inductive LoaderState where | loading | running | imageFault
  deriving DecidableEq, Repr

/-- Fault reasons of a refused image (R19, R20; codes in 12.2). -/
inductive FaultReason where
  | length | check | header | count | heights | range | carNumber | panelKind | reference
  deriving DecidableEq, Repr

/-- Bit rate of the riser bus (02 section 2.2). -/
inductive BitRate where | kbit125 | kbit250
  deriving DecidableEq, Repr

/-- Station states (R13 to R15). -/
inductive StationState where | active | listenOnly
  deriving DecidableEq, Repr

/-- Sync states (R40). -/
inductive SyncState where | alone | joining | inStep | free
  deriving DecidableEq, Repr

/-- Causes of a cycle start (R34). -/
inductive CycleCause where | start | heard | localStart
  deriving DecidableEq, Repr

/-- Reset kinds (00 section 3.3, R29). -/
inductive ResetCause where | power | pin | restart
  deriving DecidableEq, Repr

/-- Attempt states of a queued frame (R6). -/
inductive AttemptState where | queued | contending | sending
  deriving DecidableEq, Repr

/-- Motion states of a car (R50). -/
inductive Motion where | parked | levelling | runningUp | runningDown | inspection
  deriving DecidableEq, Repr

/-- Door states (R50). -/
inductive Door where | closed | opening | opened | closing
  deriving DecidableEq, Repr

/-- Tracking states (R50). -/
inductive Tracking where | unknown | tracked | stale | lost
  deriving DecidableEq, Repr

/-- Service states (R58). -/
inductive Service where | normal | outOfService | recall | firefighter | inspection
  deriving DecidableEq, Repr

/-- Directions: arrows, intents and lantern directions (R50, R86, R92). -/
inductive Dir where | none | up | down
  deriving DecidableEq, Repr

/-- Decks (00 section 4.2). -/
inductive Deck where | lower | upper
  deriving DecidableEq, Repr

/-- Panel kinds (02 section 2.2). -/
inductive PanelKind where | lobby | destination | car | lantern
  deriving DecidableEq, Repr

/-- Languages: 0 is primary, 1 secondary (00 section 4.2). -/
inductive Lang where | primary | secondary
  deriving DecidableEq, Repr

/-- What a panel is to show (R135). -/
inductive Page where | floor | prompts | stops | text (n : Nat) | notice | blank | lantern
  deriving DecidableEq, Repr

/-- Actions of a show list entry (02 section 2.2); BLANK acts as a PAGE action whose page is BLANK (R138). -/
inductive Action where | page (p : Page) | language (l : Lang)
  deriving DecidableEq, Repr

/-- Functions of a sense line (R128). -/
inductive SenseFunction where | wake | test | language | report
  deriving DecidableEq, Repr

/-- Load levels of a DESTINATION panel (R113). -/
inductive LoadLevel where | open_ | crowded | full
  deriving DecidableEq, Repr

/-- States of a prompt entry (R99). -/
inductive PromptState where | shown | boarding | reassign
  deriving DecidableEq, Repr

/-- States of a lantern record (R92). -/
inductive LanternState where | dark | announced | open_ | linger
  deriving DecidableEq, Repr

/-- Service levels 0 NORMAL, 1 NIGHT, 2 NOTICE, 3 EVACUATE (R121). -/
inductive Level where | normal | night | notice | evacuate
  deriving DecidableEq, Repr

/-- Quiet states (R123). -/
inductive Quiet where | awake | dim | dark
  deriving DecidableEq, Repr

/-- States of a preload (R139). -/
inductive PreloadState where | waiting | loading | loaded
  deriving DecidableEq, Repr

/-- Link states (R151). -/
inductive LinkState where | down | probing | up | faulted
  deriving DecidableEq, Repr

/-- Kinds of a status query (R163). -/
inductive QueryKind where | exceptions | counters | cars
  deriving DecidableEq, Repr

/-- The twelve counters, in the order of the table of R167: part 0, then part 1. -/
inductive Counter where
  | framesBad | framesDropped | txFailures | countDisagree | skippedMarks | lateFlips
  | evictions | assignIgnored | unanchoredSteps | levelDisagree | fieldRange | linkRetries
  deriving DecidableEq, Repr

/-! ### The loaded copy (02) -/

/-- A timing set (02 section 2.2); quiet is in seconds, the rest in ms. -/
structure TimingSet where
  scroll : Nat
  promptHold : Nat
  boardingHold : Nat
  reassignHold : Nat
  linger : Nat
  quiet : Nat
  lead : Nat
  deriving DecidableEq, Repr

/-- A landing row. -/
structure Landing where
  height : Nat
  label : Chars
  express : Bool
  skyLobby : Bool
  hidden : Bool
  deriving DecidableEq, Repr

/-- A car row: the fixed group of the car record (R50). -/
structure CarRow where
  number : Nat
  label : Chars
  lo : Nat
  hi : Nat
  step : Nat
  deriving DecidableEq, Repr

/-- A show list entry. -/
structure ShowEntry where
  mark : Nat
  period : Nat
  phase : Nat
  action : Action
  deriving DecidableEq, Repr

/-- A panel row after the corrections of R21, with the list it runs: its own, or its default list (R23). -/
structure PanelRow where
  kind : PanelKind
  width : Nat
  lines : Nat
  landing : Nat
  slot : Nat
  deck : Deck
  cars : List Nat
  keypads : List Byte
  timing : Nat
  list : List ShowEntry
  listFaulted : Bool
  warn : Nat
  awake : Nat
  dim : Nat
  mayDark : Bool
  deriving DecidableEq, Repr

/-- A sense line row. -/
structure SenseRow where
  function : SenseFunction
  mask : Byte
  deriving DecidableEq, Repr

/-- A text in its two versions. -/
structure Text where
  primary : Chars
  secondary : Chars
  deriving DecidableEq, Repr

/-- The loaded copy (R25): settings as every block uses them. -/
structure Image where
  tempoEligible : Bool
  lc : Nat
  zone : Nat
  amax : Nat
  tlead : Nat
  gmax : Nat
  hyst : Nat
  announce : Nat
  timings : List TimingSet
  landings : List Landing
  cars : List CarRow
  panels : List PanelRow
  senses : List SenseRow
  texts : List Text
  /-- Whether a value was changed by clamping or rounding (R21), for IMAGE_CLAMPED. -/
  clamped : Bool
  deriving DecidableEq, Repr

/-- The copy that holds nothing: in LOADING (log 6) and in IMAGE_FAULT (R26). -/
def Image.empty : Image :=
  { tempoEligible := false, lc := 0, zone := 0, amax := 0, tlead := 0, gmax := 0, hyst := 0, announce := 0,
    timings := [], landings := [], cars := [], panels := [], senses := [], texts := [], clamped := false }

/-- Image loader: state, fault reason with the offending row (255 where it concerns none), copy, bus bit rate. -/
structure LoaderUnit where
  state : LoaderState
  fault : Option (FaultReason × Nat)
  copy : Image
  bitRate : BitRate
  deriving DecidableEq, Repr

/-! ### Status unit (11) -/

/-- The exception record (R165): items without a mask, then panel and car masks. An item that carries a mask is
present exactly when its mask is not empty (12.2). -/
structure Exceptions where
  powerUp : Bool
  pinReset : Bool
  restarted : Bool
  imageFault : Bool
  imageClamped : Bool
  stationClash : Bool
  listenOnly : Bool
  queueOverflow : Bool
  showListFault : BitVec 8
  positionRange : BitVec 16
  carLost : BitVec 16
  linkFault : BitVec 8
  moduleFault : BitVec 8
  deriving DecidableEq, Repr

/-- The record with no item. -/
def Exceptions.empty : Exceptions :=
  { powerUp := false, pinReset := false, restarted := false, imageFault := false, imageClamped := false,
    stationClash := false, listenOnly := false, queueOverflow := false, showListFault := 0, positionRange := 0,
    carLost := 0, linkFault := 0, moduleFault := 0 }

/-- The twelve counters (R167). -/
structure Counters where
  framesBad : Nat
  framesDropped : Nat
  txFailures : Nat
  countDisagree : Nat
  skippedMarks : Nat
  lateFlips : Nat
  evictions : Nat
  assignIgnored : Nat
  unanchoredSteps : Nat
  levelDisagree : Nat
  fieldRange : Nat
  linkRetries : Nat
  deriving DecidableEq, Repr

/-- Every counter at 0. -/
def Counters.zero : Counters :=
  { framesBad := 0, framesDropped := 0, txFailures := 0, countDisagree := 0, skippedMarks := 0, lateFlips := 0,
    evictions := 0, assignIgnored := 0, unanchoredSteps := 0, levelDisagree := 0, fieldRange := 0, linkRetries := 0 }

/-- The query in progress (R163, R164): the part that stands in the transmit queue, and the values read for part 0
of a COUNTERS answer (R167). -/
structure Query where
  kind : QueryKind
  clear : Bool
  part : Nat
  part0 : List Nat
  deriving DecidableEq, Repr

/-- Status unit. The snapshots of R166 and the values of R167 stand with the queued frames they belong to. -/
structure StatusUnit where
  exceptions : Exceptions
  counters : Counters
  cause : ResetCause
  restarts : Nat
  query : Option Query
  deriving DecidableEq, Repr

/-! ### Bus station unit (01) -/

/-- What the completion of a STATUS REPORT does: nothing, remove a snapshot from the record (R166), or lower the
twelve counters by the values reported (R167). -/
inductive ReportEffect where
  | none
  | snapshot (e : Exceptions)
  | lower (values : List Nat)
  deriving DecidableEq, Repr

/-- Kind and payload fields of an own frame (R6, 12.1). -/
inductive TxPayload where
  | tempo (count : BitVec 6) (sync : SyncState)
  | panelLoad (panel : Nat) (level : LoadLevel) (count : Nat)
  | sense (line edges : Nat) (count : BitVec 6) (ct : Nat)
  | report (kind : QueryKind) (part : Nat) (data : List Byte) (effect : ReportEffect)
  deriving DecidableEq, Repr

/-- A frame of the transmit queue (R6). Its acceptance age is its place in the queue, and the block that requested it
follows from its kind. -/
structure TxFrame where
  payload : TxPayload
  state : AttemptState
  withdrawn : Bool
  held : Nat
  deriving DecidableEq, Repr

/-- Bus station unit. `firstBit` is the station clock at the first bit of the frame that is on the bus, the part's own
or another station's (R3, R5): its arrival mark. -/
structure BusUnit where
  station : Byte
  busFree : Bool
  ignoring : Bool
  state : StationState
  failCount : Nat
  queue : List TxFrame
  firstBit : Option Clock
  deriving DecidableEq, Repr

/-! ### Cycle unit (03) -/

/-- The most recent tempo heard (R39, R47). -/
structure LastTempo where
  source : Byte
  count : BitVec 6
  sync : SyncState
  deriving DecidableEq, Repr

/-- The cycle start event (R34): its cause, the new base and count, and the CT of the cycle that has just ended, at the
instant the event is taken (none for a START). -/
structure CycleStart where
  cause : CycleCause
  base : Clock
  count : BitVec 6
  endedCt : Option Nat
  deriving DecidableEq, Repr

/-- Cycle unit. -/
structure CycleUnit where
  clock : Clock
  base : Clock
  count : BitVec 6
  sync : SyncState
  pendingTempo : Bool
  lastTempo : Option LastTempo
  /-- The tempo threshold of this cycle has been crossed (R32: once per cycle at most). -/
  crossed : Bool
  /-- The cycle start event raised last (R34, log 28). -/
  event : Option CycleStart
  deriving DecidableEq, Repr

/-! ### Car tracker (04, 05) -/

/-- The dynamic fields of a car record (R50); the fixed ones are those of the car row. -/
structure CarRec where
  anchor : Bool
  pos : Nat
  vel : Int
  motion : Motion
  level : Option Nat
  doorLower : Door
  doorUpper : Door
  mark : Clock
  heard : Bool
  silence : Nat
  tracking : Tracking
  service : Service
  indicated : Option Nat
  arrow : Dir
  q : Option Int
  labelLower : Option Chars
  labelUpper : Option Chars
  timer : Option Clock
  deriving DecidableEq, Repr

/-- Starting values of a car record (R51). -/
def CarRec.start : CarRec :=
  { anchor := false, pos := 0, vel := 0, motion := .parked, level := none, doorLower := .closed,
    doorUpper := .closed, mark := 0, heard := false, silence := 0, tracking := .unknown, service := .normal,
    indicated := none, arrow := .none, q := none, labelLower := none, labelUpper := none, timer := none }

/-! ### Stops and lantern unit (06) -/

/-- A deck record (R86). -/
structure DeckRec where
  stops : List Nat
  intent : Dir
  lastSeq : Option Byte
  deriving DecidableEq, Repr

/-- Starting values of a deck record (R86). -/
def DeckRec.start : DeckRec := { stops := [], intent := .none, lastSeq := none }

/-- The deck records of one car; the upper one is used only for a deck step above 0 (R86). -/
structure CarDecks where
  lower : DeckRec
  upper : DeckRec
  deriving DecidableEq, Repr

/-- A lantern record (R92): its panel and car slot, and its fields. -/
structure Lantern where
  panel : Nat
  slot : Nat
  state : LanternState
  dir : Dir
  deck : Option Deck
  linger : Option Clock
  deriving DecidableEq, Repr

/-- Stops and lantern unit. -/
structure StopsUnit where
  decks : List CarDecks
  lanterns : List Lantern
  deriving DecidableEq, Repr

/-! ### Prompt manager (07) -/

/-- A prompt entry (R99). Its arrival place is its place in the pool. -/
structure Prompt where
  panel : Nat
  ticket : Nat
  dest : Nat
  slot : Nat
  deck : Option Deck
  access : Bool
  lang : Lang
  state : PromptState
  expiry : Clock
  merges : Nat
  deriving DecidableEq, Repr

/-- Prompt manager: the pool in arrival order, oldest first, and one load level per panel. -/
structure PromptUnit where
  pool : List Prompt
  levels : List LoadLevel
  deriving DecidableEq, Repr

/-! ### Mode unit (08) -/

/-- A notice claim (R117). -/
structure Claim where
  source : Byte
  text : Nat
  expiry : Clock
  deriving DecidableEq, Repr

/-- A quiet record (R123). -/
structure QuietRec where
  state : Quiet
  timer : Option Clock
  deriving DecidableEq, Repr

/-- A capture record (R132); `armed` clear is WAITING. -/
structure Capture where
  armed : Bool
  latest : Option (BitVec 6 × Nat)
  deriving DecidableEq, Repr

/-- Mode unit: zone mode record, service level, and per panel quiet record, language pin and lamp test expiry, and a
capture record per sense line. -/
structure ModeUnit where
  evacuation : Bool
  evacText : Option Nat
  night : Bool
  claims : List Claim
  level : Level
  quiet : List QuietRec
  pins : List Bool
  lamps : List (Option Clock)
  captures : List Capture
  deriving DecidableEq, Repr

/-! ### Show scheduler (09) -/

/-- A preload (R139): its entry, page, composed content, state and the number of the LOAD it handed last. -/
structure Preload where
  entry : Nat
  page : Page
  content : Option Content
  state : PreloadState
  load : Nat
  deriving DecidableEq, Repr

/-- A panel schedule (R135). The show list is in the loaded copy. `flip` is the number of the FLIP that is
outstanding, `works` the number given to the work handed last, `instants` the first entry whose preload instant has
not been reached in this cycle. -/
structure Schedule where
  pointer : Option Nat
  page : Page
  lang : Lang
  index : Nat
  scroll : Option Clock
  preload : Option Preload
  waiting : List Nat
  flip : Option Nat
  last : Option Content
  works : Nat
  instants : Nat
  deriving DecidableEq, Repr

/-- Starting values of a schedule (R135). -/
def Schedule.start (kind : PanelKind) : Schedule :=
  { pointer := none, page := if kind = .lantern then .lantern else .blank, lang := .primary, index := 0,
    scroll := none, preload := none, waiting := [], flip := none, last := none, works := 0, instants := 0 }

/-! ### Link controller (10) -/

/-- A link message (10 section 10.1). A LOAD and a FLIP carry the number of the work they were handed as; a FLIP
carries whether it is late (R158). -/
inductive LinkMsg where
  | probe (width lines : Nat)
  | load (content : Content) (work : Nat)
  | flip (work : Nat) (late : Bool)
  | bright (level : Nat)
  | test (on : Bool)
  | chime (strokes : Nat)
  deriving DecidableEq, Repr

/-- The message in flight (R151). -/
structure InFlight where
  msg : LinkMsg
  tag : Byte
  attempt : Nat
  expiry : Clock
  deriving DecidableEq, Repr

/-- A link record (R151). -/
structure LinkRec where
  state : LinkState
  inFlight : Option InFlight
  queue : List LinkMsg
  pageStale : Bool
  brightStale : Bool
  reprobe : Option Clock
  tag : Byte
  deriving DecidableEq, Repr

/-- A link after POWER and PIN (R151). -/
def LinkRec.start : LinkRec :=
  { state := .down, inFlight := none, queue := [], pageStale := false, brightStale := false, reprobe := none, tag := 0 }

/-! ### The whole machine -/

/-- The state of the LX-48, and the queue of commands that wait, first in, first out. `free` counts the free values
taken (log 9). -/
structure State where
  loader : LoaderUnit
  bus : BusUnit
  cycle : CycleUnit
  cars : List CarRec
  stops : StopsUnit
  prompts : PromptUnit
  mode : ModeUnit
  schedules : List Schedule
  links : List LinkRec
  status : StatusUnit
  free : Nat
  pending : List Instr
  deriving DecidableEq, Repr

/-- Reasons a step stops with a fault. There are none: the spec names no command that stops the part. -/
inductive Fault where
  deriving DecidableEq, Repr

/-- Reasons a step refuses a command. -/
inductive Refusal where
  /-- A command with no meaning yet, raised by an arm of exec. Safe. No arm raises it. -/
  | notModelled (mnemonic : String)
  deriving DecidableEq, Repr

/-- The state that a POWER or PIN reset leaves (R17, R18, R35, R116, R117, R134, R151, R169): LOADING begins with the
straps read, and no record of an image row exists. That the unit then no longer ignores the bus (R1 check 1), while the bus
stays free or not as it was, is the model's choice (log 36, log 24). -/
def State.afterReset (cause : ResetCause) (straps : Byte) (busFree : Bool) (pending : List Instr) : State :=
  { loader := { state := .loading, fault := none, copy := Image.empty, bitRate := .kbit125 },
    bus := { station := straps, busFree := busFree, ignoring := false, state := .active, failCount := 0, queue := [],
             firstBit := none },
    cycle := { clock := 0, base := 0, count := 0, sync := .alone, pendingTempo := false, lastTempo := none,
               crossed := false, event := none },
    cars := [],
    stops := { decks := [], lanterns := [] },
    prompts := { pool := [], levels := [] },
    mode := { evacuation := false, evacText := none, night := false, claims := [], level := .normal, quiet := [],
              pins := [], lamps := [], captures := [] },
    schedules := [],
    links := List.replicate 8 LinkRec.start,
    status := { exceptions := Exceptions.empty, counters := Counters.zero, cause := cause, restarts := 0,
                query := none },
    free := 0,
    pending := pending }

/-- The machine right after POWER (R18), with straps that read 1 (log 3), the bus not yet seen free and no first bit
seen on it (log 4, log 5), and no command waiting. -/
def State.reset : State := State.afterReset .power 1 false []

end Sys2Proof.Machine
end

