-- ==== Sys2Proof/Machine/Flags.lean ====
section
/-! DEFINITION. Counters, the exception record, what holds an item, and the fault pin (11). -/

namespace Sys2Proof.Machine

/-! ### Counters (R167) -/

/-- The value of one counter. -/
def Counters.get (c : Counters) : Counter → Nat
  | .framesBad => c.framesBad
  | .framesDropped => c.framesDropped
  | .txFailures => c.txFailures
  | .countDisagree => c.countDisagree
  | .skippedMarks => c.skippedMarks
  | .lateFlips => c.lateFlips
  | .evictions => c.evictions
  | .assignIgnored => c.assignIgnored
  | .unanchoredSteps => c.unanchoredSteps
  | .levelDisagree => c.levelDisagree
  | .fieldRange => c.fieldRange
  | .linkRetries => c.linkRetries

/-- The counters with one of them set. -/
def Counters.set (c : Counters) (k : Counter) (v : Nat) : Counters :=
  match k with
  | .framesBad => { c with framesBad := v }
  | .framesDropped => { c with framesDropped := v }
  | .txFailures => { c with txFailures := v }
  | .countDisagree => { c with countDisagree := v }
  | .skippedMarks => { c with skippedMarks := v }
  | .lateFlips => { c with lateFlips := v }
  | .evictions => { c with evictions := v }
  | .assignIgnored => { c with assignIgnored := v }
  | .unanchoredSteps => { c with unanchoredSteps := v }
  | .levelDisagree => { c with levelDisagree := v }
  | .fieldRange => { c with fieldRange := v }
  | .linkRetries => { c with linkRetries := v }

/-- The counters of part 0 of a COUNTERS answer, in order (R167). -/
def Counter.part0 : List Counter :=
  [.framesBad, .framesDropped, .txFailures, .countDisagree, .skippedMarks, .lateFlips]

/-- The counters of part 1. -/
def Counter.part1 : List Counter :=
  [.evictions, .assignIgnored, .unanchoredSteps, .levelDisagree, .fieldRange, .linkRetries]

/-- Count `n` events on a counter; it saturates at 65,535 (R167). -/
def State.countN (k : Counter) (n : Nat) (s : State) : State :=
  { s with status := { s.status with
      counters := s.status.counters.set k (min Config.counterMax (s.status.counters.get k + n)) } }

/-- Count one event. -/
def State.count (k : Counter) (s : State) : State := s.countN k 1

/-- Lower each counter by the value reported for it, but not below 0 (R167). -/
def Counters.lower (c : Counters) : List (Counter × Nat) → Counters
  | [] => c
  | (k, v) :: rest => (c.set k (c.get k - v)).lower rest

/-! ### The exception record (R165) -/

/-- An item of the record, with the panel or slot it is raised for where it carries a mask. -/
inductive ExcItem where
  | powerUp | pinReset | restarted | imageFault | imageClamped | stationClash | listenOnly | queueOverflow
  | showListFault (panel : Nat)
  | positionRange (slot : Nat)
  | carLost (slot : Nat)
  | linkFault (panel : Nat)
  | moduleFault (panel : Nat)
  deriving DecidableEq, Repr

/-- The one-member mask of a panel or slot. -/
def maskBit (w n : Nat) : BitVec w := BitVec.ofNat w (2 ^ n)

/-- The record with an item, or a mask member, present. -/
def Exceptions.add (e : Exceptions) : ExcItem → Exceptions
  | .powerUp => { e with powerUp := true }
  | .pinReset => { e with pinReset := true }
  | .restarted => { e with restarted := true }
  | .imageFault => { e with imageFault := true }
  | .imageClamped => { e with imageClamped := true }
  | .stationClash => { e with stationClash := true }
  | .listenOnly => { e with listenOnly := true }
  | .queueOverflow => { e with queueOverflow := true }
  | .showListFault n => { e with showListFault := e.showListFault ||| maskBit 8 n }
  | .positionRange n => { e with positionRange := e.positionRange ||| maskBit 16 n }
  | .carLost n => { e with carLost := e.carLost ||| maskBit 16 n }
  | .linkFault n => { e with linkFault := e.linkFault ||| maskBit 8 n }
  | .moduleFault n => { e with moduleFault := e.moduleFault ||| maskBit 8 n }

/-- The record, or a snapshot of it, without an item or mask member. -/
def Exceptions.drop (e : Exceptions) : ExcItem → Exceptions
  | .powerUp => { e with powerUp := false }
  | .pinReset => { e with pinReset := false }
  | .restarted => { e with restarted := false }
  | .imageFault => { e with imageFault := false }
  | .imageClamped => { e with imageClamped := false }
  | .stationClash => { e with stationClash := false }
  | .listenOnly => { e with listenOnly := false }
  | .queueOverflow => { e with queueOverflow := false }
  | .showListFault n => { e with showListFault := e.showListFault &&& ~~~ maskBit 8 n }
  | .positionRange n => { e with positionRange := e.positionRange &&& ~~~ maskBit 16 n }
  | .carLost n => { e with carLost := e.carLost &&& ~~~ maskBit 16 n }
  | .linkFault n => { e with linkFault := e.linkFault &&& ~~~ maskBit 8 n }
  | .moduleFault n => { e with moduleFault := e.moduleFault &&& ~~~ maskBit 8 n }

/-- Whether an item, or a mask member, is present. -/
def Exceptions.has (e : Exceptions) : ExcItem → Bool
  | .powerUp => e.powerUp
  | .pinReset => e.pinReset
  | .restarted => e.restarted
  | .imageFault => e.imageFault
  | .imageClamped => e.imageClamped
  | .stationClash => e.stationClash
  | .listenOnly => e.listenOnly
  | .queueOverflow => e.queueOverflow
  | .showListFault n => e.showListFault.getLsbD n
  | .positionRange n => e.positionRange.getLsbD n
  | .carLost n => e.carLost.getLsbD n
  | .linkFault n => e.linkFault.getLsbD n
  | .moduleFault n => e.moduleFault.getLsbD n

/-- The record without the items and members of `snap`, other than those also in `held` (R166). -/
def Exceptions.minus (e snap held : Exceptions) : Exceptions :=
  { powerUp := e.powerUp && !(snap.powerUp && !held.powerUp),
    pinReset := e.pinReset && !(snap.pinReset && !held.pinReset),
    restarted := e.restarted && !(snap.restarted && !held.restarted),
    imageFault := e.imageFault && !(snap.imageFault && !held.imageFault),
    imageClamped := e.imageClamped && !(snap.imageClamped && !held.imageClamped),
    stationClash := e.stationClash && !(snap.stationClash && !held.stationClash),
    listenOnly := e.listenOnly && !(snap.listenOnly && !held.listenOnly),
    queueOverflow := e.queueOverflow && !(snap.queueOverflow && !held.queueOverflow),
    showListFault := e.showListFault &&& ~~~ (snap.showListFault &&& ~~~ held.showListFault),
    positionRange := e.positionRange &&& ~~~ (snap.positionRange &&& ~~~ held.positionRange),
    carLost := e.carLost &&& ~~~ (snap.carLost &&& ~~~ held.carLost),
    linkFault := e.linkFault &&& ~~~ (snap.linkFault &&& ~~~ held.linkFault),
    moduleFault := e.moduleFault &&& ~~~ (snap.moduleFault &&& ~~~ held.moduleFault) }

/-- The mask of the links from number `n` on that are FAULTED. -/
def faultedLinks : List LinkRec → Nat → BitVec 8
  | [], _ => 0
  | l :: ls, n => (if l.state = .faulted then maskBit 8 n else 0) ||| faultedLinks ls (n + 1)

/-- The items and mask members whose holding condition is met now (R165). -/
def State.heldItems (s : State) : Exceptions :=
  { Exceptions.empty with
    imageFault := decide (s.loader.state = .imageFault),
    listenOnly := decide (s.bus.state = .listenOnly),
    linkFault := faultedLinks s.links 0 }

/-- A report effect whose snapshot has lost an item that was raised (R166). -/
def ReportEffect.dropItem (i : ExcItem) : ReportEffect → ReportEffect
  | .none => .none
  | .snapshot e => .snapshot (e.drop i)
  | .lower v => .lower v

/-- A queued frame whose snapshot, if it has one, has lost an item that was raised. -/
def TxFrame.dropItem (i : ExcItem) (f : TxFrame) : TxFrame :=
  match f.payload with
  | .report kind part data effect => { f with payload := .report kind part data (effect.dropItem i) }
  | .tempo _ _ => f
  | .panelLoad _ _ _ => f
  | .sense _ _ _ _ => f

/-- Raise an item: it becomes present, with the panel or slot in its mask (R165), and leaves every pending snapshot
that holds it, whether or not the record changed (R166). -/
def State.raise (i : ExcItem) (s : State) : State :=
  { s with status := { s.status with exceptions := s.status.exceptions.add i },
           bus := { s.bus with queue := s.bus.queue.map (TxFrame.dropItem i) } }

/-- Raise an item when a condition holds. -/
def State.raiseIf (c : Bool) (i : ExcItem) (s : State) : State := if c then s.raise i else s

/-- The fault pin (R30, R169): asserted in LOADING, and from then on exactly while the record holds an item. -/
def State.faultPin (s : State) : Bool :=
  decide (s.loader.state = .loading) || decide (s.status.exceptions ≠ Exceptions.empty)

end Sys2Proof.Machine
end

