-- ==== Sys2Proof/WellFormed.lean ====
section
/-! DEFINITION. The commands that the outside can bring: operands within the ranges of 00 section 4.2 and the sizes
of 01 section 1.1 and 12.3. The machine answers every other term too; these checks say which terms stand for events. -/

namespace Sys2Proof

/-- A source byte that is a station number (00 section 4.2; R1 check 4). -/
def Byte.isStation (b : Byte) : Bool := b != 0 && b != 255

/-- A good frame has a station number as its source byte (R1). -/
def Rx.wf (rx : Rx) : Bool := rx.source.isStation

/-- A frame on the bus has between one byte and 3 + 16 + 2 bytes, or ends with the length byte that fails check 1. -/
def RawFrame.wf (f : RawFrame) : Bool := 0 < f.bytes.length && f.bytes.length ≤ 21

/-- Panels, and links, are numbered 0..7 (00 section 4.2). -/
def panelWf (n : Nat) : Bool := n < 8

/-- Car slots are numbered 0..15 (00 section 4.2). -/
def slotWf (n : Nat) : Bool := n < 16

/-- Well-formed commands. -/
def Instr.wf : Instr → Bool
  | .power _ => true
  | .pinReset _ => true
  | .endOfLoading _ => true
  | .badFrame f => f.wf
  | .stationClash f => f.wf
  | .buildingMode rx _ => rx.wf
  | .carService rx _ _ => rx.wf
  | .restart rx _ => rx.wf
  | .tempo rx _ _ => rx.wf
  | .carMotion rx _ => rx.wf
  | .carStep rx _ => rx.wf
  | .carCalls rx f => rx.wf && f.stops.length ≤ 12
  | .assign rx _ => rx.wf
  | .withdraw rx _ => rx.wf
  | .statusQuery rx _ => rx.wf
  | .attemptStart => true
  | .arbitrationWon => true
  | .lostArbitration => true
  | .failedAttempt => true
  | .attemptCompleted => true
  | .tempoThreshold => true
  | .localRestart => true
  | .indicationTimerExpiry slot => slotWf slot
  | .lingerExpiry panel slot => panelWf panel && slotWf slot
  | .holdExpiry ticket => ticket ≤ 4095
  | .claimWatchExpiry source => source.isStation
  | .quietTimerExpiry panel => panelWf panel
  | .senseLineEdge line => line < 4
  | .lampTestExpiry panel => panelWf panel
  | .preloadInstant panel => panelWf panel
  | .showMark panel => panelWf panel
  | .scrollExpiry panel => panelWf panel
  | .linkAck link _ _ => panelWf link
  | .linkNak link _ => panelWf link
  | .linkTimeout link => panelWf link
  | .linkReplyBad link bytes => panelWf link && bytes.length ≤ 260
  | .reprobeExpiry link => panelWf link
  | .busBecomesFree => true

end Sys2Proof
end

