-- ==== Sys2Proof/Machine/Operands.lean ====
section
/-! DEFINITION. Operand forms: the frame check (R2), the checks of a received frame (R1), the decoding of payload
fields and reply bytes (R170, R171), and the bytes of what the part sends (12.1, 12.3). -/

namespace Sys2Proof.Machine

/-! ### The frame check (R2) -/

/-- One bit into the 16-bit CRC register with generator x^16 + x^12 + x^5 + 1. -/
def crcBit (r : Word16) (b : Bool) : Word16 :=
  if r.msb != b then (r <<< 1) ^^^ 0x1021#16 else r <<< 1

/-- One byte into the register, most significant bit first. -/
def crcByte (r : Word16) (b : Byte) : Word16 :=
  [7, 6, 5, 4, 3, 2, 1, 0].foldl (fun r i => crcBit r (b.getLsbD i)) r

/-- The check over a list of bytes: the register is preset to all ones, and the result is not inverted (R2). -/
def crc (bytes : List Byte) : Word16 := bytes.foldl crcByte 0xFFFF#16

/-- High byte of a word: sent and stored first (12 intro). -/
def hiByte (w : Word16) : Byte := (w >>> 8).setWidth 8

/-- Low byte of a word. -/
def loByte (w : Word16) : Byte := w.setWidth 8

/-- Bytes followed by their check, most significant byte first (R2). -/
def withCheck (bytes : List Byte) : List Byte :=
  bytes ++ [hiByte (crc bytes), loByte (crc bytes)]

/-- Two bytes as a word. -/
def word (hi lo : Byte) : Word16 := hi ++ lo

/-! ### Received frames (R1, 01 section 1.1) -/

/-- A good frame by its kind, with its payload fields. The three kinds that the part only sends are `sentKind`. -/
inductive GoodFrame where
  | buildingMode (f : ModeFrame)
  | carService (car service : Byte)
  | restart (target : Byte)
  | tempo (count sync : Byte)
  | carMotion (f : MotionFrame)
  | carStep (f : StepFrame)
  | carCalls (f : CallsFrame)
  | assign (f : AssignFrame)
  | withdraw (ticket : Word16)
  | statusQuery (f : QueryFrame)
  | sentKind
  deriving DecidableEq, Repr

/-- Outcome of the checks of R1. A bad frame may make the unit ignore the bus (check 1). -/
inductive Verdict where
  | bad (ignoreBus : Bool)
  | ignored
  | good (source : Byte) (f : GoodFrame)
  deriving DecidableEq, Repr

/-- The class of a kind, and whether a payload length is permitted for it; none for a kind not in the table. -/
def kindTable (kind length : Nat) : Option (Nat × Bool) :=
  match kind with
  | 1 => some (0, length == 3)
  | 2 => some (0, length == 2)
  | 3 => some (0, length == 1)
  | 8 => some (1, length == 2)
  | 16 => some (2, length == 9)
  | 17 => some (2, length == 6)
  | 24 => some (3, 4 ≤ length && length ≤ 16)
  | 25 => some (3, length == 7)
  | 26 => some (3, length == 2)
  | 27 => some (3, length == 3)
  | 28 => some (3, length == 5)
  | 29 => some (3, length == 3)
  | 30 => some (3, 2 ≤ length && length ≤ 16)
  | _ => none

/-- The payload fields of a kind from its bytes (12.1). -/
def parsePayload (kind : Nat) (p : List Byte) : GoodFrame :=
  match kind, p with
  | 1, [mode, zones, text] => .buildingMode ⟨mode, zones, text⟩
  | 2, [car, service] => .carService car service
  | 3, [target] => .restart target
  | 8, [count, sync] => .tempo count sync
  | 16, [car, p1, p2, p3, v1, v2, motion, level, doors] =>
    .carMotion ⟨car, p1 ++ p2 ++ p3, word v1 v2, motion, level, doors⟩
  | 17, [car, d1, d2, v1, v2, motion] => .carStep ⟨car, word d1 d2, word v1 v2, motion⟩
  | 24, car :: deck :: seq :: intent :: stops => .carCalls ⟨car, deck, seq, intent, stops⟩
  | 25, [keypad, t1, t2, dest, car, deck, al] => .assign ⟨keypad, word t1 t2, dest, car, deck, al⟩
  | 26, [t1, t2] => .withdraw (word t1 t2)
  | 29, [target, k, c] => .statusQuery ⟨target, k, c⟩
  | _, _ => .sentKind

/-- The checks of R1 on the bytes received, in its order: length above 16, truncated, check, source, kind, class and
length. Bytes after the last check byte are no part of the frame. -/
def verdict : List Byte → Verdict
  | header :: source :: length :: rest =>
    let n := length.toNat
    let payload := rest.take n
    if 16 < n then .bad true
    else match rest.drop n with
      | c1 :: c2 :: _ =>
        if word c1 c2 ≠ crc (header :: source :: length :: payload) then .bad false
        else if !source.isStation then .bad false
        else match kindTable (header.toNat % 64) n with
          | none => .ignored
          | some (cls, ok) =>
            if header.toNat / 64 = cls ∧ ok = true then .good source (parsePayload (header.toNat % 64) payload)
            else .bad false
      | _ => .bad false
  | _ => .bad false

/-! ### Codes (R170) -/

/-- Motion state code (12.1). -/
def decodeMotion (b : Byte) : Option Motion :=
  match b.toNat with
  | 0 => some .parked | 1 => some .levelling | 2 => some .runningUp | 3 => some .runningDown | 4 => some .inspection
  | _ => none

/-- Door state code: one half of the CAR MOTION door byte. -/
def decodeDoor (n : Nat) : Option Door :=
  match n with
  | 0 => some .closed | 1 => some .opening | 2 => some .opened | 3 => some .closing
  | _ => none

/-- Service state code. -/
def decodeService (b : Byte) : Option Service :=
  match b.toNat with
  | 0 => some .normal | 1 => some .outOfService | 2 => some .recall | 3 => some .firefighter | 4 => some .inspection
  | _ => none

/-- Sender sync state: a code outside the four states is recorded as FREE (R47). -/
def decodeSync (b : Byte) : SyncState :=
  match b.toNat with
  | 0 => .alone | 1 => .joining | 2 => .inStep
  | _ => .free

/-- The count of a TEMPO: bits 0..5, whatever bits 6 and 7 hold (R170). -/
def decodeCount (b : Byte) : BitVec 6 := b.setWidth 6

/-- CAR CALLS deck code. -/
def decodeCallsDeck (b : Byte) : Option Deck :=
  match b.toNat with
  | 0 => some .lower | 1 => some .upper
  | _ => none

/-- CAR CALLS direction intent code. -/
def decodeIntent (b : Byte) : Option Dir :=
  match b.toNat with
  | 0 => some .none | 1 => some .up | 2 => some .down
  | _ => none

/-- ASSIGN deck code: NONE is the inner none, a code outside the three the outer none. -/
def decodeAssignDeck (b : Byte) : Option (Option Deck) :=
  match b.toNat with
  | 0 => some none | 1 => some (some .lower) | 2 => some (some .upper)
  | _ => none

/-- ASSIGN access flag (low half) and language (high half), each a code of its own (R170). -/
def decodeAccessLang (b : Byte) : Option (Bool × Lang) :=
  match b.toNat % 16, b.toNat / 16 with
  | 0, 0 => some (false, .primary)
  | 1, 0 => some (true, .primary)
  | 0, 1 => some (false, .secondary)
  | 1, 1 => some (true, .secondary)
  | _, _ => none

/-- STATUS QUERY kind code. -/
def decodeQueryKind (b : Byte) : Option QueryKind :=
  match b.toNat with
  | 0 => some .exceptions | 1 => some .counters | 2 => some .cars
  | _ => none

/-- STATUS QUERY clear option code. -/
def decodeClear (b : Byte) : Option Bool :=
  match b.toNat with
  | 0 => some false | 1 => some true
  | _ => none

/-- BUILDING MODE mode codes. -/
inductive ModeCode where | notice | evacuate | evacuateClear | night | day | noticeEnd
  deriving DecidableEq, Repr

/-- BUILDING MODE mode code (12.1). -/
def decodeMode (b : Byte) : Option ModeCode :=
  match b.toNat with
  | 0 => some .notice | 1 => some .evacuate | 2 => some .evacuateClear | 3 => some .night | 4 => some .day
  | 5 => some .noticeEnd
  | _ => none

/-- A velocity field, clamped to -16,000..+16,000 (R52, R170). -/
def decodeVelocity (w : Word16) : Int := max (-Config.maxVelocity) (min Config.maxVelocity w.toInt)

/-! ### What the part sends (12.1, R2) -/

/-- Sync state code. -/
def SyncState.code : SyncState → Nat
  | .alone => 0 | .joining => 1 | .inStep => 2 | .free => 3

/-- Load level code. -/
def LoadLevel.code : LoadLevel → Nat
  | .open_ => 0 | .crowded => 1 | .full => 2

/-- Report kind code. -/
def QueryKind.code : QueryKind → Nat
  | .exceptions => 0 | .counters => 1 | .cars => 2

/-- A number as one byte. -/
def byte (n : Nat) : Byte := BitVec.ofNat 8 n

/-- A number as two bytes, most significant first. -/
def bytes2 (n : Nat) : List Byte := [byte (n / 256), byte n]

/-- Header byte of an own frame (01 section 1.1). -/
def TxPayload.header : TxPayload → Nat
  | .tempo _ _ => 72
  | .panelLoad _ _ _ => 219
  | .sense _ _ _ _ => 220
  | .report _ _ _ _ => 222

/-- Payload bytes of an own frame (12.1). -/
def TxPayload.bytes : TxPayload → List Byte
  | .tempo count sync => [byte count.toNat, byte sync.code]
  | .panelLoad panel level count => [byte panel, byte level.code, byte count]
  | .sense line edges count ct => [byte line, byte edges, byte count.toNat] ++ bytes2 ct
  | .report kind part data _ => [byte kind.code, byte part] ++ data

/-- The bytes of an own frame as sent by a station: header, source, length, payload and check. -/
def TxPayload.frameBytes (station : Byte) (p : TxPayload) : List Byte :=
  withCheck ([byte p.header, station, byte p.bytes.length] ++ p.bytes)

/-! ### Panel link messages and replies (12.3, R171) -/

/-- Type byte of a message. -/
def LinkMsg.type : LinkMsg → Nat
  | .probe _ _ => 1 | .load _ _ => 2 | .flip _ _ => 3 | .bright _ => 4 | .test _ => 5 | .chime _ => 6

/-- Body of a message. -/
def LinkMsg.body : LinkMsg → List Byte
  | .probe width lines => [byte width, byte lines]
  | .load content _ => content.flatten
  | .flip _ _ => []
  | .bright level => [byte level]
  | .test on => [if on then 1 else 0]
  | .chime strokes => [byte strokes]

/-- The bytes of a message as sent: type, tag, length, body and check. -/
def InFlight.bytes (m : InFlight) : List Byte :=
  withCheck ([byte m.msg.type, m.tag, byte m.msg.body.length] ++ m.msg.body)

/-- A reply that passes the link's check. -/
inductive Reply where
  | ack (tag moduleState : Byte)
  | nak (tag : Byte)
  deriving DecidableEq, Repr

/-- The link's check of a reply (R171): its CRC, its type, and a length of 1 for ACK and 0 for NAK. -/
def parseReply : List Byte → Option Reply
  | [type, tag, length, state, c1, c2] =>
    if type = 128 ∧ length = 1 ∧ word c1 c2 = crc [type, tag, length, state] then some (.ack tag state) else none
  | [type, tag, length, c1, c2] =>
    if type = 129 ∧ length = 0 ∧ word c1 c2 = crc [type, tag, length] then some (.nak tag) else none
  | _ => none

end Sys2Proof.Machine
end

