-- ==== Sys2Proof/Machine/Ops.lean ====
section
/-! DEFINITION. Named operations over the state: time, the records of the loaded copy, and the transmit queue
(01 sections 1.4 and 1.7). -/

namespace Sys2Proof.Machine

/-! ### Time (R31, R32) -/

/-- The instant a number of ms after another (modulo 2^32). -/
def after (t : Clock) (ms : Nat) : Clock := t + BitVec.ofNat 32 ms

/-- The time from an earlier clock value to a later one, formed modulo 2^32 (R31). -/
def elapsed (earlier later : Clock) : Nat := (later - earlier).toNat

/-- Whether an expiry instant has been reached at a clock value; durations are below 2^31 ms (R31). -/
def reached (expiry now : Clock) : Bool := (now - expiry).toNat < 2 ^ 31

/-- Whether a timer runs and its expiry instant has been reached. -/
def due (timer : Option Clock) (now : Clock) : Bool :=
  match timer with
  | some e => reached e now
  | none => false

/-- The station clock. -/
def State.now (s : State) : Clock := s.cycle.clock

/-- The cycle time CT (R32), held at 0 in IMAGE_FAULT (R35). -/
def State.ct (s : State) : Nat :=
  match s.loader.state with
  | .imageFault => 0
  | .loading => elapsed s.cycle.base s.cycle.clock
  | .running => elapsed s.cycle.base s.cycle.clock

/-- The watch span Lw (R32). -/
def State.lw (s : State) : Nat := s.loader.copy.lc + s.loader.copy.lc / 4

/-- Whether the part is RUNNING. -/
def State.running (s : State) : Bool := decide (s.loader.state = .running)

/-! ### The loaded copy and its maps (R24) -/

/-- The panel row of a panel. -/
def State.row (s : State) (n : Nat) : Option PanelRow := s.loader.copy.panels[n]?

/-- The numbers of the panels that have a row. -/
def State.panelIds (s : State) : List Nat := List.range s.loader.copy.panels.length

/-- The panels whose row meets a condition, in ascending order. -/
def State.panelsWhere (s : State) (p : PanelRow → Bool) : List Nat :=
  s.panelIds.filter (fun n => match s.row n with | some r => p r | none => false)

/-- The first place of a list whose element meets a condition. -/
def findPlace {α : Type} (p : α → Bool) : List α → Option Nat
  | [] => none
  | a :: as => if p a then some 0 else (findPlace p as).map (· + 1)

/-- Car map (R24): the slot of a bus car number. -/
def State.carSlot (s : State) (car : Byte) : Option Nat :=
  findPlace (fun r => r.number == car.toNat) s.loader.copy.cars

/-- Keypad map (R24): the DESTINATION panel of a keypad station. -/
def State.keypadPanel (s : State) (keypad : Byte) : Option Nat :=
  findPlace (fun r => r.kind == .destination && r.keypads.contains keypad) s.loader.copy.panels

/-- Whether a panel shows a car: LOBBY and LANTERN panels that list it, CAR panels that name it, and every
DESTINATION panel. -/
def PanelRow.shows (r : PanelRow) (slot : Nat) : Bool :=
  match r.kind with
  | .lobby => r.cars.contains slot
  | .lantern => r.cars.contains slot
  | .car => r.slot == slot
  | .destination => true

/-- Car panel map (R24): the panels that show a car. -/
def State.carPanels (s : State) (slot : Nat) : List Nat := s.panelsWhere (fun r => r.shows slot)

/-- The timing set of a panel row. -/
def State.timing (s : State) (r : PanelRow) : TimingSet :=
  (s.loader.copy.timings[r.timing]?).getD
    { scroll := 0, promptHold := 0, boardingHold := 0, reassignHold := 0, linger := 0, quiet := 0, lead := 0 }

/-- Apply an operation to each number of a list, in order. -/
def forEach (l : List Nat) (f : Nat → State → State) (s : State) : State :=
  l.foldl (fun s n => f n s) s

/-! ### The transmit queue (R6 to R10) -/

/-- Answer to a request (R7). -/
inductive Answer where | accepted | coalesced | dropped
  deriving DecidableEq, Repr

/-- Whether a frame stands in a shared slot; TEMPO has a slot of its own (R6). -/
def TxFrame.shared (f : TxFrame) : Bool := f.payload.header != 72

/-- The number of shared slots occupied. -/
def BusUnit.sharedUsed (b : BusUnit) : Nat := (b.queue.filter TxFrame.shared).length

/-- Place a new frame by class, kind and acceptance age (R6): after every frame of a header value not above its own. -/
def insertFrame (f : TxFrame) : List TxFrame → List TxFrame
  | [] => [f]
  | g :: rest =>
    if g.payload.header ≤ f.payload.header then g :: insertFrame f rest else f :: g :: rest

/-- Whether a request coalesces with a queued frame: PANEL LOAD for the same panel, QUEUED or CONTENDING (R8); SENSE
for the same line in any attempt state (R9); neither with a marked frame. -/
def TxFrame.takes (f : TxFrame) (p : TxPayload) : Bool :=
  !f.withdrawn &&
  match p, f.payload with
  | .panelLoad n _ _, .panelLoad m _ _ => n == m && f.state != .sending
  | .sense l _ _ _, .sense m _ _ _ => l == m
  | _, _ => false

/-- A frame that a request has coalesced into: R8 replaces the fields, R9 adds the edges to the edge count
(saturating at 255) or, while the frame is SENDING, to its held increase (saturating at 254). -/
def TxFrame.coalesce (f : TxFrame) (p : TxPayload) : TxFrame :=
  match p, f.payload with
  | .sense _ k _ _, .sense line edges count ct =>
    if f.state = .sending then { f with held := min 254 (f.held + k) }
    else { f with payload := .sense line (min 255 (edges + k)) count ct }
  | _, _ => { f with payload := p }

/-- Put a new frame in the queue in state QUEUED (R7 cases 3 and 6). -/
def State.enqueue (p : TxPayload) (s : State) : State :=
  { s with bus := { s.bus with
      queue := insertFrame { payload := p, state := .queued, withdrawn := false, held := 0 } s.bus.queue } }

/-- A block's request to queue a frame (R7); the first case that applies decides. Where two QUEUED PANEL LOADs of one
panel stand in the queue (a SENDING one failed after a newer one was accepted), the request replaces the fields of both
(the model's choice, log 29). A TEMPO request made while the
reserved slot is occupied, which R37 excludes, is dropped, so that the slot never holds two (log 19). -/
def State.request (p : TxPayload) (s : State) : Answer × State :=
  if s.bus.state = .listenOnly then
    (.dropped, if p.header = 72 then s else s.count .framesDropped)
  else if s.loader.state = .imageFault ∧ p.header ≠ 222 then
    (.dropped, s.count .framesDropped)
  else if p.header = 72 then
    if s.bus.queue.any (fun f => f.payload.header == 72) then (.dropped, s) else (.accepted, s.enqueue p)
  else if s.bus.queue.any (fun f => f.takes p) then
    (.coalesced, { s with bus := { s.bus with
        queue := s.bus.queue.map (fun f => if f.takes p then f.coalesce p else f) } })
  else if Config.sharedSlots ≤ s.bus.sharedUsed then
    (.dropped, (s.count .framesDropped).raise .queueOverflow)
  else (.accepted, s.enqueue p)

/-- The owner of a discarded frame is told dropped (R14): the pending-tempo flag clears (R38), a capture becomes ARMED
(R133), the query of an unmarked report ends (R164), and PANEL LOAD changes nothing (R114). -/
def State.tellDropped (f : TxFrame) (s : State) : State :=
  match f.payload with
  | .tempo _ _ => { s with cycle := { s.cycle with pendingTempo := false } }
  | .panelLoad _ _ _ => s
  | .sense line _ _ _ =>
    { s with mode := { s.mode with
        captures := s.mode.captures.modify line (fun c => { c with armed := true }) } }
  | .report _ _ _ _ =>
    if f.withdrawn then s else { s with status := { s.status with query := none } }

/-- The owner of a withdrawn frame is told withdrawn (R10): the pending-tempo flag clears (R38); a withdrawn report has
no effect (R164). -/
def State.tellWithdrawn (f : TxFrame) (s : State) : State :=
  match f.payload with
  | .tempo _ _ => { s with cycle := { s.cycle with pendingTempo := false } }
  | .panelLoad _ _ _ => s
  | .sense _ _ _ _ => s
  | .report _ _ _ _ => s

/-- Withdraw the frames that meet a condition (R10): a QUEUED frame is removed and its owner told, a CONTENDING or
SENDING one receives a withdrawal mark. -/
def State.withdrawFrames (p : TxFrame → Bool) (s : State) : State :=
  let gone := s.bus.queue.filter (fun f => p f && f.state == .queued)
  let kept := s.bus.queue.filter (fun f => !(p f && f.state == .queued))
  gone.foldl (fun (s : State) f => s.tellWithdrawn f)
    { s with bus := { s.bus with queue := kept.map (fun f => if p f then { f with withdrawn := true } else f) } }

/-- Entry to LISTEN_ONLY (R14): every frame is discarded, counted and reported dropped, and the item is raised. -/
def State.enterListenOnly (s : State) : State :=
  let gone := s.bus.queue
  (gone.foldl (fun (s : State) f => s.tellDropped f)
    (({ s with bus := { s.bus with queue := [], state := .listenOnly } }).countN .framesDropped gone.length)).raise
    .listenOnly

/-- Whether the straps gave a valid station number (R15). -/
def State.validStation (s : State) : Bool := s.bus.station.isStation

/-- A good TEMPO from another station lowers the failure count in LISTEN_ONLY, and at 0 the station returns to ACTIVE;
not for a part without a valid station number (R13, R15). -/
def State.tempoLowers (s : State) : State :=
  if s.bus.state = .listenOnly ∧ s.validStation = true then
    { s with bus := { s.bus with
        failCount := s.bus.failCount - 1,
        state := if s.bus.failCount - 1 = 0 then .active else .listenOnly } }
  else s

/-- A station clash (R16). -/
def State.clash (s : State) : State :=
  let s := s.raise .stationClash
  let s := { s with bus := { s.bus with failCount := Config.listenOnlyAt } }
  if s.bus.state = .active then s.enterListenOnly else s

/-- A frame has ended on the bus, which is not free until it becomes free (R5), and no frame has begun since. -/
def State.busy (s : State) : State := { s with bus := { s.bus with busFree := false, firstBit := none } }

/-- The arrival mark of the frame that ends now: the station clock at its first bit (R3). A frame whose first bit was not
brought as an event of its own began in this millisecond (log 5). -/
def State.frameMark (s : State) : Clock := s.bus.firstBit.getD s.now

end Sys2Proof.Machine
end

