-- ==== Sys2Proof/Machine/Indication.lean ====
section
/-! DEFINITION. The floor indication arithmetic (05): one evaluation for one car, as a function of the loaded copy, the
car row and the record; and the landing forms of R81 and R140. -/

namespace Sys2Proof.Machine

/-! ### Windows (R70) -/

/-- Height of a landing. -/
def Image.height (c : Image) (i : Nat) : Nat :=
  match c.landings[i]? with
  | some l => l.height
  | none => 0

/-- Boundary between the windows of landings i and i + 1 (R70). -/
def Image.boundary (c : Image) (i : Nat) : Nat := (c.height i + c.height (i + 1)) / 2

/-- Clamped to [lo, hi] (00 section 4.1). -/
def clampInt (lo hi x : Int) : Int := max lo (min hi x)

/-- Clamped to the heights of the lowest and highest landing of the car's lower deck (R72, R73). -/
def spanClamp (c : Image) (row : CarRow) (x : Int) : Int := clampInt (c.height row.lo) (c.height row.hi) x

/-! ### The stages (R71 to R78) -/

/-- Whether a car is running. -/
def Motion.isRunning : Motion → Bool
  | .runningUp => true
  | .runningDown => true
  | .parked => false
  | .levelling => false
  | .inspection => false

/-- Whether a car is PARKED or LEVELLING. -/
def Motion.atRest : Motion → Bool
  | .parked => true
  | .levelling => true
  | .runningUp => false
  | .runningDown => false
  | .inspection => false

/-- Effective velocity V' (R71): 0 unless the car runs and the sign of V agrees with its motion state. -/
def effectiveVelocity (m : Motion) (v : Int) : Int :=
  match m with
  | .runningUp => if v < 0 then 0 else v
  | .runningDown => if 0 < v then 0 else v
  | .parked => 0
  | .levelling => 0
  | .inspection => 0

/-- Advance D = V' A / 1000, truncated toward zero (R71). -/
def advance (v : Int) (age : Nat) : Int := (v * (age : Int)).tdiv 1000

/-- Extrapolated position E (R72). -/
def extrapolated (c : Image) (row : CarRow) (r : CarRec) (age : Nat) : Int :=
  spanClamp c row ((r.pos : Int) + advance (effectiveVelocity r.motion r.vel) age)

/-- Lead G (R73). -/
def leadDistance (c : Image) (m : Motion) (v : Int) : Nat :=
  if m.isRunning then min c.gmax ((effectiveVelocity m v).natAbs * c.tlead / 1000) else 0

/-- Switching position Q (R73). -/
def switching (c : Image) (row : CarRow) (r : CarRec) (age : Nat) : Int :=
  let e := extrapolated c row r age
  let g : Int := leadDistance c r.motion r.vel
  spanClamp c row (match r.motion with
    | .runningUp => e + g
    | .runningDown => e - g
    | .parked => e
    | .levelling => e
    | .inspection => e)

/-- The first landing from `i` on whose boundary above lies beyond Q, among `n` boundaries. -/
def candidateFrom (c : Image) (q : Int) : Nat → Nat → Nat
  | 0, i => i
  | n + 1, i => if q < c.boundary i then i else candidateFrom c q n (i + 1)

/-- Candidate landing (R74): the landing of lo..hi whose window holds Q. -/
def candidate (c : Image) (row : CarRow) (q : Int) : Nat := candidateFrom c q (row.hi - row.lo) row.lo

/-- The indication after the hysteresis of R76, from a current landing. -/
def hysteresis (c : Image) (q : Int) (cur cand : Nat) : Nat :=
  if cur < cand then (if (c.boundary (cand - 1) : Int) + c.hyst ≤ q then cand else cur)
  else if cand < cur then (if q < (c.boundary cand : Int) - c.hyst then cand else cur)
  else cur

/-- The direction restriction (R77). -/
def restrictDirection (m : Motion) (cur next : Nat) : Nat :=
  match m with
  | .runningUp => if next < cur then cur else next
  | .runningDown => if cur < next then cur else next
  | .parked => next
  | .levelling => next
  | .inspection => next

/-- The indication after stage 5 (R75 to R77). -/
def stageFive (c : Image) (row : CarRow) (m : Motion) (cur : Option Nat) (q : Int) : Nat :=
  let cand := candidate c row q
  match cur with
  | none => cand
  | some k => restrictDirection m k (hysteresis c q k cand)

/-- The level report that stage 6 takes (R78): of a CAR MOTION, while PARKED or LEVELLING. -/
def levelReport (m : Motion) (report : Option Nat) : Option Nat := if m.atRest then report else none

/-! ### Labels (R81, R140) -/

/-- The express glyph (12.3). -/
def expressGlyph : Byte := 0x03

/-- EXPRESS, as R81 takes it: a sky lobby carries neither flag. -/
def Landing.isExpress (l : Landing) : Bool := l.express && !l.skyLobby

/-- HIDDEN, as R81 takes it. -/
def Landing.isHidden (l : Landing) : Bool := l.hidden && !l.skyLobby

/-- A landing's own label, or the express glyph. -/
def Landing.form (l : Landing) : Chars := if l.isExpress then [expressGlyph] else l.label

/-- The shown form of the first landing of a list of places that is not HIDDEN; empty when there is none. -/
def firstVisible (c : Image) : List Nat → Chars
  | [] => []
  | i :: rest =>
    match c.landings[i]? with
    | some l => if l.isHidden then firstVisible c rest else l.form
    | none => firstVisible c rest

/-- The nearest landing below that is not HIDDEN, or else the nearest above (R81 rule 2). -/
def nearestForm (c : Image) (x : Nat) : Chars :=
  firstVisible c ((List.range x).reverse ++ (List.range (c.landings.length - (x + 1))).map (fun i => x + 1 + i))

/-- Landing form of destinations and stops (R140). -/
def Image.landingForm (c : Image) (x : Nat) : Chars :=
  match c.landings[x]? with
  | some l => if l.isExpress then [expressGlyph] else if l.isHidden then nearestForm c x else l.label
  | none => []

/-- Shown label of a deck that indicates a landing, from its shown label memory (R81). -/
def shownLabel (c : Image) (x : Nat) (memory : Option Chars) : Chars :=
  match c.landings[x]? with
  | some l =>
    if l.isExpress then [expressGlyph]
    else if l.isHidden then
      match memory with
      | some m => m
      | none => nearestForm c x
    else l.label
  | none => []

/-! ### One evaluation (R79) -/

/-- The arrow of the record (R82). -/
def arrowOf (m : Motion) (intent : Dir) : Dir :=
  match m with
  | .runningUp => .up
  | .runningDown => .down
  | .parked => intent
  | .levelling => intent
  | .inspection => .none

/-- The indicated landing that an evaluation gives: stages 1 to 6. -/
def indicationOf (c : Image) (row : CarRow) (r : CarRec) (age : Nat) (report : Option Nat) : Nat :=
  match levelReport r.motion report with
  | some l => l
  | none => stageFive c row r.motion r.indicated (switching c row r age)

/-- Whether a level report differs from the candidate (R78). -/
def levelDisagrees (c : Image) (row : CarRow) (r : CarRec) (age : Nat) (report : Option Nat) : Bool :=
  match levelReport r.motion report with
  | some l => l != candidate c row (switching c row r age)
  | none => false

/-- The record with the results of one evaluation (R79 to R82): age in ms, the lower deck's intent, and the level
landing of the CAR MOTION frame that causes it, if any. -/
def CarRec.evaluated (c : Image) (row : CarRow) (intent : Dir) (age : Nat) (report : Option Nat) (r : CarRec) : CarRec :=
  let x := indicationOf c row r age report
  { r with
    indicated := some x,
    q := some (switching c row r age),
    arrow := arrowOf r.motion intent,
    labelLower := some (shownLabel c x r.labelLower),
    labelUpper := if row.step = 0 then r.labelUpper else some (shownLabel c (x + row.step) r.labelUpper) }

/-- The indicated landing of a deck; the upper deck's is derived (R80). -/
def CarRec.indicatedOf (r : CarRec) (row : CarRow) : Deck → Option Nat
  | .lower => r.indicated
  | .upper => if row.step = 0 then none else r.indicated.map (· + row.step)

/-- The arrow of a deck (R82): the upper deck's is derived when it is read. -/
def CarRec.arrowFor (r : CarRec) (d : CarDecks) : Deck → Dir
  | .lower => r.arrow
  | .upper =>
    if r.tracking = .tracked ∧ r.anchor = true ∧ r.motion.atRest = true then d.upper.intent else r.arrow

/-- The landing at which a deck is level, and its door state there is OPENING or OPEN (R65). -/
def CarRec.levelAt (r : CarRec) (row : CarRow) (d : Deck) : Option Nat :=
  if r.motion.atRest then
    match d with
    | .lower => r.level
    | .upper => if row.step = 0 then none else r.level.map (· + row.step)
  else none

/-- The door state of a deck. -/
def CarRec.door (r : CarRec) : Deck → Door
  | .lower => r.doorLower
  | .upper => r.doorUpper

/-- The landing at which a deck stands level with its doors OPENING or OPEN (R65). -/
def CarRec.openAt (r : CarRec) (row : CarRow) (d : Deck) : Option Nat :=
  if r.door d = .opening ∨ r.door d = .opened then r.levelAt row d else none

/-- The arrival that an event carries for a deck (R65): the landing at which the deck is level with doors opening or
open after the event and was not before. -/
def arrivalOf (row : CarRow) (old new : CarRec) (d : Deck) : Option Nat :=
  match new.openAt row d with
  | some l => if old.openAt row d = some l then none else some l
  | none => none

/-- Whether an event carries a departure (R65). -/
def departs (old new : CarRec) : Bool := !old.motion.isRunning && new.motion.isRunning

end Sys2Proof.Machine
end

