-- ==== Sys2Proof/Machine/StopSets.lean ====
section
/-! DEFINITION. Stop sets, ordered stops and next stop (06 sections 6.1 to 6.4). -/

namespace Sys2Proof.Machine

/-- A deck's record among the two of its car. -/
def CarDecks.get (d : CarDecks) : Deck → DeckRec
  | .lower => d.lower
  | .upper => d.upper

/-- The decks with one of them replaced. -/
def CarDecks.set (d : CarDecks) (k : Deck) (r : DeckRec) : CarDecks :=
  match k with
  | .lower => { d with lower := r }
  | .upper => { d with upper := r }

/-- Starting values of a car's deck records (R86). -/
def CarDecks.start : CarDecks := { lower := DeckRec.start, upper := DeckRec.start }

/-- The deck records of a slot. -/
def State.decksOf (s : State) (slot : Nat) : CarDecks := (s.stops.decks[slot]?).getD CarDecks.start

/-- The record of a slot. -/
def State.carRec (s : State) (slot : Nat) : CarRec := (s.cars[slot]?).getD CarRec.start

/-- The row of a slot. -/
def State.carRow (s : State) (slot : Nat) : Option CarRow := s.loader.copy.cars[slot]?

/-- Whether a landing lies in a deck's served range (R86). -/
def CarRow.serves (row : CarRow) (d : Deck) (l : Nat) : Bool :=
  match d with
  | .lower => row.lo ≤ l && l ≤ row.hi
  | .upper => row.step != 0 && row.lo + row.step ≤ l && l ≤ row.hi + row.step

/-- Place a landing in a sorted set. -/
def insertStop (l : Nat) : List Nat → List Nat
  | [] => [l]
  | x :: rest => if l < x then l :: x :: rest else if l = x then x :: rest else x :: insertStop l rest

/-- The stop set of a CAR CALLS frame (R89): the landings within the served range, sorted, without duplicates. -/
def stopSet (row : CarRow) (d : Deck) : List Byte → List Nat
  | [] => []
  | b :: rest => if row.serves d b.toNat then insertStop b.toNat (stopSet row d rest) else stopSet row d rest

/-- The landings of a CAR CALLS frame outside the served range, each counted in FIELD_RANGE (R89). -/
def stopsOutside (row : CarRow) (d : Deck) (stops : List Byte) : Nat :=
  (stops.filter (fun b => !row.serves d b.toNat)).length

/-- A deck's direction (R91). -/
def directionOf (m : Motion) (intent : Dir) : Dir := arrowOf m intent

/-- The ordered stops of a set from a direction and a current landing (R91). -/
def orderStops (dir : Dir) (current : Option Nat) (stops : List Nat) : List Nat :=
  match dir, current with
  | .up, some k => stops.filter (fun l => k ≤ l) ++ (stops.filter (fun l => l < k)).reverse
  | .down, some k => (stops.filter (fun l => l ≤ k)).reverse ++ stops.filter (fun l => k < l)
  | _, _ => stops

/-- The ordered stops of a deck. -/
def orderedStops (row : CarRow) (r : CarRec) (d : CarDecks) (k : Deck) : List Nat :=
  orderStops (directionOf r.motion (d.get k).intent) (r.indicatedOf row k) (d.get k).stops

/-- The next stop of a deck: the first of its ordered stops (R91). -/
def nextStop (row : CarRow) (r : CarRec) (d : CarDecks) (k : Deck) : Option Nat := (orderedStops row r d k).head?

end Sys2Proof.Machine
end

