-- ==== Sys2Proof/Machine/Compose.lean ====
section
/-! DEFINITION. Page composition (09 section 9.4): a page of a panel as lines of character bytes, from the records as
they stand. -/

namespace Sys2Proof.Machine

/-! ### Glyphs (12.3) -/

/-- Space. -/
def glyphSpace : Byte := 0x20
/-- Up glyph. -/
def glyphUp : Byte := 0x01
/-- Down glyph. -/
def glyphDown : Byte := 0x02
/-- Continuation glyph. -/
def glyphMore : Byte := 0x04
/-- Wheelchair glyph. -/
def glyphAccess : Byte := 0x05
/-- Firefighter glyph. -/
def glyphFire : Byte := 0x06
/-- Re-enter glyph. -/
def glyphReenter : Byte := 0x07
/-- Alarm glyph. -/
def glyphAlarm : Byte := 0x08
/-- Multiplication sign of "×n". -/
def glyphTimes : Byte := 0x09
/-- Dash. -/
def glyphDash : Byte := 0x2D

/-- A character made flashing: the attribute is bit 7 (12.3). -/
def flash (b : Byte) : Byte := b ||| 0x80

/-- Direction glyph (R140). -/
def dirGlyph : Dir → Byte
  | .none => glyphSpace
  | .up => glyphUp
  | .down => glyphDown

/-! ### Lines and texts (R140) -/

/-- A line of exactly the panel's width: filled with spaces, or cut with the continuation glyph last. -/
def fitLine (width : Nat) (line : Chars) : Chars :=
  if line.length ≤ width then line ++ List.replicate (width - line.length) glyphSpace
  else line.take (width - 1) ++ [glyphMore]

/-- Line content placed left-aligned in a field of fixed size. -/
def field (size : Nat) (c : Chars) : Chars := (c ++ List.replicate (size - c.length) glyphSpace).take size

/-- A text set on a number of lines; what does not fit ends the last line in the way of a long line. -/
def setText (width : Nat) : Nat → Chars → Content
  | 0, _ => []
  | 1, t => [fitLine width t]
  | n + 2, t => fitLine width (t.take width) :: setText width (n + 1) (t.drop width)

/-- Lines of one repeated character. -/
def solidLines (width lines : Nat) (b : Byte) : Content := List.replicate lines (List.replicate width b)

/-- A page of spaces. -/
def blankLines (width lines : Nat) : Content := solidLines width lines glyphSpace

/-- A page with its last line replaced (R146). -/
def replaceLast (page : Content) (line : Chars) : Content := page.dropLast ++ [line]

/-- The lines of a page filled up with lines of spaces, and no more than the panel has. -/
def fillLines (width lines : Nat) (page : Content) : Content :=
  (page ++ blankLines width lines).take lines

/-- The version of a text for a language; an empty secondary version is replaced by the primary one. -/
def Text.version (t : Text) : Lang → Chars
  | .primary => t.primary
  | .secondary => if t.secondary = [] then t.primary else t.secondary

/-- A text of the loaded copy in a language. -/
def State.textOf (s : State) (n : Nat) (l : Lang) : Chars :=
  match s.loader.copy.texts[n]? with
  | some t => t.version l
  | none => []

/-- The notice text: the text index of the newest claim (R121). -/
def ModeUnit.noticeText (m : ModeUnit) : Option Nat := m.claims.getLast?.map (·.text)

/-- The schedule of a panel. -/
def State.schedule (s : State) (n : Nat) : Option Schedule := s.schedules[n]?

/-- Whether a panel's language pin is set (R129). -/
def State.pin (s : State) (n : Nat) : Bool := (s.mode.pins[n]?).getD false

/-- The language in use of a panel (R135). -/
def State.langInUse (s : State) (n : Nat) : Lang :=
  if s.pin n then .secondary
  else match s.schedule n with
    | some sc => sc.lang
    | none => .primary

/-! ### FLOOR pages (R141) -/

/-- The deck of a car that a LOBBY or DESTINATION panel shows. -/
def deckShown (row : PanelRow) (car : CarRow) : Deck :=
  if 0 < car.step ∧ car.serves .upper row.landing = true ∧ car.serves .lower row.landing = false then .upper else .lower

/-- The cars and decks of a panel's FLOOR page, in cell order. -/
def State.floorCars (s : State) (row : PanelRow) : List (Nat × Deck) :=
  let shown (slot : Nat) : Nat × Deck :=
    (slot, match s.carRow slot with
      | some car => deckShown row car
      | none => .lower)
  match row.kind with
  | .lobby => row.cars.map shown
  | .destination => (List.range s.loader.copy.cars.length).map shown
  | .car => [(row.slot, row.deck)]
  | .lantern => []

/-- The label of a car in its two-character field; padding is steady (log 18). -/
def labelField (label : Chars) (flashing : Bool) : Chars :=
  field 2 (if flashing then label.map flash else label)

/-- The indication field of a deck: its shown label, or spaces when its indication is none. -/
def indicationField (car : CarRow) (r : CarRec) (d : Deck) : Chars :=
  match r.indicatedOf car d with
  | none => field 4 []
  | some _ =>
    match d with
    | .lower => field 4 (r.labelLower.getD [])
    | .upper => field 4 (r.labelUpper.getD [])

/-- The cell of a car: label, space, indication, arrow, by its tracking state. -/
def State.cell (s : State) (slot : Nat) (d : Deck) : Chars :=
  match s.carRow slot with
  | none => field 8 []
  | some car =>
    let r := s.carRec slot
    let arrow (a : Byte) : Byte := if r.service = .firefighter then glyphFire else a
    match r.tracking with
    | .tracked =>
      labelField car.label false ++ [glyphSpace] ++ indicationField car r d
        ++ [arrow (dirGlyph (r.arrowFor (s.decksOf slot) d))]
    | .stale =>
      labelField car.label true ++ [glyphSpace] ++ indicationField car r d ++ [arrow glyphSpace]
    | .lost => labelField car.label false ++ [glyphSpace] ++ field 4 [glyphDash, glyphDash] ++ [glyphSpace]
    | .unknown => field 8 []

/-- The last cell of a page that leaves cars out: its arrow field shows the continuation glyph. Where R141 gives that
field another character as well, the firefighter glyph of a car in FIREFIGHTER service or the space of an UNKNOWN car, the
continuation glyph stands (the model's choice, log 34). -/
def markLast : List Chars → List Chars
  | [] => []
  | [c] => [c.take 7 ++ [glyphMore]]
  | c :: d :: rest => c :: markLast (d :: rest)

/-- Cells joined by one space. -/
def joinCells : List Chars → Chars
  | [] => []
  | [c] => c
  | c :: d :: rest => c ++ [glyphSpace] ++ joinCells (d :: rest)

/-- Cells laid out line by line, `k` to a line. -/
def layCells (width k : Nat) : Nat → List Chars → Content
  | 0, _ => []
  | n + 1, cells => fitLine width (joinCells (cells.take k)) :: layCells width k n (cells.drop k)

/-- A FLOOR page. -/
def State.floorPage (s : State) (row : PanelRow) : Content :=
  let k := max 1 ((row.width + 1) / 9)
  let room := if row.kind = .car then 1 else k * row.lines
  let cars := s.floorCars row
  let cells := (cars.take room).map (fun c => s.cell c.1 c.2)
  layCells row.width k row.lines (if room < cars.length then markLast cells else cells)

/-! ### PROMPTS and STOPS pages (R142, R143) -/

/-- Whether the last line carries a notice (R146 at level 2). -/
def State.noticeLine (s : State) (row : PanelRow) : Bool := s.mode.level == .notice && 2 ≤ row.lines

/-- The item lines of a PROMPTS or STOPS page (R142). -/
def State.itemLines (s : State) (row : PanelRow) : Nat :=
  if s.noticeLine row then row.lines - 1 else row.lines

/-- A panel's prompt list, oldest first (R99). -/
def State.promptList (s : State) (n : Nat) : List Prompt := s.prompts.pool.filter (fun p => p.panel == n)

/-- The label of a car row. -/
def State.carLabel (s : State) (slot : Nat) : Chars :=
  match s.carRow slot with
  | some c => c.label
  | none => []

/-- A digit as a character. -/
def digit (n : Nat) : Byte := BitVec.ofNat 8 (0x30 + n)

/-- The content of a SHOWN entry's line (R142). -/
def State.shownLine (s : State) (row : PanelRow) (p : Prompt) : Chars :=
  s.loader.copy.landingForm p.dest ++ [glyphSpace]
    ++ [if row.landing < p.dest then glyphUp else if p.dest < row.landing then glyphDown else glyphSpace]
    ++ [glyphSpace] ++ s.carLabel p.slot
    ++ (if 2 ≤ p.merges then [glyphSpace, glyphTimes, digit p.merges] else [])
    ++ (if p.access then [glyphSpace, glyphAccess] else [])

/-- The re-enter text of an entry's language: text 0, or the re-enter glyph when there is no text. -/
def State.reenterText (s : State) (l : Lang) : Chars :=
  if s.loader.copy.texts = [] then [glyphReenter] else s.textOf 0 l

/-- A prompt entry's line; a BOARDING line flashes whole (R142, log 18). -/
def State.promptLine (s : State) (row : PanelRow) (p : Prompt) : Chars :=
  match p.state with
  | .shown => fitLine row.width (s.shownLine row p)
  | .boarding => (fitLine row.width (s.shownLine row p)).map flash
  | .reassign => fitLine row.width (s.loader.copy.landingForm p.dest ++ [glyphSpace] ++ s.reenterText p.lang)

/-- The ordered stops that a CAR panel shows (R143). -/
def State.panelStops (s : State) (row : PanelRow) : List Nat :=
  match s.carRow row.slot with
  | some car => orderedStops car (s.carRec row.slot) (s.decksOf row.slot) row.deck
  | none => []

/-- The number of items of a page: prompts or stops; other pages have none. -/
def State.itemCount (s : State) (n : Nat) (row : PanelRow) (page : Page) : Nat :=
  match page with
  | .prompts => (s.promptList n).length
  | .stops => (s.panelStops row).length
  | .floor => 0
  | .text _ => 0
  | .notice => 0
  | .blank => 0
  | .lantern => 0

/-- One view of a list of item lines. -/
def State.itemPage (s : State) (row : PanelRow) (items : List Chars) (index : Nat) : Content :=
  let k := s.itemLines row
  fillLines row.width row.lines ((items.drop (index * k)).take k)

/-! ### LANTERN pages (R145) -/

/-- The contribution of a lantern record; nothing for a DARK one. The glyph flashes while ANNOUNCED, also when it is
the firefighter glyph (log 18). -/
def State.lanternPart (s : State) (r : Lantern) : List Chars :=
  let g := if (s.carRec r.slot).service = .firefighter then glyphFire else dirGlyph r.dir
  match r.state with
  | .dark => []
  | .announced => [s.carLabel r.slot ++ [flash g]]
  | .open_ => [s.carLabel r.slot ++ [g]]
  | .linger => [s.carLabel r.slot ++ [g]]

/-- The page of a LANTERN panel; its records stand in the order of the panel's car list. -/
def State.lanternPage (s : State) (n : Nat) (row : PanelRow) : Content :=
  fillLines row.width row.lines
    [fitLine row.width (joinCells ((s.stops.lanterns.filter (fun r => r.panel == n)).flatMap s.lanternPart))]

/-! ### Pages (R144, R146) -/

/-- The page of R141 to R144. -/
def State.basePage (s : State) (n : Nat) (row : PanelRow) (page : Page) (index : Nat) : Content :=
  match page with
  | .floor => s.floorPage row
  | .prompts => s.itemPage row ((s.promptList n).reverse.map (s.promptLine row)) index
  | .stops => s.itemPage row ((s.panelStops row).map (fun l => fitLine row.width (s.loader.copy.landingForm l))) index
  | .text k => setText row.width row.lines (s.textOf k (s.langInUse n))
  | .notice =>
    match s.mode.noticeText with
    | some k => setText row.width row.lines (s.textOf k (s.langInUse n))
    | none => blankLines row.width row.lines
  | .blank => blankLines row.width row.lines
  | .lantern => s.lanternPage n row

/-- The evacuation text set on a number of lines; the alarm glyph throughout when there is none (R146). -/
def State.evacLines (s : State) (n width lines : Nat) : Content :=
  match s.mode.evacText with
  | some k => setText width lines (s.textOf k (s.langInUse n))
  | none => solidLines width lines glyphAlarm

/-- The notice text on one line. -/
def State.noticeOneLine (s : State) (n width : Nat) : Chars :=
  match s.mode.noticeText with
  | some k => fitLine width (s.textOf k (s.langInUse n))
  | none => fitLine width []

/-- Whether a page gives way to the notice on a one-line panel. -/
def Page.givesWay : Page → Bool
  | .text _ => true
  | .blank => true
  | .floor => false
  | .prompts => false
  | .stops => false
  | .notice => false
  | .lantern => false

/-- The page composed for a panel with the text that the service level adds (R146). -/
def State.composeFor (s : State) (n : Nat) (row : PanelRow) (page : Page) (index : Nat) : Content :=
  match row.kind, s.mode.level with
  | .lantern, _ => s.lanternPage n row
  | .car, .evacuate => replaceLast (s.floorPage row) (s.evacLines n row.width 1).flatten
  | _, .evacuate => s.evacLines n row.width row.lines
  | _, .notice =>
    if 2 ≤ row.lines then
      if page = .notice then s.basePage n row page index
      else replaceLast (s.basePage n row page index) (s.noticeOneLine n row.width)
    else if page.givesWay then [s.noticeOneLine n row.width]
    else s.basePage n row page index
  | _, _ => s.basePage n row page index

/-- Composition of a page of a panel. -/
def State.compose (s : State) (n : Nat) (page : Page) (index : Nat) : Content :=
  match s.row n with
  | some row => s.composeFor n row page index
  | none => []

end Sys2Proof.Machine
end

