-- ==== Sys2Proof/Machine/Link.lean ====
section
/-! DEFINITION. The link controller's transactions and queues (10 sections 10.3 and 10.5): work is sent at once or
placed under R156 to R160. What a reply does beyond its link stands in LinkEvents. -/

namespace Sys2Proof.Machine

/-- Whether a message is a LOAD. -/
def LinkMsg.isLoad : LinkMsg → Bool
  | .load _ _ => true
  | _ => false

/-- Whether a message is a FLIP. -/
def LinkMsg.isFlip : LinkMsg → Bool
  | .flip _ _ => true
  | _ => false

/-- Whether a message is a BRIGHT. -/
def LinkMsg.isBright : LinkMsg → Bool
  | .bright _ => true
  | _ => false

/-- Whether a message is a TEST. -/
def LinkMsg.isTest : LinkMsg → Bool
  | .test _ => true
  | _ => false

/-- Whether a message is a CHIME. -/
def LinkMsg.isChime : LinkMsg → Bool
  | .chime _ => true
  | _ => false

/-- Whether a message is the LOAD handed as a numbered work. -/
def LinkMsg.isLoadOf (work : Nat) : LinkMsg → Bool
  | .load _ w => w == work
  | _ => false

/-- Whether a message is a FLIP marked late (R158). -/
def LinkMsg.isLateFlip : LinkMsg → Bool
  | .flip _ late => late
  | _ => false

/-- The link record of a link. -/
def State.link (s : State) (n : Nat) : Option LinkRec := s.links[n]?

/-- Whether a link is UP. -/
def State.linkUp (s : State) (n : Nat) : Bool :=
  match s.link n with
  | some l => l.state == .up
  | none => false

/-- Change one link record. -/
def State.setLink (n : Nat) (f : LinkRec → LinkRec) (s : State) : State :=
  { s with links := s.links.modify n f }

/-- Put a message in flight (R152): the tag counter rises and gives the tag, and the timeout runs 40 ms. -/
def LinkRec.fly (l : LinkRec) (m : LinkMsg) (attempt : Nat) (now : Clock) : LinkRec :=
  { l with tag := l.tag + 1,
           inFlight := some { msg := m, tag := l.tag + 1, attempt := attempt, expiry := after now Config.linkTimeout } }

/-- Remove the first message that meets a condition. -/
def eraseFirst (p : LinkMsg → Bool) : List LinkMsg → List LinkMsg
  | [] => []
  | m :: rest => if p m then rest else m :: eraseFirst p rest

/-- The queue without its LOAD and the FLIPs that wait behind it (R160 step 2). -/
def dropLoad : List LinkMsg → List LinkMsg
  | [] => []
  | m :: rest => if m.isLoad then rest.filter (fun x => !x.isFlip) else m :: dropLoad rest

/-- Make room for new work when the queue holds 3 messages (R160), and whether the new work is still to be placed.
The last case, which no run reaches, keeps the queue within its capacity (log 19). -/
def LinkRec.makeRoom (l : LinkRec) (m : LinkMsg) : LinkRec × Bool :=
  if l.queue.length < Config.linkQueueSize then (l, true)
  else if l.queue.any LinkMsg.isBright then
    ({ l with queue := eraseFirst LinkMsg.isBright l.queue, brightStale := true }, true)
  else if l.queue.any LinkMsg.isLoad then
    ({ l with queue := dropLoad l.queue, pageStale := true }, !m.isFlip)
  else if l.queue.any LinkMsg.isChime then ({ l with queue := eraseFirst LinkMsg.isChime l.queue }, true)
  else (l, false)

/-- Place a message at the tail, after making room (R156, R160). -/
def LinkRec.append (l : LinkRec) (m : LinkMsg) : LinkRec :=
  let (l, keep) := l.makeRoom m
  if keep then { l with queue := l.queue ++ [m] } else l

/-- Take a FLIP into a queued FLIP that has no LOAD queued after it (R158); none when there is no such FLIP. The merged
FLIP answers the newer work and is late when either was. -/
def mergeFlip (work : Nat) (late : Bool) : List LinkMsg → Option (List LinkMsg)
  | [] => none
  | m :: rest =>
    match mergeFlip work late rest with
    | some rest' => some (m :: rest')
    | none =>
      match m with
      | .flip _ late' => if rest.any LinkMsg.isLoad then none else some (.flip work (late' || late) :: rest)
      | _ => none

/-- Place new work in the queue of an UP link (R157 to R159). -/
def LinkRec.place (l : LinkRec) (m : LinkMsg) : LinkRec :=
  match m with
  | .load _ _ =>
    if l.queue.any LinkMsg.isLoad then { l with queue := l.queue.map (fun x => if x.isLoad then m else x) }
    else l.append m
  | .flip work late =>
    match mergeFlip work late l.queue with
    | some q => { l with queue := q }
    | none => l.append m
  | .bright _ => { l with queue := l.queue.filter (fun x => !x.isBright) }.append m
  | .test _ => { l with queue := l.queue.filter (fun x => !x.isTest) }.append m
  | .chime _ => l.append m
  | .probe _ _ => l

/-- Whether a LOAD is queued or in flight: then a FLIP handed now waits behind it (R158). That it does so behind an older
LOAD in flight, where the LOAD handed last was dropped under R160, is the model's choice (log 38). -/
def LinkRec.loadAhead (l : LinkRec) : Bool :=
  l.queue.any LinkMsg.isLoad ||
  match l.inFlight with
  | some f => f.msg.isLoad
  | none => false

/-- Work handed to a link (R156): taken when the link is UP, else discarded (R151, R154, R155). It is sent at once when
nothing is in flight and the queue is empty. A FLIP handed at a mark, given here with its late field set, is late only
when a LOAD is ahead of it (R158). -/
def LinkRec.hand (l : LinkRec) (m : LinkMsg) (now : Clock) : LinkRec :=
  if l.state = .up then
    let m := match m with
      | .flip work atMark => .flip work (atMark && l.loadAhead)
      | m => m
    if l.inFlight = none ∧ l.queue = [] then l.fly m 1 now else l.place m
  else l

/-- Hand work to a panel's link. -/
def State.hand (n : Nat) (m : LinkMsg) (s : State) : State := s.setLink n (fun l => l.hand m s.now)

/-- Cancel a LOAD handed for a preload (R157): removed while queued; one in flight is taken to its end. -/
def State.cancelLoad (n work : Nat) (s : State) : State :=
  s.setLink n (fun l =>
    if l.state = .up then
      { l with queue := l.queue.filter (fun m => !m.isLoadOf work) }
    else l)

/-- Send the next message of the queue of an UP link with nothing in flight (R152), counting a late FLIP when it is sent
(R158). -/
def State.sendNext (n : Nat) (s : State) : State :=
  match s.link n with
  | some l =>
    if l.state = .up ∧ l.inFlight = none then
      match l.queue with
      | m :: rest =>
        (if m.isLateFlip then s.count .lateFlips else s).setLink n
          (fun l => { l with queue := rest }.fly m 1 s.now)
      | [] => s
    else s
  | none => s

/-- The PROBE of a link (R155): the panel row's width and line count, or 8 and 1 where there is no row, as in
IMAGE_FAULT. -/
def State.probeMsg (s : State) (n : Nat) : LinkMsg :=
  match s.row n with
  | some r => .probe r.width r.lines
  | none => .probe 8 1

/-- A link enters PROBING with nothing queued and its PROBE sent as attempt 1 (R155, R162). The tag counter is kept. -/
def State.startProbing (n : Nat) (s : State) : State :=
  s.setLink n (fun l =>
    { l with state := .probing, inFlight := none, queue := [], pageStale := false, brightStale := false,
             reprobe := none }.fly (s.probeMsg n) 1 s.now)

end Sys2Proof.Machine
end

