-- ==== Sys2Proof/Machine/Show.lean ====
section
/-! DEFINITION. The show scheduler (09): schedules, marks, preloads, paging, content changes, relights and what the link
controller reports to it. -/

namespace Sys2Proof.Machine

/-- Change one schedule. -/
def State.setSched (n : Nat) (f : Schedule → Schedule) (s : State) : State :=
  { s with schedules := s.schedules.modify n f }

/-- The quiet state of a panel. -/
def State.quietOf (s : State) (n : Nat) : Quiet :=
  match s.mode.quiet[n]? with
  | some q => q.state
  | none => .awake

/-- Whether a panel is DARK. -/
def State.isDark (s : State) (n : Nat) : Bool := s.quietOf n == .dark

/-- Whether a panel's list is suspended (R136, R149). -/
def State.suspended (s : State) (row : PanelRow) : Bool := s.mode.level == .evacuate && row.kind != .lantern

/-- Whether work of the show scheduler can reach a panel's module now: AWAKE or DIM with its link UP (R148, R150). -/
def State.reachable (s : State) (n : Nat) : Bool := !s.isDark n && s.linkUp n

/-! ### Paging (R147) -/

/-- The number of page views of a number of items. -/
def pageViews (items lines : Nat) : Nat := (items + (lines - 1)) / lines

/-- Whether a page of a panel is paged: it holds more items than its item lines. -/
def State.paged (s : State) (n : Nat) (row : PanelRow) (page : Page) : Bool :=
  s.itemLines row < s.itemCount n row page

/-- Bring page index and scroll timer in line with the current page before it is composed (R147): the index returns to
0 when it is no longer below the number of views, the timer starts when the page is paged and stops when it is not. A
suspended list has no scroll timer and index 0 (R149). -/
def State.settlePaging (n : Nat) (s : State) : State :=
  match s.row n with
  | none => s
  | some row =>
    s.setSched n (fun sc =>
      if s.suspended row = false ∧ s.paged n row sc.page = true then
        { sc with
          index := if sc.index < pageViews (s.itemCount n row sc.page) (s.itemLines row) then sc.index else 0,
          scroll := match sc.scroll with
            | some e => some e
            | none => some (after s.now (s.timing row).scroll) }
      else { sc with index := 0, scroll := none })

/-! ### Handing pages (R139, R148, R150) -/

/-- A preload that was LOADING or LOADED becomes WAITING, because another LOAD takes the module's page store. -/
def Preload.displaced (p : Preload) : Preload := { p with state := .waiting }

/-- Hand LOAD and then FLIP of a content: it becomes the last content handed, and the FLIP is outstanding. The FLIP is
given `atMark` when it is handed at the mark of a show entry (R158). -/
def State.handPage (n : Nat) (content : Content) (atMark : Bool) (s : State) : State :=
  match s.schedule n with
  | none => s
  | some sc =>
    ((s.hand n (.load content (sc.works + 1))).hand n (.flip (sc.works + 2) atMark)).setSched n (fun sc =>
      { sc with works := sc.works + 2, last := some content, flip := some (sc.works + 2),
                preload := sc.preload.map Preload.displaced })

/-- Hand the LOAD of a preload, which becomes LOADING (R139). -/
def State.handPreload (n : Nat) (p : Preload) (s : State) : State :=
  match s.schedule n with
  | none => s
  | some sc =>
    let content := s.compose n p.page 0
    (s.hand n (.load content (sc.works + 1))).setSched n (fun sc =>
      { sc with works := sc.works + 1,
                preload := some { p with content := some content, state := .loading, load := sc.works + 1 } })

/-- The preload is composed again and loaded again when it differs (R148, case Equal). -/
def State.recomposePreload (n : Nat) (s : State) : State :=
  match s.schedule n with
  | none => s
  | some sc =>
    match sc.preload with
    | none => s
    | some p =>
      if p.state = .waiting then s
      else if p.content = some (s.compose n p.page 0) then s
      else s.handPreload n p

/-- The current page of a panel, composed now. -/
def State.currentContent (s : State) (n : Nat) : Content :=
  match s.schedule n with
  | some sc => s.compose n sc.page sc.index
  | none => []

/-- The content of the LOAD behind which the latest FLIP was handed. -/
def State.lastContent (s : State) (n : Nat) : Option Content :=
  match s.schedule n with
  | some sc => sc.last
  | none => none

/-- A content change for a panel (R148). -/
def State.contentChange (n : Nat) (s : State) : State :=
  let s := s.settlePaging n
  if s.reachable n then
    if s.lastContent n = some (s.currentContent n) then s.recomposePreload n
    else s.handPage n (s.currentContent n) false
  else s

/-- Content changes for several panels, one after another. -/
def State.contentChanges (l : List Nat) (s : State) : State := forEach l (fun n s => s.contentChange n) s

/-- A relight (R150): LOAD and FLIP of the current page whether or not it equals the last content, then BRIGHT. -/
def State.relight (n level : Nat) (s : State) : State :=
  let s := s.settlePaging n
  (s.handPage n (s.currentContent n) false).hand n (.bright level)

/-- Link down (R150, R139): preload, waiting entries, flip outstanding and last content are cleared. A refresh takes it too,
waiting entries included (log 37). -/
def State.schedLinkDown (n : Nat) (s : State) : State :=
  s.setSched n (fun sc => { sc with preload := none, waiting := [], flip := none, last := none })

/-- Link up (R150): LOAD and FLIP of the current page, unless the panel is DARK. -/
def State.schedLinkUp (n : Nat) (s : State) : State :=
  let s := s.settlePaging n
  if s.isDark n then s else s.handPage n (s.currentContent n) false

/-! ### Preloads (R139) -/

/-- The show list of a panel. -/
def State.showList (s : State) (n : Nat) : List ShowEntry :=
  match s.row n with
  | some r => r.list
  | none => []

/-- Whether an entry matches a cycle count (R136). -/
def ShowEntry.matchesCount (e : ShowEntry) (count : BitVec 6) : Bool := count.toNat % e.period == e.phase

/-- The page of a PAGE or BLANK entry. -/
def ShowEntry.page? (e : ShowEntry) : Option Page :=
  match e.action with
  | .page p => some p
  | .language _ => none

/-- Whether a preload may begin: the panel is not DARK, its link is UP and its list is not suspended (R139). -/
def State.mayPreload (s : State) (n : Nat) : Bool :=
  s.reachable n && match s.row n with
    | some row => !s.suspended row
    | none => false

/-- The preload of an entry begins, with no other preload pending: not for a continuing entry; WAITING while a FLIP is
outstanding, else composed and LOADING (R139). -/
def State.beginPreload (n entry : Nat) (s : State) : State :=
  match (s.showList n)[entry]?, s.schedule n with
  | some e, some sc =>
    match e.page? with
    | some p =>
      if s.mayPreload n = true ∧ p ≠ sc.page then
        match sc.flip with
        | some _ => s.setSched n (fun sc =>
            { sc with preload := some { entry := entry, page := p, content := none, state := .waiting, load := 0 } })
        | none => s.handPreload n { entry := entry, page := p, content := none, state := .waiting, load := 0 }
      else s
    | none => s
  | _, _ => s

/-- Whether a panel has a preload. -/
def State.hasPreload (s : State) (n : Nat) : Bool :=
  match s.schedule n with
  | some sc => sc.preload.isSome
  | none => false

/-- The waiting entries leave their list in order until the preload of one of them begins (R139). -/
def startWaitingFrom (n : Nat) : List Nat → State → State
  | [], s => s
  | e :: rest, s =>
    if s.hasPreload n then s
    else startWaitingFrom n rest ((s.setSched n (fun sc => { sc with waiting := rest })).beginPreload n e)

/-- The pending preload has become none: the first waiting entry begins. -/
def State.startWaiting (n : Nat) (s : State) : State :=
  match s.schedule n with
  | some sc => startWaitingFrom n sc.waiting s
  | none => s

/-- An entry's preload instant is reached (R139). A LANGUAGE entry and an entry that may not preload take none. -/
def State.instantReached (n entry : Nat) (e : ShowEntry) (s : State) : State :=
  match e.page? with
  | none => s
  | some _ =>
    if s.mayPreload n then
      if s.hasPreload n then s.setSched n (fun sc => { sc with waiting := sc.waiting ++ [entry] })
      else s.beginPreload n entry
    else s

/-- An entry's preload instant: its mark less the preload lead, or 0 (R139). -/
def State.preloadAt (s : State) (n : Nat) (e : ShowEntry) : Nat :=
  match s.row n with
  | some row => e.mark - (s.timing row).lead
  | none => e.mark

/-- Whether an entry has not acted in this cycle: it stands at or beyond the pointer. -/
def State.notActed (s : State) (n entry : Nat) : Bool :=
  match s.schedule n with
  | some sc => match sc.pointer with
    | some p => p ≤ entry
    | none => false
  | none => false

/-- Take the preload instants that CT has reached, from entry `i` on, whose entries are given. -/
def walkInstants (n : Nat) : List ShowEntry → Nat → State → State
  | [], i, s => s.setSched n (fun sc => { sc with instants := i })
  | e :: rest, i, s =>
    if s.ct < s.preloadAt n e then s.setSched n (fun sc => { sc with instants := i })
    else walkInstants n rest (i + 1)
      (if e.matchesCount s.cycle.count = true ∧ s.notActed n i = true then s.instantReached n i e else s)

/-- Take every preload instant of a panel that CT has reached and that has not been taken in this cycle. -/
def State.takeInstants (n : Nat) (s : State) : State :=
  match s.schedule n with
  | some sc => walkInstants n ((s.showList n).drop sc.instants) sc.instants s
  | none => s

/-! ### Marks (R136, R138) -/

/-- A page becomes current at a mark: page index 0, and the scroll timer starts when it is paged (R138, R147). -/
def State.setPage (n : Nat) (p : Page) (s : State) : State :=
  (s.setSched n (fun sc => { sc with page := p, index := 0, scroll := none })).settlePaging n

/-- The preload of the entry at its mark (R139, R150): FLIP behind its LOAD, or composed and handed when it was still
WAITING, or nothing while the panel is DARK. -/
def State.flipPreload (n : Nat) (p : Preload) (s : State) : State :=
  let s1 := (s.setSched n (fun sc => { sc with preload := none })).setPage n p.page
  if s.isDark n then s1
  else
    match p.state, p.content, s1.schedule n with
    | .waiting, _, _ => s1.handPage n (s1.compose n p.page 0) true
    | _, some content, some sc =>
      (s1.hand n (.flip (sc.works + 1) true)).setSched n (fun sc =>
        { sc with works := sc.works + 1, last := some content, flip := some (sc.works + 1) })
    | _, _, _ => s1

/-- A LANGUAGE action (R138): ignored while the pin is set. -/
def State.actLanguage (n : Nat) (l : Lang) (s : State) : State :=
  if s.pin n then s
  else if s.langInUse n = l then s
  else (s.setSched n (fun sc => { sc with lang := l })).contentChange n

/-- A PAGE or BLANK action at its mark (R138, R139). A continuing entry, here one without a preload of its own whose page
is the current page (log 15), changes nothing. -/
def State.actPage (n entry : Nat) (p : Page) (s : State) : State :=
  match s.schedule n with
  | none => s
  | some sc =>
    match sc.preload with
    | some pre =>
      if pre.entry = entry then (s.flipPreload n pre).startWaiting n
      else if p = sc.page then s
      else (s.setPage n p).contentChange n
    | none => if p = sc.page then s else (s.setPage n p).contentChange n

/-- An entry acts by its action; no entry of a suspended list does (R136, R138). -/
def State.act (n entry : Nat) (e : ShowEntry) (s : State) : State :=
  match s.row n with
  | none => s
  | some row =>
    if s.suspended row then s
    else match e.action with
      | .language l => s.actLanguage n l
      | .page p => s.actPage n entry p

/-- The place of the first entry from `i` on, whose entries are given, that matches a count. -/
def nextMatch (count : BitVec 6) : List ShowEntry → Nat → Option Nat
  | [], _ => none
  | e :: rest, i => if e.matchesCount count then some i else nextMatch count rest (i + 1)

/-- Set the pointer. -/
def State.setPointer (n : Nat) (p : Option Nat) (s : State) : State :=
  s.setSched n (fun sc => { sc with pointer := p })

/-- The entries that match and whose marks CT has reached act in list order, from entry `i` on, whose entries are given;
the pointer then stands at the next matching entry, or at end (R136). -/
def walkMarks (n : Nat) : List ShowEntry → Nat → State → State
  | [], _, s => s.setPointer n none
  | e :: rest, i, s =>
    if e.matchesCount s.cycle.count then
      if e.mark ≤ s.ct then
        walkMarks n rest (i + 1) ((s.setPointer n (nextMatch s.cycle.count rest (i + 1))).act n i e)
      else s.setPointer n (some i)
    else walkMarks n rest (i + 1) s

/-- Every entry of a panel from the pointer on whose mark CT has reached acts. -/
def State.takeMarks (n : Nat) (s : State) : State :=
  match s.schedule n with
  | some sc =>
    match sc.pointer with
    | some p => walkMarks n ((s.showList n).drop p) p s
    | none => s
  | none => s

/-! ### Cycle start (R137) -/

/-- Abandon the preload: the LOAD of a LOADING one is cancelled (R137). -/
def State.abandonPreload (n : Nat) (s : State) : State :=
  match s.schedule n with
  | none => s
  | some sc =>
    match sc.preload with
    | none => s
    | some p =>
      (if p.state = .loading then s.cancelLoad n p.load else s).setSched n (fun sc => { sc with preload := none })

/-- The number of entries at or beyond the pointer that match the old count: those that the cycle start skips. -/
def State.skippedOf (s : State) (n : Nat) (count : BitVec 6) : Nat :=
  match s.row n, s.schedule n with
  | some row, some sc =>
    if s.suspended row then 0
    else match sc.pointer with
      | some p => ((row.list.drop p).filter (fun e => e.matchesCount count)).length
      | none => 0
  | _, _ => 0

/-- A cycle start event taken for one panel, given the count of the cycle before: skipped entries are counted and
their preload abandoned (not at a START), the waiting entries are emptied, the pointer moves to the first entry that
matches the new count, and instants and then marks already reached are taken (log 16). -/
def State.schedCycleStart (e : CycleStart) (old : BitVec 6) (n : Nat) (s : State) : State :=
  let s := if e.cause = .start then s else (s.countN .skippedMarks (s.skippedOf n old)).abandonPreload n
  let s := s.setSched n (fun sc =>
    { sc with waiting := [], instants := 0, pointer := nextMatch s.cycle.count (s.showList n) 0 })
  (s.takeInstants n).takeMarks n

/-! ### Completions from the link controller (R139) -/

/-- Load complete: LOADING becomes LOADED when it answers the LOAD that the preload handed last. -/
def State.loadComplete (n work : Nat) (s : State) : State :=
  s.setSched n (fun sc =>
    { sc with preload := sc.preload.map (fun p =>
        if p.state = .loading ∧ p.load = work then { p with state := .loaded } else p) })

/-- Flip complete: clears the flip outstanding when it answers the FLIP handed last; a WAITING preload is then composed
and loaded, but not while the panel is DARK (R139, R150). -/
def State.flipComplete (n work : Nat) (s : State) : State :=
  match s.schedule n with
  | none => s
  | some sc =>
    if sc.flip = some work then
      let s := s.setSched n (fun sc => { sc with flip := none })
      match sc.preload with
      | some p => if p.state = .waiting ∧ s.reachable n = true then s.handPreload n p else s
      | none => s
    else s

/-! ### Service level changes (R149) -/

/-- A service level change taken for one panel. -/
def State.schedLevelChange (old new : Level) (n : Nat) (s : State) : State :=
  match s.row n with
  | none => s
  | some row =>
    if row.kind = .lantern then s.contentChange n
    else if new = .evacuate then
      ((s.abandonPreload n).setSched n (fun sc => { sc with waiting := [] })).contentChange n
    else if old = .evacuate then (s.setSched n (fun sc => { sc with index := 0 })).contentChange n
    else s.contentChange n

end Sys2Proof.Machine
end

