-- ==== Sys2Proof/Machine/Quiet.lean ====
section
/-! DEFINITION. Quiet states, wake events and lamp tests (08 sections 8.3 and 8.4). -/

namespace Sys2Proof.Machine

/-- Change one quiet record. -/
def State.setQuiet (n : Nat) (q : QuietRec) (s : State) : State :=
  { s with mode := { s.mode with quiet := s.mode.quiet.set n q } }

/-- The instant one quiet time ahead of now for a panel row (R123). -/
def State.quietAhead (s : State) (row : PanelRow) : Clock := after s.now ((s.timing row).quiet * 1000)

/-- The display brightness of a panel (R123). -/
def State.displayBrightness (s : State) (n : Nat) : Nat :=
  match s.row n with
  | none => 0
  | some row =>
    match s.quietOf n with
    | .awake => row.awake
    | .dim => row.dim
    | .dark => 0

/-- Make a panel AWAKE with its timer set, handing BRIGHT to a DIM one and a relight to a DARK one (R125, R127). -/
def State.awaken (n : Nat) (timer : Option Clock) (s : State) : State :=
  match s.row n with
  | none => s
  | some row =>
    let woken := s.setQuiet n { state := .awake, timer := timer }
    match s.quietOf n with
    | .awake => woken
    | .dim => woken.hand n (.bright row.awake)
    | .dark => woken.relight n row.awake

/-- A wake event for a panel (R125); at level 3 it changes nothing. -/
def State.wake (n : Nat) (s : State) : State :=
  match s.row n with
  | none => s
  | some row => if s.mode.level = .evacuate then s else s.awaken n (some (s.quietAhead row))

/-- Wake events for several panels. -/
def State.wakes (l : List Nat) (s : State) : State := forEach l (fun n s => s.wake n) s

/-- A panel's quiet timer expires (R126). -/
def State.quietExpiry (n : Nat) (s : State) : State :=
  match s.row n with
  | none => s
  | some row =>
    if s.mode.level = .night ∧ row.mayDark = true then
      (s.setQuiet n { state := .dark, timer := none }).hand n (.bright 0)
    else
      let dimmed := s.setQuiet n { state := .dim, timer := some (s.quietAhead row) }
      match s.quietOf n with
      | .awake => dimmed.hand n (.bright row.dim)
      | .dim => dimmed
      | .dark => dimmed

/-! ### Lamp tests (R131) -/

/-- The lamp test expiry of a panel, if one runs. -/
def State.lampOf (s : State) (n : Nat) : Option Clock := (s.mode.lamps[n]?).getD none

/-- Set a panel's lamp test expiry. -/
def State.setLamp (n : Nat) (e : Option Clock) (s : State) : State :=
  { s with mode := { s.mode with lamps := s.mode.lamps.set n e } }

/-- A lamp test on a panel below level 3 (R131): the wake comes first; TEST on is handed when none runs. -/
def State.lampStart (n : Nat) (s : State) : State :=
  match s.row n with
  | none => s
  | some _ =>
    let s := s.wake n
    let running := (s.lampOf n).isSome
    let s := s.setLamp n (some (after s.now Config.lampTest))
    if running then s else s.hand n (.test true)

/-- A running lamp test ends and TEST off is handed (R131). -/
def State.lampEnd (n : Nat) (s : State) : State :=
  match s.lampOf n with
  | some _ => (s.setLamp n none).hand n (.test false)
  | none => s

/-! ### Service level changes in the quiet handling (R127) -/

/-- A service level change taken by the quiet handling for one panel (R127). A change from level 2 to level 0 is in none
of R127's cases: quiet state and timer stay as they are, as R127 has it from 0 to 1 and from 2 to 1 (the model's choice,
log 35). -/
def State.quietLevelChange (old new : Level) (n : Nat) (s : State) : State :=
  match s.row n with
  | none => s
  | some row =>
    if new = .evacuate then (s.awaken n none).lampEnd n
    else if old = .evacuate then s.setQuiet n { state := s.quietOf n, timer := some (s.quietAhead row) }
    else if new = .notice then s.wake n
    else if old = .night ∧ new = .normal ∧ s.isDark n = true then
      (s.setQuiet n { state := .dim, timer := some (s.quietAhead row) }).relight n row.dim
    else s

/-- A service level change taken for one panel by the quiet handling and the show scheduler. The wake is taken before
other work on the link (R125); for a change to level 3 the show scheduler is first at a DARK panel, an order that R149
gives (log 13). -/
def State.panelLevelChange (old new : Level) (n : Nat) (s : State) : State :=
  if new = .evacuate ∧ s.isDark n = true then
    (s.schedLevelChange old new n).quietLevelChange old new n
  else (s.quietLevelChange old new n).schedLevelChange old new n

end Sys2Proof.Machine
end

