-- ==== Sys2Proof/Machine/Lanterns.lean ====
section
/-! DEFINITION. Hall lanterns and chimes (06 sections 6.5 to 6.8): what an evaluation of one lantern record does, and the
wake events, chimes and content changes that follow. -/

namespace Sys2Proof.Machine

/-- Everything an evaluation of a lantern record reads: the panel's landing, the car row, record and deck records, the
announce distance, the clock and linger time, and the choice of R95 that the spec leaves open. -/
structure LanternView where
  copy : Image
  landing : Nat
  car : CarRow
  carRec : CarRec
  decks : CarDecks
  now : Clock
  linger : Nat
  openUpper : Bool
  deriving DecidableEq, Repr

/-- What an evaluation gives: the record, and whether a wake event, a chime for its direction and a content change
follow. -/
structure LanternMove where
  record : Lantern
  wake : Bool
  chime : Bool
  changed : Bool
  deriving DecidableEq, Repr

/-- A record that an evaluation leaves as it is. -/
def LanternMove.stay (r : Lantern) : LanternMove := { record := r, wake := false, chime := false, changed := false }

/-- A record moved to DARK (R95, R96, R97). R95 gives NONE and none for its own moves; for a record that goes DARK from
OPEN or LINGER, or as its car leaves TRACKED, the spec says nothing of direction and serving deck, and they become NONE and
none as well (the model's choice, log 30). -/
def LanternMove.darken (r : Lantern) : LanternMove :=
  { record := { r with state := .dark, dir := .none, deck := none, linger := none }, wake := false, chime := false,
    changed := true }

/-- The target height of a deck for the lantern's landing (R92). -/
def LanternView.target (v : LanternView) : Deck → Nat
  | .lower => v.copy.height v.landing
  | .upper => v.copy.height (v.landing - v.car.step)

/-- Whether the lantern's landing is a deck's next stop. -/
def LanternView.isNext (v : LanternView) (d : Deck) : Bool :=
  nextStop v.car v.carRec v.decks d == some v.landing && (d == .lower || v.car.step != 0)

/-- Whether the car runs toward the landing, seen from a deck's current landing (R94). -/
def LanternView.toward (v : LanternView) (d : Deck) : Bool :=
  match v.carRec.indicatedOf v.car d with
  | none => false
  | some k =>
    match v.carRec.motion with
    | .runningUp => k ≤ v.landing
    | .runningDown => v.landing ≤ k
    | .parked => false
    | .levelling => false
    | .inspection => false

/-- Whether a deck qualifies to announce (R94). -/
def LanternView.qualifies (v : LanternView) (d : Deck) : Bool :=
  v.carRec.tracking == .tracked && v.isNext d && v.toward d &&
  match v.carRec.q with
  | some q => decide (((v.target d : Int) - q).natAbs ≤ v.copy.announce)
  | none => false

/-- Whether a deck meets the hold of R95. -/
def LanternView.holdsAt (v : LanternView) (d : Deck) : Bool := v.isNext d && (v.carRec.motion.atRest || v.toward d)

/-- The serving deck among those that meet a condition (R94): the only one, or of both the upper one in RUNNING_UP and
the lower one in RUNNING_DOWN; of both at rest the spec names none, and the open choice of the view decides. -/
def LanternView.serving (v : LanternView) (p : Deck → Bool) : Option Deck :=
  match p .lower, p .upper with
  | true, true =>
    match v.carRec.motion with
    | .runningUp => some .upper
    | .runningDown => some .lower
    | .parked => some (if v.openUpper then .upper else .lower)
    | .levelling => some (if v.openUpper then .upper else .lower)
    | .inspection => some (if v.openUpper then .upper else .lower)
  | true, false => some .lower
  | false, true => some .upper
  | false, false => none

/-- Whether an evaluation of an ANNOUNCED record takes the open choice: both decks hold and the car is at rest. -/
def LanternView.takesOpenChoice (v : LanternView) : Bool :=
  v.carRec.tracking == .tracked && v.holdsAt .lower && v.holdsAt .upper && v.carRec.motion.atRest

/-- A deck's intent. -/
def LanternView.intent (v : LanternView) (d : Deck) : Dir := (v.decks.get d).intent

/-- An arrival of a deck at the landing, with the car TRACKED (R96). -/
def LanternView.arrive (v : LanternView) (d : Deck) (r : Lantern) : LanternMove :=
  let dir := v.intent d
  let moved : Lantern := { r with state := .open_, dir := dir, deck := some d, linger := none }
  match r.state with
  | .dark => { record := moved, wake := true, chime := true, changed := true }
  | .announced => { record := moved, wake := false, chime := dir != r.dir, changed := true }
  | .linger => { record := moved, wake := false, chime := false, changed := true }
  | .open_ => { record := moved, wake := false, chime := false, changed := moved != r }

/-- An ANNOUNCED record evaluated without an arrival (R95). -/
def LanternView.hold (v : LanternView) (r : Lantern) : LanternMove :=
  let decks := [Deck.lower, Deck.upper]
  if decks.all (fun d => !v.isNext d || v.holdsAt d) then
    match v.serving v.holdsAt with
    | some d =>
      let moved : Lantern := { r with dir := v.intent d, deck := some d }
      { record := moved, wake := false, chime := v.intent d != r.dir, changed := moved != r }
    | none => .darken r
  else .darken r

/-- An OPEN record evaluated without an arrival (R96, R97). -/
def LanternView.stayOpen (v : LanternView) (r : Lantern) : LanternMove :=
  match r.deck with
  | none => .darken r
  | some d =>
    if v.carRec.levelAt v.car d ≠ some v.landing then .darken r
    else if v.carRec.door d = .closed then
      if v.linger = 0 then .darken r
      else { record := { r with state := .linger, linger := some (after v.now v.linger) }, wake := false,
             chime := false, changed := true }
    else
      let moved : Lantern := { r with dir := v.intent d }
      { record := moved, wake := false, chime := v.intent d != r.dir, changed := moved != r }

/-- One evaluation of a lantern record (R93 to R97). `arrival` is the deck that arrives at the landing in the event. An
evaluation makes one move: a record that it takes to DARK is not tested under R94 again until the next event (the model's
choice, log 33). A record that a linger expiry has taken to DARK is tested under R94 at the departure that follows, where R97
leaves it DARK (the model's choice, log 39). -/
def LanternView.evaluate (v : LanternView) (arrival : Option Deck) (r : Lantern) : LanternMove :=
  if v.carRec.tracking ≠ .tracked then
    if r.state = .dark then .stay r else .darken r
  else match arrival with
    | some d => v.arrive d r
    | none =>
      match r.state with
      | .dark =>
        match v.serving v.qualifies with
        | some d =>
          { record := { r with state := .announced, dir := v.intent d, deck := some d, linger := none }, wake := true,
            chime := true, changed := true }
        | none => .stay r
      | .announced => v.hold r
      | .open_ => v.stayOpen r
      | .linger =>
        match r.deck with
        | some d => if v.carRec.levelAt v.car d = some v.landing then .stay r else .darken r
        | none => .darken r

/-- Request a chime of one stroke for UP and two for DOWN, unless chimes are suppressed (R98). -/
def State.chime (n : Nat) (dir : Dir) (s : State) : State :=
  if s.mode.night = true ∧ s.mode.level ≠ .evacuate then s
  else match dir with
    | .none => s
    | .up => s.hand n (.chime 1)
    | .down => s.hand n (.chime 2)

/-- Carry out a move of the lantern record at a place of the list: the record, then the wake event, the chime and the
content change for its panel (R94, R98; the chime before the content change is the model's choice, log 14). -/
def State.applyMove (place : Nat) (m : LanternMove) (s : State) : State :=
  let n := m.record.panel
  let s := { s with stops := { s.stops with lanterns := s.stops.lanterns.set place m.record } }
  let s := if m.wake then s.wake n else s
  let s := if m.chime then s.chime n m.record.dir else s
  if m.changed then s.contentChange n else s

/-- The view of a lantern record of a car. -/
def State.lanternView (s : State) (row : PanelRow) (car : CarRow) (slot : Nat) : LanternView :=
  { copy := s.loader.copy, landing := row.landing, car := car, carRec := s.carRec slot, decks := s.decksOf slot,
    now := s.now, linger := (s.timing row).linger, openUpper := Config.parkedServingUpper s.free }

/-- The deck that arrives at a landing in an event, given the arrivals of the event. -/
def arrivalAt (landing : Nat) : List (Deck × Nat) → Option Deck
  | [] => none
  | (d, l) :: rest => if l = landing then some d else arrivalAt landing rest

/-- Evaluate the lantern record at a place of the list, if it is one of the car's (R93). An evaluation that takes the open
choice of R95 advances the free-value counter. -/
def State.evaluateLantern (car : CarRow) (slot : Nat) (arrivals : List (Deck × Nat)) (place : Nat) (s : State) : State :=
  match s.stops.lanterns[place]? with
  | none => s
  | some r =>
    if r.slot ≠ slot then s
    else match s.row r.panel with
      | none => s
      | some row =>
        let v := s.lanternView row car slot
        let arrival := arrivalAt row.landing arrivals
        let m := v.evaluate arrival r
        let s := if r.state = .announced ∧ arrival = none ∧ v.takesOpenChoice = true then { s with free := s.free + 1 } else s
        s.applyMove place m

/-- Evaluate every lantern record of a car (R93). -/
def State.evaluateLanterns (slot : Nat) (arrivals : List (Deck × Nat)) (s : State) : State :=
  match s.carRow slot with
  | none => s
  | some car =>
    forEach (List.range s.stops.lanterns.length) (fun place s => s.evaluateLantern car slot arrivals place) s

/-- Change the deck records of a slot. -/
def State.setDecks (slot : Nat) (f : CarDecks → CarDecks) (s : State) : State :=
  { s with stops := { s.stops with decks := s.stops.decks.modify slot f } }

/-- The CAR panels that name a car slot and a deck (R89). -/
def State.carPanelsOf (s : State) (slot : Nat) (d : Deck) : List Nat :=
  s.panelsWhere (fun r => r.kind == .car && r.slot == slot && r.deck == d)

/-- Removal on arrival (R90): the landing leaves the deck's stop set, with a content change as for a change of the set. -/
def State.removeStop (slot : Nat) (d : Deck) (l : Nat) (s : State) : State :=
  if ((s.decksOf slot).get d).stops.contains l then
    (s.setDecks slot (fun ds =>
      ds.set d { ds.get d with stops := (ds.get d).stops.filter (fun x => x != l) })).contentChanges
      (s.carPanelsOf slot d)
  else s

/-- The stops and lantern unit takes a car state change event (R90, R93): removals first, then every lantern record. -/
def State.stopsCarEvent (slot : Nat) (arrivals : List (Deck × Nat)) (s : State) : State :=
  (arrivals.foldl (fun (s : State) a => s.removeStop slot a.1 a.2) s).evaluateLanterns slot arrivals

end Sys2Proof.Machine
end

