-- ==== Sys2Proof/Machine/Prompts.lean ====
section
/-! DEFINITION. The prompt manager (07): assignments, merges, evictions, holds, boarding, reassignment and load levels. -/

namespace Sys2Proof.Machine

/-- Change the pool. -/
def State.setPool (pool : List Prompt) (s : State) : State := { s with prompts := { s.prompts with pool := pool } }

/-! ### Reports (R105, R113, R114) -/

/-- The load level from a list length, the warning mark and the level before (R113). -/
def loadLevel (length warn : Nat) (before : LoadLevel) : LoadLevel :=
  if Config.panelListSize ≤ length then .full
  else if warn ≤ length then .crowded
  else if length < warn - 2 then .open_
  else match before with
    | .open_ => .open_
    | .crowded => .crowded
    | .full => .crowded

/-- The load level of a panel. -/
def State.levelOf (s : State) (n : Nat) : LoadLevel := (s.prompts.levels[n]?).getD .open_

/-- Recompute a panel's load level and request a PANEL LOAD when it changes (R113, R114). -/
def State.relevel (n : Nat) (s : State) : State :=
  match s.row n with
  | none => s
  | some row =>
    let length := (s.promptList n).length
    let level := loadLevel length row.warn (s.levelOf n)
    if level = s.levelOf n then s
    else (({ s with prompts := { s.prompts with levels := s.prompts.levels.set n level } }).request
      (.panelLoad n level length)).2

/-- Report a panel whose list changed (R105): the wake event of the panel an ASSIGN was placed on, then the content
change, then the load level. -/
def State.reportList (placed : Option Nat) (n : Nat) (s : State) : State :=
  let s := if placed = some n then s.wake n else s
  (s.contentChange n).relevel n

/-- Report each panel whose list changed, in ascending order (log 10). -/
def State.reportLists (placed : Option Nat) (changed : Nat → Bool) (s : State) : State :=
  forEach (s.panelIds.filter changed) (fun n s => s.reportList placed n) s

/-! ### Holds (R106) -/

/-- The hold of an entry of a panel in a state (R106). -/
def State.holdOf (s : State) (panel : Nat) (st : PromptState) (access : Bool) : Nat :=
  match s.row panel with
  | none => 0
  | some row =>
    let t := s.timing row
    match st with
    | .shown => if access then min Config.accessHoldCap (2 * t.promptHold) else t.promptHold
    | .boarding => t.boardingHold
    | .reassign => t.reassignHold

/-- An entry in a state with its hold started now. -/
def State.held (s : State) (st : PromptState) (p : Prompt) : Prompt :=
  { p with state := st, expiry := after s.now (s.holdOf p.panel st p.access) }

/-! ### Assignments (R100 to R104) -/

/-- The state of a new entry, or of a merge, from the car record (R103). -/
def State.entryState (s : State) (slot : Nat) : PromptState :=
  let r := s.carRec slot
  if (r.tracking = .tracked ∨ r.tracking = .stale) ∧ r.service = .normal then .shown else .reassign

/-- An ASSIGN that passed the tests of R100: the panel it is placed on and its fields. -/
structure Placed where
  panel : Nat
  ticket : Nat
  dest : Nat
  slot : Nat
  deck : Option Deck
  access : Bool
  lang : Lang
  deriving DecidableEq, Repr

/-- The tests of R100, in order; none when one refuses the frame. -/
def State.testAssign (s : State) (f : AssignFrame) : Option Placed :=
  if s.mode.evacuation then none
  else match s.keypadPanel f.keypad with
    | none => none
    | some panel => match s.carSlot f.car with
      | none => none
      | some slot =>
        if s.loader.copy.landings.length ≤ f.dest.toNat then none
        else if 4095 < f.ticket.toNat then none
        else match decodeAssignDeck f.deck with
          | none => none
          | some deck =>
            if deck = some .upper ∧ (s.carRow slot).map (·.step) = some 0 then none
            else match decodeAccessLang f.accessLang with
              | none => none
              | some (access, lang) =>
                some { panel := panel, ticket := f.ticket.toNat, dest := f.dest.toNat, slot := slot, deck := deck,
                       access := access, lang := lang }

/-- Whether an entry is the one an assignment merges into (R102). -/
def Placed.mergesWith (a : Placed) (p : Prompt) : Bool :=
  p.panel == a.panel && p.dest == a.dest && p.slot == a.slot && p.deck == a.deck

/-- The entry an assignment has merged into (R102). -/
def State.merged (s : State) (a : Placed) (p : Prompt) : Prompt :=
  s.held (s.entryState a.slot)
    { p with merges := min 9 (p.merges + 1), access := p.access || a.access, lang := a.lang }

/-- The new entry of an assignment (R103). -/
def State.newEntry (s : State) (a : Placed) : Prompt :=
  s.held (s.entryState a.slot)
    { panel := a.panel, ticket := a.ticket, dest := a.dest, slot := a.slot, deck := a.deck, access := a.access,
      lang := a.lang, state := .shown, expiry := 0, merges := 1 }

/-- Whether an entry is preferred for eviction: SHOWN with the access flag clear (R104). -/
def Prompt.evictable (p : Prompt) : Bool := p.state == .shown && !p.access

/-- The entry evicted from a list, oldest first: the oldest evictable one, or the oldest (R104). -/
def victim (l : List Prompt) : Option Prompt :=
  match l.find? Prompt.evictable with
  | some p => some p
  | none => l.head?

/-- The entry evicted to make room for a new entry on a panel, if any (R104). -/
def evictionFor (pool : List Prompt) (panel : Nat) : Option Prompt :=
  let list := pool.filter (fun p => p.panel == panel)
  if list.length < min Config.panelListSize (list.length + (Config.poolSize - pool.length)) then none
  else if list = [] then victim pool
  else victim list

/-- Take a placed assignment: replacement by ticket, then merge or new entry (R101 to R104), and the reports. -/
def State.place (a : Placed) (s : State) : State :=
  let gone := s.prompts.pool.filter (fun p => p.ticket == a.ticket)
  let pool := s.prompts.pool.filter (fun p => p.ticket != a.ticket)
  match pool.find? a.mergesWith with
  | some p =>
    (s.setPool (pool.erase p ++ [s.merged a p])).reportLists (some a.panel)
      (fun n => n == a.panel || gone.any (fun g => g.panel == n))
  | none =>
    match evictionFor pool a.panel with
    | some v =>
      ((s.count .evictions).setPool (pool.erase v ++ [s.newEntry a])).reportLists (some a.panel)
        (fun n => n == a.panel || n == v.panel || gone.any (fun g => g.panel == n))
    | none =>
      (s.setPool (pool ++ [s.newEntry a])).reportLists (some a.panel)
        (fun n => n == a.panel || gone.any (fun g => g.panel == n))

/-- An ASSIGN frame (R100). -/
def State.assignTaken (f : AssignFrame) (s : State) : State :=
  match s.testAssign f with
  | none => s.count .assignIgnored
  | some a => s.place a

/-! ### Removal (R107, R108, R112) -/

/-- Remove the entries that meet a condition and report the panels that lost one. -/
def State.removePrompts (p : Prompt → Bool) (s : State) : State :=
  let gone := s.prompts.pool.filter p
  (s.setPool (s.prompts.pool.filter (fun x => !p x))).reportLists none (fun n => gone.any (fun g => g.panel == n))

/-- A WITHDRAW frame (R108). -/
def State.withdrawTaken (ticket : Word16) (s : State) : State :=
  s.removePrompts (fun p => p.ticket == ticket.toNat)

/-! ### Car state changes (R109 to R111) -/

/-- Whether an arrival of a deck of a car at a landing matches an entry (R109). -/
def State.matchesArrival (s : State) (slot : Nat) (d : Deck) (l : Nat) (p : Prompt) : Bool :=
  p.slot == slot && (p.deck == some d || p.deck == none) &&
  match s.row p.panel with
  | some row => row.kind == .destination && row.landing == l
  | none => false

/-- Whether a car state change boards an entry: an arrival matches it and it is SHOWN or BOARDING (R109). -/
def State.boards (s : State) (car : CarRow) (slot : Nat) (old new : CarRec) (p : Prompt) : Bool :=
  p.state != .reassign &&
  [Deck.lower, Deck.upper].any (fun d =>
    match arrivalOf car old new d with
    | some l => s.matchesArrival slot d l p
    | none => false)

/-- Whether a car state change converts the car's SHOWN and BOARDING entries to REASSIGN (R111). -/
def reassigns (old new : CarRec) : Bool :=
  (old.tracking != .lost && new.tracking == .lost) || (old.service == .normal && new.service != .normal)

/-- What a car state change does to one entry: removed on departure while BOARDING (R110), converted (R111), boarded or
its boarding hold restarted (R109), or left. -/
def State.promptAfter (s : State) (car : CarRow) (slot : Nat) (old new : CarRec) (p : Prompt) : Option Prompt :=
  if p.slot ≠ slot then some p
  else if departs old new = true ∧ p.state = .boarding then none
  else if reassigns old new = true ∧ p.state ≠ .reassign then some (s.held .reassign p)
  else if s.boards car slot old new p then some (s.held .boarding p)
  else some p

/-- Whether a car state change touches an entry. -/
def State.promptTouched (s : State) (car : CarRow) (slot : Nat) (old new : CarRec) (p : Prompt) : Bool :=
  p.slot == slot &&
  ((departs old new && p.state == .boarding) || (reassigns old new && p.state != .reassign)
    || s.boards car slot old new p)

/-- The prompt manager takes a car state change event (R109 to R111), reporting each panel once. -/
def State.promptsCarEvent (car : CarRow) (slot : Nat) (old new : CarRec) (s : State) : State :=
  let touched := s.prompts.pool.filter (s.promptTouched car slot old new)
  (s.setPool (s.prompts.pool.filterMap (s.promptAfter car slot old new))).reportLists none
    (fun n => touched.any (fun g => g.panel == n))

end Sys2Proof.Machine
end

