-- ==== Sys2Proof/Machine/Cars.lean ====
section
/-! DEFINITION. The car tracker (04): motion, step and service frames, silence, the indication timer, and the car state
change event with its consumers. -/

namespace Sys2Proof.Machine

/-- Change one car record. -/
def State.setCar (slot : Nat) (r : CarRec) (s : State) : State := { s with cars := s.cars.set slot r }

/-! ### The car state change event (R64 to R66) -/

/-- The items of R64 that an event compares. -/
structure CarItems where
  tracking : Tracking
  service : Service
  motion : Motion
  level : Option Nat
  doorLower : Door
  doorUpper : Door
  anchor : Bool
  indicated : Option Nat
  arrow : Dir
  q : Option Int
  deriving DecidableEq, Repr

/-- The items of a record. -/
def CarRec.items (r : CarRec) : CarItems :=
  { tracking := r.tracking, service := r.service, motion := r.motion, level := r.level, doorLower := r.doorLower,
    doorUpper := r.doorUpper, anchor := r.anchor, indicated := r.indicated, arrow := r.arrow, q := r.q }

/-- The arrivals an event carries, deck by deck (R65). -/
def arrivalsOf (car : CarRow) (old new : CarRec) : List (Deck × Nat) :=
  [Deck.lower, Deck.upper].filterMap (fun d => (arrivalOf car old new d).map (fun l => (d, l)))

/-- Whether a deck's door state changes to OPENING (R124). -/
def startsOpening (old new : CarRec) (d : Deck) : Bool := old.door d != .opening && new.door d == .opening

/-- Whether a car state change wakes a panel (R124): LOBBY panels that list the car and DESTINATION panels at the landing
of an arrival; CAR panels that name the car on a departure, and for a door change its deck. -/
def wokenBy (car : CarRow) (slot : Nat) (old new : CarRec) (row : PanelRow) : Bool :=
  let arrivesHere := (arrivalsOf car old new).any (fun a => a.2 == row.landing)
  match row.kind with
  | .lobby => row.cars.contains slot && arrivesHere
  | .destination => arrivesHere
  | .car => row.slot == slot && (departs old new || startsOpening old new row.deck)
  | .lantern => false

/-- Whether an event changes what panels show of a car (R66); the arrow is that of either deck (log 17). -/
def contentDiffers (old new : CarRec) (arrowsDiffer : Bool) : Bool :=
  old.indicated != new.indicated || old.arrow != new.arrow || old.tracking != new.tracking
    || old.service != new.service || arrowsDiffer

/-- Raise the car state change event (R64) and the content changes of R66. The mode unit's wakes come first (R125); then
the stops and lantern unit, the prompt manager and the content changes, in an order the spec leaves open (log 11). -/
def State.raiseCarEvent (slot : Nat) (old new : CarRec) (arrowsDiffer : Bool) (s : State) : State :=
  match s.carRow slot with
  | none => s
  | some car =>
    let s := s.wakes (s.panelsWhere (wokenBy car slot old new))
    let s := s.stopsCarEvent slot (arrivalsOf car old new)
    let s := s.promptsCarEvent car slot old new
    if contentDiffers old new arrowsDiffer then s.contentChanges (s.carPanels slot) else s

/-- Whether the upper deck's derived arrow differs between two records. -/
def upperArrowDiffers (car : CarRow) (d : CarDecks) (old new : CarRec) : Bool :=
  car.step != 0 && old.arrowFor d .upper != new.arrowFor d .upper

/-- Store a new record for a car, and raise the car state change event when an item of R64 changed. -/
def State.updateCar (slot : Nat) (car : CarRow) (new : CarRec) (s : State) : State :=
  let old := s.carRec slot
  let t := s.setCar slot new
  if old.items = new.items then t
  else t.raiseCarEvent slot old new (upperArrowDiffers car (s.decksOf slot) old new)

/-! ### Evaluations and the indication timer (R63, R69) -/

/-- Whether evaluations are made for a record (R69). -/
def CarRec.evaluable (r : CarRec) : Bool := r.tracking == .tracked && r.anchor

/-- A frame evaluation of a record: age 0, with the level report of a CAR MOTION (R69). -/
def State.frameEvaluated (s : State) (slot : Nat) (car : CarRow) (report : Option Nat) (r : CarRec) : CarRec :=
  if r.evaluable then r.evaluated s.loader.copy car (s.decksOf slot).lower.intent 0 report else r

/-- The age of a timed evaluation: the time since the arrival mark, capped at Amax (R69). -/
def State.ageOf (s : State) (r : CarRec) : Nat := min s.loader.copy.amax (elapsed r.mark s.now)

/-- A timed evaluation of a record (R69). -/
def State.timedEvaluated (s : State) (slot : Nat) (car : CarRow) (r : CarRec) : CarRec :=
  if r.evaluable then r.evaluated s.loader.copy car (s.decksOf slot).lower.intent (s.ageOf r) none else r

/-- Whether the indication timer is to run (R63). -/
def CarRec.timerRuns (r : CarRec) : Bool := r.tracking == .tracked && r.anchor && r.motion.isRunning

/-- The indication timer after an event (R63): started from a given instant, kept, or stopped. -/
def CarRec.settleTimer (start : Clock) (r : CarRec) : CarRec :=
  { r with timer :=
      if r.timerRuns then
        match r.timer with
        | some e => some e
        | none => some (after start Config.indicationPeriod)
      else none }

/-! ### Motion frames (R52 to R57) -/

/-- Decoded fields of a CAR MOTION frame that is not refused, and how often FIELD_RANGE is counted (R52). -/
structure MotionFields where
  pos : Nat
  vel : Int
  motion : Motion
  level : Option Nat
  doorLower : Door
  doorUpper : Door
  ranged : Nat
  deriving DecidableEq, Repr

/-- Decode a CAR MOTION frame for a car (R52); none when it is refused. -/
def decodeMotionFrame (car : CarRow) (f : MotionFrame) : Option MotionFields :=
  let upperDoor := if car.step = 0 then some Door.closed else decodeDoor (f.doors.toNat / 16)
  match decodeMotion f.motion, decodeDoor (f.doors.toNat % 16), upperDoor with
  | some motion, some lower, some upper =>
    let l := f.level.toNat
    let inRange := car.lo ≤ l && l ≤ car.hi
    some { pos := min Config.maxPosition f.position.toNat, vel := decodeVelocity f.velocity, motion := motion,
           level := if l ≠ 255 ∧ inRange = true then some l else none,
           doorLower := lower, doorUpper := upper,
           ranged := (if Config.maxPosition < f.position.toNat then 1 else 0)
             + (if l ≠ 255 ∧ inRange = false then 1 else 0) }
  | _, _, _ => none

/-- The tracking state that a CAR MOTION gives: a car leaves UNKNOWN for what its silence count calls for (R53). -/
def trackingAfterMotion (t : Tracking) (silence : Nat) : Tracking :=
  match t with
  | .unknown => if silence ≤ 2 then .tracked else .stale
  | .tracked => .tracked
  | .stale => .stale
  | .lost => .lost

/-- The record with a CAR MOTION's fields stored (R53 steps 1 to 5). -/
def CarRec.withMotion (r : CarRec) (m : MotionFields) (mark : Clock) : CarRec :=
  { r with pos := m.pos, vel := m.vel, motion := m.motion, level := m.level, doorLower := m.doorLower,
           doorUpper := m.doorUpper, anchor := true, mark := mark, heard := true,
           tracking := trackingAfterMotion r.tracking r.silence }

/-- A CAR MOTION frame for a slot (R52, R53). -/
def State.carMotionTaken (slot : Nat) (mark : Clock) (f : MotionFrame) (s : State) : State :=
  match s.carRow slot with
  | none => s
  | some car =>
    match decodeMotionFrame car f with
    | none => s.count .fieldRange
    | some m =>
      let s := s.countN .fieldRange m.ranged
      let stored := (s.carRec slot).withMotion m mark
      let disagrees := stored.evaluable && levelDisagrees s.loader.copy car stored 0 m.level
      let s := if disagrees then s.count .levelDisagree else s
      s.updateCar slot car ((s.frameEvaluated slot car m.level stored).settleTimer mark)

/-- The record with a CAR STEP applied within the range (R54). -/
def CarRec.withStep (r : CarRec) (pos : Nat) (vel : Int) (motion : Motion) (mark : Clock) : CarRec :=
  { r with pos := pos, vel := vel, motion := motion, mark := mark, heard := true }

/-- A CAR STEP frame for a slot (R52, R54 to R56). -/
def State.carStepTaken (slot : Nat) (mark : Clock) (f : StepFrame) (s : State) : State :=
  match s.carRow slot with
  | none => s
  | some car =>
    match decodeMotion f.motion with
    | none => s.count .fieldRange
    | some motion =>
      let r := s.carRec slot
      let vel := decodeVelocity f.velocity
      let sum : Int := (r.pos : Int) + f.delta.toInt
      if r.anchor = false then (s.count .unanchoredSteps).setCar slot { r with heard := true }
      else if 0 ≤ sum ∧ sum ≤ (Config.maxPosition : Int) then
        s.updateCar slot car ((s.frameEvaluated slot car none (r.withStep sum.toNat vel motion mark)).settleTimer mark)
      else
        let pos := if sum < 0 then 0 else Config.maxPosition
        (s.raise (.positionRange slot)).updateCar slot car
          ({ r.withStep pos vel motion mark with anchor := false }.settleTimer mark)

/-- A CAR SERVICE frame for a slot (R58). -/
def State.carServiceTaken (slot : Nat) (code : Byte) (s : State) : State :=
  match s.carRow slot with
  | none => s
  | some car =>
    match decodeService code with
    | none => s.count .fieldRange
    | some service => s.updateCar slot car { s.carRec slot with service := service }

/-! ### Silence (R59 to R62) -/

/-- The silence count after a cycle start (R59 step 1). -/
def silenceAfter (heard : Bool) (silence : Nat) : Nat := if heard then silence - 1 else min 7 (silence + 1)

/-- The tracking state after a silence evaluation that gives a count (R59 step 3). -/
def trackingAfterSilence (t : Tracking) (anchor : Bool) (silence : Nat) : Tracking :=
  match t with
  | .lost => if silence = 0 then (if anchor then .tracked else .unknown) else .lost
  | .unknown => if 7 ≤ silence then .lost else .unknown
  | .tracked => if 7 ≤ silence then .lost else if 3 ≤ silence then .stale else .tracked
  | .stale => if 7 ≤ silence then .lost else if silence ≤ 2 then .tracked else .stale

/-- What entry to LOST clears (R60). -/
def CarRec.clearIndication (r : CarRec) : CarRec :=
  { r with indicated := none, arrow := .none, q := none, labelLower := none, labelUpper := none, timer := none }

/-- The record after a silence evaluation (R59 to R62). A car that becomes TRACKED is evaluated once. -/
def State.silenced (s : State) (slot : Nat) (car : CarRow) (r : CarRec) : CarRec :=
  let n := silenceAfter r.heard r.silence
  let next := trackingAfterSilence r.tracking r.anchor n
  let moved : CarRec := { r with silence := n, heard := false, tracking := next }
  match r.tracking, next with
  | .lost, .lost => moved
  | _, .lost => moved.clearIndication
  | .tracked, .stale => { moved with arrow := .none, timer := none }
  | .stale, .tracked => (s.timedEvaluated slot car moved).settleTimer s.now
  | .lost, .tracked => (s.timedEvaluated slot car moved).settleTimer s.now
  | _, _ => moved

/-- Silence evaluation of one car at a HEARD or LOCAL cycle start (R59). -/
def State.evaluateSilence (slot : Nat) (s : State) : State :=
  match s.carRow slot with
  | none => s
  | some car =>
    let old := s.carRec slot
    let new := s.silenced slot car old
    let s := s.raiseIf (old.tracking != .lost && new.tracking == .lost) (.carLost slot)
    s.updateCar slot car new

/-- Silence evaluation of every car, in ascending slot order (log 12). -/
def State.evaluateSilences (s : State) : State :=
  forEach (List.range s.loader.copy.cars.length) (fun slot s => s.evaluateSilence slot) s

/-! ### The indication timer's expiry (R63) -/

/-- A car's indication timer expires: a timed evaluation, and the next expiry 100 ms after this one. -/
def State.indicationExpiry (slot : Nat) (s : State) : State :=
  match s.carRow slot, (s.carRec slot).timer with
  | some car, some e =>
    s.updateCar slot car
      { s.timedEvaluated slot car (s.carRec slot) with timer := some (after e Config.indicationPeriod) }
  | _, _ => s

/-! ### Intents and CAR CALLS (R83, R87 to R89) -/

/-- A deck's intent has changed, from what the deck records were (R83): for a TRACKED, anchored car at rest the record's
arrow takes the lower deck's new intent and the derived upper arrow the upper deck's, with the event and the content
change when an arrow changed. -/
def State.intentChanged (slot : Nat) (car : CarRow) (before : CarDecks) (s : State) : State :=
  let old := s.carRec slot
  if old.evaluable = true ∧ old.motion.atRest = true then
    let intent := (s.decksOf slot).lower.intent
    let new : CarRec := { old with arrow := if before.lower.intent = intent then old.arrow else intent }
    let upperDiffers := car.step != 0 && old.arrowFor before .upper != new.arrowFor (s.decksOf slot) .upper
    let s := s.setCar slot new
    if old.arrow ≠ new.arrow ∨ upperDiffers = true then s.raiseCarEvent slot old new true else s
  else s

/-- A CAR CALLS frame for a slot (R87 to R89, R93; the order of its effects is the model's choice, log 11). -/
def State.carCallsTaken (slot : Nat) (f : CallsFrame) (s : State) : State :=
  match s.carRow slot with
  | none => s
  | some car =>
    match decodeCallsDeck f.deck, decodeIntent f.intent with
    | some d, some intent =>
      if d = .upper ∧ car.step = 0 then s.count .fieldRange
      else
        let before := s.decksOf slot
        let old := before.get d
        let newer := match old.lastSeq with
          | none => true
          | some l => 1 ≤ (f.seq - l).toNat && (f.seq - l).toNat ≤ 127
        if newer then
          let new : DeckRec := { stops := stopSet car d f.stops, intent := intent, lastSeq := some f.seq }
          let s := (s.countN .fieldRange (stopsOutside car d f.stops)).setDecks slot (fun ds => ds.set d new)
          let s := if old.intent = new.intent then s else s.intentChanged slot car before
          if old.intent = new.intent ∧ old.stops = new.stops then s
          else (s.contentChanges (s.carPanelsOf slot d)).evaluateLanterns slot []
        else s
    | _, _ => s.count .fieldRange

end Sys2Proof.Machine
end

