-- ==== Sys2Proof/Machine/Cycle.lean ====
section
/-! DEFINITION. The cycle unit (03): cycle starts, tempos heard, local restarts and the tempo threshold. -/

namespace Sys2Proof.Machine

/-! ### Cycle starts (R34) -/

/-- The CT of the cycle that a cycle start ends, at the instant the event is taken: the CT held then for a HEARD start,
also where the mark lies before the base (R46), Lw for a LOCAL start, none for a START (R34). -/
def State.endedCt (s : State) : CycleCause → Option Nat
  | .start => none
  | .heard => some s.ct
  | .localStart => some s.lw

/-- The cycle start event with its four items (R34). -/
def State.cycleEvent (s : State) (cause : CycleCause) (base : Clock) (count : BitVec 6) : CycleStart :=
  { cause := cause, base := base, count := count, endedCt := s.endedCt cause }

/-- The car tracker takes a cycle start event: the silence evaluation at a HEARD or LOCAL one (R59). -/
def State.carsCycleStart (e : CycleStart) (s : State) : State := if e.cause = .start then s else s.evaluateSilences

/-- A cycle start: base and count are set together, the thresholds are watched anew, and the event is taken by the show
scheduler for every panel and then by the car tracker (log 12). -/
def State.cycleStart (cause : CycleCause) (base : Clock) (count : BitVec 6) (s : State) : State :=
  let e := s.cycleEvent cause base count
  (forEach s.panelIds (fun n t => t.schedCycleStart e s.cycle.count n)
    { s with cycle := { s.cycle with base := base, count := count, crossed := false, event := some e } }).carsCycleStart e

/-! ### The sync state (R40) -/

/-- The sync state after a tempo heard, given whether its count is own + 1. -/
def SyncState.heard (st : SyncState) (follows : Bool) : SyncState :=
  match st with
  | .alone => .joining
  | .joining => if follows then .inStep else .joining
  | .inStep => if follows then .inStep else .joining
  | .free => if follows then .inStep else .joining

/-- The sync state after a local restart. -/
def SyncState.restarted : SyncState → SyncState
  | .alone => .alone
  | .joining => .free
  | .inStep => .free
  | .free => .free

/-- Set the sync state. -/
def State.setSync (st : SyncState) (s : State) : State := { s with cycle := { s.cycle with sync := st } }

/-- The sync state moves on a tempo heard, counting COUNT_DISAGREE when an IN_STEP part hears another count (R40). -/
def State.moveSync (count : BitVec 6) (s : State) : State :=
  let follows := count == s.cycle.count + 1
  (if s.cycle.sync = .inStep ∧ follows = false then s.count .countDisagree else s).setSync
    (s.cycle.sync.heard follows)

/-- Whether a frame is the part's TEMPO. -/
def TxFrame.isTempo (f : TxFrame) : Bool := f.payload.header == 72

/-- Withdraw the part's own TEMPO when the pending-tempo flag is set (R39 step 2, R42 step 2). -/
def State.withdrawTempo (s : State) : State :=
  if s.cycle.pendingTempo then s.withdrawFrames TxFrame.isTempo else s

/-! ### Tempo heard (R39, R41, R47) -/

/-- A tempo heard in RUNNING: from another station, or the part's own on completion. -/
def State.tempoHeard (own : Bool) (source : Byte) (mark : Clock) (count : BitVec 6) (sync : SyncState) (s : State) :
    State :=
  let s := s.moveSync count
  let s := if own then s else s.withdrawTempo
  let s := { s with cycle := { s.cycle with lastTempo := some { source := source, count := count, sync := sync } } }
  s.cycleStart .heard mark count

/-! ### The thresholds (R32, R37, R42) -/

/-- Whether the watch threshold is reached. -/
def State.atWatch (s : State) : Bool := s.running && s.lw ≤ s.ct

/-- The local restart (R42). -/
def State.localRestart (s : State) : State :=
  let s := (s.setSync s.cycle.sync.restarted).withdrawTempo
  s.cycleStart .localStart s.now (s.cycle.count + 1)

/-- Whether the tempo threshold of this cycle is reached and not yet crossed. -/
def State.atTempo (s : State) : Bool := s.running && s.loader.copy.lc ≤ s.ct && !s.cycle.crossed

/-- The tempo threshold (R37, R38): an eligible part requests its TEMPO. -/
def State.tempoThreshold (s : State) : State :=
  let s := { s with cycle := { s.cycle with crossed := true } }
  if s.loader.copy.tempoEligible then
    let answer := s.request (.tempo (s.cycle.count + 1) s.cycle.sync)
    { answer.2 with cycle := { answer.2.cycle with
        pendingTempo := answer.1 == .accepted || answer.2.cycle.pendingTempo } }
  else s

end Sys2Proof.Machine
end

