-- ==== Sys2Proof/Machine/ModeUnit.lean ====
section
/-! DEFINITION. The mode unit (08): the zone mode record, the service level, claim expiries, sense line edges and their
captures. -/

namespace Sys2Proof.Machine

/-! ### The service level (R121) -/

/-- The service level that the record gives: the highest that applies. -/
def ModeUnit.derived (m : ModeUnit) : Level :=
  if m.evacuation then .evacuate
  else if m.claims ≠ [] then .notice
  else if m.night then .night
  else .normal

/-- A service level change (R121): the new level is held; the quiet handling and the show scheduler take it panel by
panel, and the prompt manager empties the pool on a change to 3 (R112), which here comes last (log 13). -/
def State.levelChanged (old new : Level) (s : State) : State :=
  let s := forEach s.panelIds (fun n s => s.panelLevelChange old new n)
    { s with mode := { s.mode with level := new } }
  if new = .evacuate then s.removePrompts (fun _ => true) else s

/-- The end of an event that may have changed the record (R121): a level change when the derived level differs from the
one held, else a content change for every panel when the notice text or the evacuation text differs from before. -/
def State.settleMode (before : ModeUnit) (s : State) : State :=
  if s.mode.derived ≠ s.mode.level then s.levelChanged s.mode.level s.mode.derived
  else if s.mode.noticeText ≠ before.noticeText ∨ s.mode.evacText ≠ before.evacText then s.contentChanges s.panelIds
  else s

/-! ### BUILDING MODE frames (R118, R119) -/

/-- The notice claims after a NOTICE (R119): refreshed in place, placed last, or placed last with the oldest removed. -/
def claimNotice (c : Claim) (claims : List Claim) : List Claim :=
  if claims.any (fun x => x.source == c.source) then
    claims.map (fun x => if x.source = c.source then c else x)
  else if claims.length < Config.claimSize then claims ++ [c]
  else claims.drop 1 ++ [c]

/-- The claims without that of a source. -/
def dropClaim (source : Byte) (claims : List Claim) : List Claim := claims.filter (fun x => x.source != source)

/-- Change the zone mode record. -/
def State.setMode (f : ModeUnit → ModeUnit) (s : State) : State := { s with mode := f s.mode }

/-- Whether a text index names no text of the loaded copy. -/
def State.textBeyond (s : State) (text : Byte) : Bool := s.loader.copy.texts.length ≤ text.toNat

/-- The claim that a NOTICE makes or refreshes. -/
def State.newClaim (s : State) (source text : Byte) : Claim :=
  { source := source, text := text.toNat, expiry := after s.now Config.claimWatch }

/-- The record after an applied frame (R119), and the count of an EVACUATE whose text is beyond the texts. -/
def State.applyMode (source : Byte) (text : Byte) (code : ModeCode) (s : State) : State :=
  match code with
  | .evacuate =>
    if s.textBeyond text then
      (s.count .fieldRange).setMode (fun m => { m with evacuation := true, evacText := none })
    else s.setMode (fun m => { m with evacuation := true, evacText := some text.toNat })
  | .evacuateClear => s.setMode (fun m => { m with evacuation := false, evacText := none })
  | .night => s.setMode (fun m => { m with night := true })
  | .day => s.setMode (fun m => { m with night := false })
  | .notice =>
    s.setMode (fun m => { m with claims := claimNotice (s.newClaim source text) m.claims })
  | .noticeEnd => s.setMode (fun m => { m with claims := dropClaim source m.claims })

/-- A BUILDING MODE frame (R118). -/
def State.buildingModeTaken (source : Byte) (f : ModeFrame) (s : State) : State :=
  match decodeMode f.mode with
  | none => s.count .fieldRange
  | some code =>
    if f.zones.getLsbD s.loader.copy.zone = false then s
    else if code = .notice ∧ s.textBeyond f.text = true then s.count .fieldRange
    else (s.applyMode source f.text code).settleMode s.mode

/-- The watch expiry of a claim (R120). -/
def State.claimExpiry (source : Byte) (s : State) : State :=
  if s.mode.claims.any (fun c => c.source == source && reached c.expiry s.now) then
    (s.setMode (fun m => { m with claims := dropClaim source m.claims })).settleMode s.mode
  else s

/-! ### Edge capture (R132, R133) -/

/-- Change one capture record. -/
def State.setCapture (line : Nat) (f : Capture → Capture) (s : State) : State :=
  s.setMode (fun m => { m with captures := m.captures.modify line f })

/-- Request a SENSE frame for a line; the capture is ARMED when it is dropped and WAITING otherwise (R132). -/
def State.requestSense (line edges : Nat) (pair : BitVec 6 × Nat) (s : State) : State :=
  let answer := s.request (.sense line edges pair.1 pair.2)
  answer.2.setCapture line (fun c => { c with armed := answer.1 == .dropped })

/-- An edge on a REPORT line (R132). -/
def State.captureEdge (line : Nat) (s : State) : State :=
  let pair := (s.cycle.count, s.ct)
  (s.setCapture line (fun c => { c with latest := some pair })).requestSense line 1 pair

/-- A SENSE frame has completed with a held increase (R133). -/
def State.senseCompleted (line held : Nat) (s : State) : State :=
  let s := s.setCapture line (fun c => { c with armed := true })
  if held = 0 then s
  else match (s.mode.captures[line]?).bind (·.latest) with
    | some pair => s.requestSense line held pair
    | none => s

/-! ### Sense lines (R128 to R131) -/

/-- The panels of a mask that have a panel row. -/
def State.maskPanels (s : State) (mask : Byte) : List Nat := s.panelIds.filter (fun n => mask.getLsbD n)

/-- Toggle a panel's language pin. -/
def State.togglePin (n : Nat) (s : State) : State := s.setMode (fun m => { m with pins := m.pins.modify n (fun p => !p) })

/-- A falling edge on a sense line (R128). -/
def State.senseEdge (line : Nat) (s : State) : State :=
  match s.loader.copy.senses[line]? with
  | none => s
  | some row =>
    match row.function with
    | .wake => s.wakes (s.maskPanels row.mask)
    | .test =>
      if s.mode.level = .evacuate then s
      else forEach (s.maskPanels row.mask) (fun n s => s.lampStart n) s
    | .language =>
      (forEach (s.maskPanels row.mask) (fun n s => s.togglePin n) s).contentChanges (s.maskPanels row.mask)
    | .report => s.captureEdge line

end Sys2Proof.Machine
end

