-- ==== Sys2Proof/Machine/Status.lean ====
section
/-! DEFINITION. The status unit's queries and reports (11 sections 11.1 and 11.3, data of 12.2). -/

namespace Sys2Proof.Machine

/-! ### Codes of 12.2 -/

/-- Reset cause code. -/
def ResetCause.code : ResetCause → Nat
  | .power => 0 | .pin => 1 | .restart => 2

/-- Fault reason code; 0 is none. -/
def FaultReason.code : FaultReason → Nat
  | .length => 1 | .check => 2 | .header => 3 | .count => 4 | .heights => 5 | .range => 6 | .carNumber => 7
  | .panelKind => 8 | .reference => 9

/-- Tracking state code. -/
def Tracking.code : Tracking → Nat
  | .unknown => 0 | .tracked => 1 | .stale => 2 | .lost => 3

/-- Service state code. -/
def Service.code : Service → Nat
  | .normal => 0 | .outOfService => 1 | .recall => 2 | .firefighter => 3 | .inspection => 4

/-- A bit of a byte. -/
def bitAt (b : Bool) (n : Nat) : Nat := if b then 2 ^ n else 0

/-- Item bits, offset 0 of the EXCEPTIONS data. -/
def Exceptions.itemByte (e : Exceptions) : Byte :=
  byte (bitAt e.powerUp 0 + bitAt e.pinReset 1 + bitAt e.restarted 2 + bitAt e.imageFault 3 + bitAt e.imageClamped 4
    + bitAt e.stationClash 5 + bitAt e.listenOnly 6 + bitAt e.queueOverflow 7)

/-- The state byte, offset 8. Bits 5..6 are a free value while no last tempo record is present (log 9). -/
def State.stateByte (s : State) : Byte :=
  byte (s.status.cause.code + 4 * s.cycle.sync.code + bitAt (s.bus.state == .listenOnly) 4
    + match s.cycle.lastTempo with
      | some t => 32 * t.sync.code + 128
      | none => 32 * (Config.absentTempoSync s.free).toNat)

/-- The EXCEPTIONS data (R166, 12.2). -/
def State.exceptionData (s : State) : List Byte :=
  let e := s.status.exceptions
  [e.itemByte, e.showListFault] ++ bytes2 e.positionRange.toNat ++ bytes2 e.carLost.toNat
    ++ [e.linkFault, e.moduleFault, s.stateByte, byte s.status.restarts]
    ++ (match s.cycle.lastTempo with
        | some t => [t.source, byte t.count.toNat]
        | none => [0, 0])
    ++ (match s.loader.fault with
        | some (reason, row) => [byte reason.code, byte row]
        | none => [0, 255])

/-- The values of a list of counters. -/
def State.counterValues (s : State) (l : List Counter) : List Nat := l.map s.status.counters.get

/-- The CARS data of a slot (R67, 12.2). -/
def CarRec.reportData (r : CarRec) : List Byte :=
  [byte r.tracking.code, byte r.silence, (r.indicated.map byte).getD 255, byte r.service.code, if r.anchor then 1 else 0]

/-! ### Requests (R164) -/

/-- The data of a part of a query's answer, and what its completion does (R166 to R168). -/
def State.reportPart (s : State) (q : Query) : List Byte × ReportEffect :=
  match q.kind with
  | .exceptions => (s.exceptionData, .snapshot s.status.exceptions)
  | .counters =>
    if q.part = 0 then ((s.counterValues Counter.part0).flatMap bytes2, .none)
    else ((s.counterValues Counter.part1).flatMap bytes2,
      if q.clear then .lower (q.part0 ++ s.counterValues Counter.part1) else .none)
  | .cars => (if q.part = 255 then [] else (s.carRec q.part).reportData, .none)

/-- What a query keeps of the values its part reads: those of part 0 of COUNTERS (R167). -/
def State.partValues (s : State) (q : Query) : List Nat :=
  if q.kind = .counters ∧ q.part = 0 then s.counterValues Counter.part0 else q.part0

/-- Whether a report takes the free value of the state byte. -/
def State.takesAbsentSync (s : State) (q : Query) : Bool := q.kind == .exceptions && s.cycle.lastTempo.isNone

/-- Advance the free-value counter when a free value was taken. -/
def State.takeFree (c : Bool) (s : State) : State := if c then { s with free := s.free + 1 } else s

/-- Request the frame of a query's part (R164): the query is in progress, and ends when the request is dropped. -/
def State.requestPart (q : Query) (s : State) : State :=
  let part := s.reportPart q
  let answer := (s.takeFree (s.takesAbsentSync q)).request (.report q.kind q.part part.1 part.2)
  { answer.2 with status := { answer.2.status with
      query := if answer.1 = .dropped then none else some { q with part0 := s.partValues q } } }

/-- The first part of an answer: 255 for a CARS answer without rows (R168). -/
def State.firstPart (s : State) (k : QueryKind) : Nat :=
  if k = .cars ∧ s.loader.copy.cars = [] then 255 else 0

/-- The part after one, if any (R166 to R168). -/
def State.nextPart (s : State) (q : Query) : Option Nat :=
  match q.kind with
  | .exceptions => none
  | .counters => if q.part = 0 then some 1 else none
  | .cars => if q.part + 1 < s.loader.copy.cars.length then some (q.part + 1) else none

/-- Whether a frame is the report of the query in progress: an unmarked STATUS REPORT. -/
def TxFrame.isOpenReport (f : TxFrame) : Bool := f.payload.header == 222 && !f.withdrawn

/-- A STATUS QUERY (R163). -/
def State.queryTaken (f : QueryFrame) (s : State) : State :=
  match decodeQueryKind f.kind, decodeClear f.clear with
  | some kind, some clear =>
    let s := if s.status.query.isSome then s.withdrawFrames TxFrame.isOpenReport else s
    s.requestPart { kind := kind, clear := clear, part := s.firstPart kind, part0 := [] }
  | _, _ => s.count .fieldRange

/-! ### Completions (R164, R166, R167) -/

/-- The completion effect of a report. -/
def State.reportEffect (e : ReportEffect) (s : State) : State :=
  match e with
  | .none => s
  | .snapshot snap =>
    { s with status := { s.status with exceptions := s.status.exceptions.minus snap s.heldItems } }
  | .lower values =>
    { s with status := { s.status with
        counters := s.status.counters.lower ((Counter.part0 ++ Counter.part1).zip values) } }

/-- The query in progress goes on to its next part, or ends after its last. -/
def State.continueQuery (s : State) : State :=
  match s.status.query with
  | none => s
  | some q =>
    match s.nextPart q with
    | some part => s.requestPart { q with part := part }
    | none => { s with status := { s.status with query := none } }

/-- A STATUS REPORT has completed; one with a withdrawal mark belongs to a superseded query (R163). -/
def State.reportCompleted (withdrawn : Bool) (e : ReportEffect) (s : State) : State :=
  let s := s.reportEffect e
  if withdrawn then s else s.continueQuery

end Sys2Proof.Machine
end

