-- ==== Sys2Proof/Machine/Attempts.lean ====
section
/-! DEFINITION. Sending on the riser bus (01 section 1.5): the start of an attempt and its outcomes. -/

namespace Sys2Proof.Machine

/-! ### The attempt in progress (R6) -/

/-- The frame that is in an attempt state. -/
def State.frameIn (s : State) (st : AttemptState) : Option TxFrame := s.bus.queue.find? (fun f => f.state == st)

/-- Whether no frame is CONTENDING or SENDING. -/
def State.noAttempt (s : State) : Bool := (s.frameIn .contending).isNone && (s.frameIn .sending).isNone

/-- Change every frame that is in an attempt state. -/
def State.changeIn (st : AttemptState) (f : TxFrame → TxFrame) (s : State) : State :=
  { s with bus := { s.bus with queue := s.bus.queue.map (fun g => if g.state = st then f g else g) } }

/-- Remove the frame that is in an attempt state. -/
def State.removeIn (st : AttemptState) (s : State) : State :=
  { s with bus := { s.bus with queue := s.bus.queue.filter (fun g => g.state != st) } }

/-! ### Start (R11) -/

/-- Whether the loader state lets a frame be started: any in RUNNING, STATUS REPORT in IMAGE_FAULT. -/
def State.mayStart (s : State) (f : TxFrame) : Bool :=
  match s.loader.state with
  | .loading => false
  | .running => true
  | .imageFault => f.payload.header == 222

/-- Whether an attempt begins (R11). -/
def State.attemptReady (s : State) : Bool :=
  s.bus.busFree && s.noAttempt && s.bus.state == .active &&
  match s.frameIn .queued with
  | some f => s.mayStart f
  | none => false

/-- The queue with its head CONTENDING. -/
def startHead : List TxFrame → List TxFrame
  | [] => []
  | f :: rest => if f.state = .queued then { f with state := .contending } :: rest else f :: startHead rest

/-- The first bit of a frame on the free bus (R5): the bus is no longer free, and the clock now is the arrival mark of
the frame that takes the bus, whichever station wins it (R3). -/
def State.firstBitNow (s : State) : State :=
  { s with bus := { s.bus with busFree := false, firstBit := some s.now } }

/-- An attempt of the part begins (R11): the head of its queue is CONTENDING, with its first bit now. -/
def State.ownAttempt (s : State) : State := { s with bus := { s.bus with queue := startHead s.bus.queue } }.firstBitNow

/-- The part begins an attempt as soon as R11 lets it. -/
def State.beginAttempt (s : State) : State := if s.attemptReady then s.ownAttempt else s

/-- An attempt begins on the free bus (R5, R11): the part's own when it may begin one. Where it may not, the attempt is
another station's, and the bus is occupied from that first bit on (log 31). In LOADING the first bit is held too, so that a
frame that ends after the end of LOADING has the mark of its first bit (the model's choice, log 32). -/
def State.attemptStart (s : State) : State :=
  if s.attemptReady then s.ownAttempt
  else if s.bus.busFree then s.firstBitNow
  else s

/-- Arbitration is won: the frame is SENDING (R11). -/
def State.arbitrationWon (s : State) : State := s.changeIn .contending (fun f => { f with state := .sending })

/-! ### Outcomes (R10, R12, R13) -/

/-- A frame whose attempt is over stays in the queue as QUEUED, or is removed when it carries a withdrawal mark and its
owner told withdrawn (R10). -/
def State.returnFrame (f : TxFrame) (s : State) : State :=
  if f.withdrawn then (s.removeIn f.state).tellWithdrawn f
  else s.changeIn f.state (fun g => { g with state := .queued })

/-- Lost arbitration (R12). -/
def State.lostArbitration (s : State) : State :=
  match s.frameIn .contending with
  | some f => s.returnFrame f
  | none => s

/-- The held increase joins the edge count of a SENSE whose attempt failed (R9). -/
def TxFrame.addHeld (f : TxFrame) : TxFrame :=
  match f.payload with
  | .sense line edges count ct => { f with payload := .sense line (min 255 (edges + f.held)) count ct, held := 0 }
  | .tempo _ _ => f
  | .panelLoad _ _ _ => f
  | .report _ _ _ _ => f

/-- The frame of the attempt in progress. -/
def State.attempting (s : State) : Option TxFrame :=
  match s.frameIn .sending with
  | some f => some f
  | none => s.frameIn .contending

/-- The transmit failure count after a failed attempt (R13). -/
def failRaised (n : Nat) : Nat := min 255 (n + 4)

/-- A failed attempt (R12 to R14). -/
def State.failedAttempt (s : State) : State :=
  match s.attempting with
  | none => s
  | some f =>
    let s := s.count .txFailures
    let s := { s with bus := { s.bus with failCount := failRaised s.bus.failCount } }
    let s := s.changeIn f.state TxFrame.addHeld
    if s.bus.state = .active ∧ Config.listenOnlyAt ≤ s.bus.failCount then s.enterListenOnly
    else s.returnFrame f

/-- The owner of a completed frame is told, with its arrival mark (R12): the cycle unit takes the completion and then
the tempo heard (R41), the mode unit re-arms its capture (R133), the prompt manager needs nothing (R114), the status
unit goes on (R164). -/
def State.tellCompleted (f : TxFrame) (mark : Clock) (s : State) : State :=
  match f.payload with
  | .tempo count sync =>
    let s := { s with cycle := { s.cycle with pendingTempo := false } }
    if s.running then s.tempoHeard true s.bus.station mark count sync else s
  | .panelLoad _ _ _ => s
  | .sense line _ _ _ => s.senseCompleted line f.held
  | .report _ _ _ effect => s.reportCompleted f.withdrawn effect

/-- An attempt completes (R12): the frame has ended and leaves the queue, the failure count falls, and the owner is
told. -/
def State.attemptCompleted (s : State) : State :=
  match s.frameIn .sending with
  | none => s
  | some f =>
    let s := s.removeIn .sending
    ({ s with bus := { s.bus with failCount := s.bus.failCount - 1, firstBit := none } }).tellCompleted f s.frameMark

end Sys2Proof.Machine
end

