-- ==== Sys2Proof/Machine/Image.lean ====
section
/-! DEFINITION. The load (02 sections 2.3 and 2.5, layouts of 12.4, R172): the checks of R19 and R20, the corrections of
R21, and the show-list checks and default lists of R22 and R23. -/

namespace Sys2Proof.Machine

/-- The image as numbers, word 0 first. -/
abbrev Words := List Nat

/-- A word of the image memory; where the memory does not answer it reads as all ones (R19, log 20). -/
def Words.at (ws : Words) (i : Nat) : Nat := ws.getD i 65535

/-- High byte of a word. -/
def Words.hi (ws : Words) (i : Nat) : Nat := ws.at i / 256

/-- Low byte of a word. -/
def Words.lo (ws : Words) (i : Nat) : Nat := ws.at i % 256

/-- A byte of a field that is packed two to a word, from a first word on. -/
def Words.byteFrom (ws : Words) (base k : Nat) : Nat :=
  if k % 2 = 0 then ws.hi (base + k / 2) else ws.lo (base + k / 2)

/-- Exactly the words that the length gives, as the loader reads them (R19). -/
def readWords (memory : List Word16) (length : Nat) : Words :=
  (memory.take length).map (·.toNat) ++ List.replicate (length - memory.length) 65535

/-- The first number below a limit that meets a condition. -/
def firstBelow (n : Nat) (p : Nat → Bool) : Option Nat := (List.range n).find? p

/-! ### The tables (12.4) -/

/-- Words of the header and the four timing sets. -/
def landingsAt : Nat := 43
/-- Landing count. -/
def Words.landingCount (ws : Words) : Nat := ws.at 5
/-- Car count. -/
def Words.carCount (ws : Words) : Nat := ws.at 6
/-- Panel count. -/
def Words.panelCount (ws : Words) : Nat := ws.at 7
/-- Show list count. -/
def Words.listCount (ws : Words) : Nat := ws.at 8
/-- Text count. -/
def Words.textCount (ws : Words) : Nat := ws.at 9
/-- First word of a landing row. -/
def Words.landingAt (_ws : Words) (i : Nat) : Nat := landingsAt + 4 * i
/-- First word of a car row. -/
def Words.carAt (ws : Words) (s : Nat) : Nat := landingsAt + 4 * ws.landingCount + 4 * s
/-- First word of a panel row. -/
def Words.panelAt (ws : Words) (n : Nat) : Nat := ws.carAt ws.carCount + 13 * n
/-- First word of the show lists. -/
def Words.listsAt (ws : Words) : Nat := ws.panelAt ws.panelCount

/-- What the walk over the show lists finds: a list of more than 16 entries, a count word beyond the image, or the first
words of the lists and the word after the last. -/
inductive ListWalk where
  | tooMany (list : Nat)
  | beyond
  | ended (starts : List Nat) (next : Nat)
  deriving DecidableEq, Repr

/-- Walk `n` show lists from list `k` whose count word stands at `pos`; the check word of an image of `length` words is
its last and no count word (log 21). -/
def walkLists (ws : Words) (length : Nat) : Nat → Nat → Nat → ListWalk
  | 0, _, pos => .ended [] pos
  | n + 1, k, pos =>
    if length ≤ pos + 1 then .beyond
    else if 16 < ws.at pos then .tooMany k
    else match walkLists ws length n (k + 1) (pos + 1 + 3 * ws.at pos) with
      | .ended starts next => .ended (pos :: starts) next
      | .tooMany j => .tooMany j
      | .beyond => .beyond

/-- The walk over all show lists of an image. -/
def Words.lists (ws : Words) : ListWalk := walkLists ws (ws.at 0) ws.listCount 0 ws.listsAt

/-- The first words of the show lists. -/
def Words.listStarts (ws : Words) : List Nat :=
  match ws.lists with
  | .ended starts _ => starts
  | .tooMany _ => []
  | .beyond => []

/-- First word of the sense line rows. -/
def Words.sensesAt (ws : Words) : Nat :=
  match ws.lists with
  | .ended _ next => next
  | .tooMany _ => 0
  | .beyond => 0

/-- First word of the texts. -/
def Words.textAt (ws : Words) (t : Nat) : Nat := ws.sensesAt + 4 + 25 * t

/-- Words that the counts call for, the check word included. -/
def Words.calledFor (ws : Words) : Nat := ws.textAt ws.textCount + 1

/-! ### Fields -/

/-- Height of a landing row. -/
def Words.height (ws : Words) (i : Nat) : Nat := ws.at (ws.landingAt i) % 16 * 65536 + ws.at (ws.landingAt i + 1)

/-- lo of a car row. -/
def Words.carLo (ws : Words) (s : Nat) : Nat := ws.hi (ws.carAt s + 2)
/-- hi of a car row. -/
def Words.carHi (ws : Words) (s : Nat) : Nat := ws.lo (ws.carAt s + 2)
/-- Deck step of a car row. -/
def Words.carStep (ws : Words) (s : Nat) : Nat := ws.at (ws.carAt s + 3)
/-- Bus car number of a car row. -/
def Words.carNumber (ws : Words) (s : Nat) : Nat := ws.at (ws.carAt s)

/-- Kind code of a panel row. -/
def Words.panelKind (ws : Words) (n : Nat) : Nat := ws.hi (ws.panelAt n)
/-- Landing byte of a panel row. -/
def Words.panelLanding (ws : Words) (n : Nat) : Nat := ws.hi (ws.panelAt n + 2)
/-- Car slot byte of a panel row. -/
def Words.panelSlot (ws : Words) (n : Nat) : Nat := ws.lo (ws.panelAt n + 2)
/-- Whether a panel row's deck is UPPER: bit 0 of its field (R172). -/
def Words.panelUpper (ws : Words) (n : Nat) : Bool := ws.hi (ws.panelAt n + 3) % 2 == 1
/-- Show list index of a panel row; 255 is none. -/
def Words.panelList (ws : Words) (n : Nat) : Nat := ws.lo (ws.panelAt n + 3)
/-- Limit of a panel row's car list (R172). -/
def Words.carListLimit (ws : Words) (n : Nat) : Nat := if ws.panelKind n = 3 then 4 else 8
/-- Car list within its count. -/
def Words.carList (ws : Words) (n : Nat) : List Nat :=
  (List.range (min (ws.carListLimit n) (ws.hi (ws.panelAt n + 6)))).map (ws.byteFrom (ws.panelAt n + 7))
/-- Keypad stations within their count. -/
def Words.keypads (ws : Words) (n : Nat) : List Nat :=
  (List.range (min 4 (ws.lo (ws.panelAt n + 6)))).map (ws.byteFrom (ws.panelAt n + 11))

/-! ### Structural checks (R20), each the first offending row of its check -/

/-- HEADER. -/
def Words.badHeader (ws : Words) : Bool := 1 < ws.at 1 || 7 < ws.at 4

/-- COUNT: the row to report, if the check fails. -/
def Words.badCount (ws : Words) : Option Nat :=
  if ws.landingCount < 2 ∨ 160 < ws.landingCount ∨ 16 < ws.carCount ∨ 8 < ws.panelCount ∨ 8 < ws.listCount then some 255
  else match ws.lists with
    | .tooMany k => some k
    | .beyond => some 255
    | .ended _ _ => if 96 < ws.textCount ∨ ws.at 0 < ws.calledFor then some 255 else none

/-- HEIGHTS. -/
def Words.badHeight (ws : Words) : Option Nat :=
  firstBelow ws.landingCount (fun i => i != 0 && ws.height i ≤ ws.height (i - 1))

/-- RANGE. -/
def Words.badRange (ws : Words) : Option Nat :=
  firstBelow ws.carCount (fun s =>
    ws.carHi s ≤ ws.carLo s || ws.landingCount ≤ ws.carHi s || 2 < ws.carStep s
      || ws.landingCount ≤ ws.carHi s + ws.carStep s)

/-- CAR_NUMBER. -/
def Words.badCarNumber (ws : Words) : Option Nat :=
  firstBelow ws.carCount (fun s =>
    ws.carNumber s < 1 || 32 < ws.carNumber s || (List.range s).any (fun t => ws.carNumber t == ws.carNumber s))

/-- PANEL_KIND. -/
def Words.badKind (ws : Words) : Option Nat := firstBelow ws.panelCount (fun n => 3 < ws.panelKind n)

/-- Whether a DESTINATION row's keypad station is invalid or stands in an earlier DESTINATION row. -/
def Words.badKeypad (ws : Words) (n : Nat) : Bool :=
  ws.panelKind n == 1 && (ws.keypads n).any (fun k =>
    k == 0 || k == 255 || (List.range n).any (fun m => ws.panelKind m == 1 && (ws.keypads m).contains k))

/-- Whether a panel row's references fail. The landing of a CAR row, and the car slot and deck of any other row, are not
examined (R172); the car list is examined in every row (log 22). -/
def Words.badPanel (ws : Words) (n : Nat) : Bool :=
  (if ws.panelKind n = 2 then
    ws.carCount ≤ ws.panelSlot n || (ws.panelUpper n && ws.carStep (ws.panelSlot n) == 0)
   else ws.landingCount ≤ ws.panelLanding n)
  || (ws.carList n).any (fun s => ws.carCount ≤ s) || ws.badKeypad n

/-- REFERENCE. -/
def Words.badReference (ws : Words) : Option Nat :=
  match firstBelow ws.panelCount ws.badPanel with
  | some n => some n
  | none => (firstBelow 4 (fun k => 3 < ws.hi (ws.sensesAt + k))).map (· + 128)

/-- The structural checks in their order (R20). -/
def Words.structureFault (ws : Words) : Option (FaultReason × Nat) :=
  if ws.badHeader then some (.header, 255)
  else match ws.badCount with
    | some r => some (.count, r)
    | none => match ws.badHeight with
      | some r => some (.heights, r)
      | none => match ws.badRange with
        | some r => some (.range, r)
        | none => match ws.badCarNumber with
          | some r => some (.carNumber, r)
          | none => match ws.badKind with
            | some r => some (.panelKind, r)
            | none => ws.badReference.map (fun r => (.reference, r))

/-! ### Corrections (R21, R172) -/

/-- Clamped to [lo, hi] (00 section 4.1). -/
def clampNat (lo hi x : Nat) : Nat := max lo (min hi x)

/-- Lc: clamped, then lowered to a multiple of 250. -/
def correctLc (x : Nat) : Nat := clampNat 1000 4000 x / 250 * 250

/-- Amax; 65,535 is the not-set marker. -/
def correctAmax (x : Nat) : Nat := if x = 65535 then 1000 else clampNat 0 2000 x

/-- Warning mark; 0 is the not-set marker. -/
def correctWarn (x : Nat) : Nat := if x = 0 then 10 else clampNat 4 12 x

/-- The ranges of a timing set's seven words, in their order (02 section 2.2). -/
def timingRanges : List (Nat × Nat) :=
  [(250, 3000), (3000, 30000), (2000, 20000), (3000, 10000), (0, 5000), (30, 900), (50, 400)]

/-- A word of a timing set as it stands, and as corrected. -/
def Words.timingField (ws : Words) (set k : Nat) : Nat × Nat :=
  let raw := ws.at (15 + 7 * set + k)
  let range := timingRanges.getD k (0, 65535)
  (raw, clampNat range.1 range.2 raw)

/-- Whether a pair of a value as it stands and as corrected is a correction. -/
def corrected (p : Nat × Nat) : Bool := p.1 != p.2

/-- The header settings with a range, as they stand and as corrected: Lc, Amax, Tlead, Gmax, H, announce distance. -/
def Words.headerPairs (ws : Words) : List (Nat × Nat) :=
  [(ws.at 3, correctLc (ws.at 3)),
   (if ws.at 10 = 65535 then 1000 else ws.at 10, correctAmax (ws.at 10)),
   (ws.at 11, clampNat 0 1500 (ws.at 11)),
   (ws.at 12, clampNat 0 3000 (ws.at 12)),
   (ws.at 13, clampNat 0 1000 (ws.at 13)),
   (ws.at 14, clampNat 0 10000 (ws.at 14))]

/-- The settings of a panel row with a range, and its counts with a limit, as they stand and as corrected. -/
def Words.panelPairs (ws : Words) (n : Nat) : List (Nat × Nat) :=
  let p := ws.panelAt n
  let warn := ws.hi (p + 4)
  [(ws.lo p, clampNat 0 3 (ws.lo p)),
   (ws.hi (p + 1), clampNat 8 24 (ws.hi (p + 1))),
   (ws.lo (p + 1), clampNat 1 4 (ws.lo (p + 1))),
   (if warn = 0 then 10 else warn, correctWarn warn),
   (ws.hi (p + 5), clampNat 0 15 (ws.hi (p + 5))),
   (ws.lo (p + 5), clampNat 0 15 (ws.lo (p + 5))),
   (ws.hi (p + 6), min (ws.carListLimit n) (ws.hi (p + 6))),
   (ws.lo (p + 6), min 4 (ws.lo (p + 6)))]

/-- The lengths of a text, as they stand and as corrected. -/
def Words.textPairs (ws : Words) (t : Nat) : List (Nat × Nat) :=
  let p := ws.textAt t
  [(ws.hi p, min 24 (ws.hi p)), (ws.lo p, min 24 (ws.lo p))]

/-- Whether a value was changed by clamping or rounding. -/
def Words.anyCorrected (ws : Words) : Bool :=
  ws.headerPairs.any corrected
  || (List.range 4).any (fun i => (List.range 7).any (fun k => corrected (ws.timingField i k)))
  || (List.range ws.panelCount).any (fun n => (ws.panelPairs n).any corrected)
  || (List.range ws.textCount).any (fun t => (ws.textPairs t).any corrected)

/-! ### The copy (R21 to R25, R172) -/

/-- A character of the image: bit 7 is not examined (R172). -/
def imageChar (n : Nat) : Byte := byte (n % 128)

/-- The characters before the first 0 character. -/
def untilZero : List Byte → Chars
  | [] => []
  | c :: rest => if c = 0 then [] else c :: untilZero rest

/-- Characters packed two to a word. -/
def Words.chars (ws : Words) (base count : Nat) : Chars :=
  (List.range count).map (fun k => imageChar (ws.byteFrom base k))

/-- A timing set. -/
def Words.timing (ws : Words) (i : Nat) : TimingSet :=
  let f := fun k => (ws.timingField i k).2
  { scroll := f 0, promptHold := f 1, boardingHold := f 2, reassignHold := f 3, linger := f 4, quiet := f 5,
    lead := f 6 }

/-- A bit of a word. -/
def bitOf (n k : Nat) : Bool := n / 2 ^ k % 2 == 1

/-- A landing row. -/
def Words.landing (ws : Words) (i : Nat) : Landing :=
  let p := ws.landingAt i
  { height := ws.height i, label := untilZero (ws.chars (p + 2) 4), express := bitOf (ws.at p) 15,
    skyLobby := bitOf (ws.at p) 14, hidden := bitOf (ws.at p) 13 }

/-- A car label: a label whose first character is 0 is drawn as spaces (R172, log 22). -/
def Words.carLabel (ws : Words) (s : Nat) : Chars :=
  match untilZero (ws.chars (ws.carAt s + 1) 2) with
  | [] => [0x20, 0x20]
  | c :: rest => c :: rest

/-- A car row. -/
def Words.car (ws : Words) (s : Nat) : CarRow :=
  { number := ws.carNumber s, label := ws.carLabel s, lo := ws.carLo s, hi := ws.carHi s, step := ws.carStep s }

/-- A list without the later appearances of what it holds twice (R20). -/
def firstAppearances : List Nat → List Nat
  | [] => []
  | x :: rest => x :: (firstAppearances rest).filter (fun y => y != x)

/-- Panel kind of a code. -/
def kindOf (n : Nat) : PanelKind :=
  match n with
  | 0 => .lobby
  | 1 => .destination
  | 2 => .car
  | _ => .lantern

/-- An action of the show list layout; none for a code above 6 (12.4, R172). -/
def actionOf (code arg : Nat) : Option Action :=
  match code with
  | 0 => some (.page .floor)
  | 1 => some (.page .prompts)
  | 2 => some (.page .stops)
  | 3 => some (.page (.text arg))
  | 4 => some (.page .notice)
  | 5 => some (.page .blank)
  | 6 => some (.language (if arg % 2 = 0 then .primary else .secondary))
  | _ => none

/-- A stored show list entry: mark, period, phase, and its action if the code is one of the seven. -/
structure StoredEntry where
  mark : Nat
  period : Nat
  phase : Nat
  action : Option Action
  deriving DecidableEq, Repr

/-- The entries of the list whose count word stands at `p`. -/
def Words.storedList (ws : Words) (p : Nat) : List StoredEntry :=
  (List.range (ws.at p)).map (fun i =>
    let e := p + 1 + 3 * i
    { mark := ws.at e, period := ws.hi (e + 1), phase := ws.lo (e + 1), action := actionOf (ws.hi (e + 2)) (ws.lo (e + 2)) })

/-- Whether an action is permitted on a kind of panel (R22). -/
def permitted (kind : PanelKind) (textCount : Nat) : Option Action → Bool
  | none => false
  | some (.language _) => true
  | some (.page p) =>
    match p with
    | .prompts => kind == .destination
    | .stops => kind == .car
    | .text n => n < textCount
    | .floor => true
    | .notice => true
    | .blank => true
    | .lantern => true

/-- Whether the entries of a list pass the checks of R22, after an entry with a given mark. -/
def entriesPass (kind : PanelKind) (lc textCount : Nat) : Nat → List StoredEntry → Bool
  | _, [] => true
  | previous, e :: rest =>
    e.mark < lc && previous ≤ e.mark && [1, 2, 4, 8, 16, 32, 64].contains e.period && e.phase < e.period
      && permitted kind textCount e.action && entriesPass kind lc textCount e.mark rest

/-- A stored entry as a show list entry. -/
def StoredEntry.toShow (e : StoredEntry) : ShowEntry :=
  { mark := e.mark, period := e.period, phase := e.phase, action := e.action.getD (.page .blank) }

/-- The default list of a panel kind (R23). -/
def defaultList (kind : PanelKind) : List ShowEntry :=
  let one := fun p => [{ mark := 0, period := 1, phase := 0, action := .page p : ShowEntry }]
  match kind with
  | .lobby => one .floor
  | .destination => one .prompts
  | .car => one .stops
  | .lantern => []

/-- The show list that a panel of a kind runs, when its own passes the checks of R22; none when it is faulted. `named` is
the stored list that its row names: the outer none when the row names none, the inner none when it is beyond the count. -/
def ownList (kind : PanelKind) (lc textCount : Nat) (named : Option (Option (List StoredEntry))) :
    Option (List ShowEntry) :=
  match kind, named with
  | .lantern, none => some []
  | .lantern, some (some []) => some []
  | .lantern, some _ => none
  | _, some (some (e :: rest)) =>
    if entriesPass kind lc textCount 0 (e :: rest) then some ((e :: rest).map StoredEntry.toShow) else none
  | _, _ => none

/-- The stored list that a panel row names. -/
def Words.namedList (ws : Words) (n : Nat) : Option (Option (List StoredEntry)) :=
  if ws.panelList n = 255 then none
  else some ((ws.listStarts[ws.panelList n]?).map ws.storedList)

/-- A panel row (R21 to R23). -/
def Words.panel (ws : Words) (n : Nat) : PanelRow :=
  let p := ws.panelAt n
  let kind := kindOf (ws.panelKind n)
  let own := ownList kind (correctLc (ws.at 3)) ws.textCount (ws.namedList n)
  { kind := kind,
    width := clampNat 8 24 (ws.hi (p + 1)),
    lines := clampNat 1 4 (ws.lo (p + 1)),
    landing := ws.panelLanding n,
    slot := ws.panelSlot n,
    deck := if ws.panelUpper n then .upper else .lower,
    cars := firstAppearances (ws.carList n),
    keypads := (ws.keypads n).map byte,
    timing := clampNat 0 3 (ws.lo p),
    list := own.getD (defaultList kind),
    listFaulted := own.isNone,
    warn := correctWarn (ws.hi (p + 4)),
    awake := clampNat 0 15 (ws.hi (p + 5)),
    dim := clampNat 0 15 (ws.lo (p + 5)),
    mayDark := ws.lo (p + 4) % 2 == 1 }

/-- Sense function of a code. -/
def functionOf (n : Nat) : SenseFunction :=
  match n with
  | 0 => .wake
  | 1 => .test
  | 2 => .language
  | _ => .report

/-- A sense line row. -/
def Words.sense (ws : Words) (k : Nat) : SenseRow :=
  { function := functionOf (ws.hi (ws.sensesAt + k)), mask := byte (ws.lo (ws.sensesAt + k)) }

/-- A text. -/
def Words.text (ws : Words) (t : Nat) : Text :=
  let p := ws.textAt t
  { primary := ws.chars (p + 1) (min 24 (ws.hi p)), secondary := ws.chars (p + 13) (min 24 (ws.lo p)) }

/-- The loaded copy of an image whose structure passes. -/
def Words.image (ws : Words) : Image :=
  { tempoEligible := ws.at 2 % 2 == 1,
    lc := correctLc (ws.at 3),
    zone := ws.at 4,
    amax := correctAmax (ws.at 10),
    tlead := clampNat 0 1500 (ws.at 11),
    gmax := clampNat 0 3000 (ws.at 12),
    hyst := clampNat 0 1000 (ws.at 13),
    announce := clampNat 0 10000 (ws.at 14),
    timings := (List.range 4).map ws.timing,
    landings := (List.range ws.landingCount).map ws.landing,
    cars := (List.range ws.carCount).map ws.car,
    panels := (List.range ws.panelCount).map ws.panel,
    senses := (List.range 4).map ws.sense,
    texts := (List.range ws.textCount).map ws.text,
    clamped := ws.anyCorrected }

/-! ### The load (R19, R25, R26) -/

/-- How a load ends: refused with a reason, a row and the bit rate of the header, or good with its copy. -/
inductive Load where
  | refused (reason : FaultReason) (row : Nat) (rate : BitRate)
  | good (copy : Image) (rate : BitRate)
  deriving DecidableEq, Repr

/-- Bit rate of a code: 125 kbit/s for any other code than 1 (R26). -/
def rateOf (code : Nat) : BitRate := if code = 1 then .kbit250 else .kbit125

/-- The image length: the first word. -/
def imageLength (memory : List Word16) : Nat := ((memory.head?).map (·.toNat)).getD 65535

/-- The checks of R19 and R20 on an image memory. -/
def load (memory : List Word16) : Load :=
  let length := imageLength memory
  if length < Config.headerWords ∨ Config.maxImageWords < length then .refused .length 255 .kbit125
  else
    let ws := readWords memory length
    let rate := rateOf (ws.at 1)
    if ws.sum % 65536 ≠ 0 then .refused .check 255 rate
    else match ws.structureFault with
      | some (reason, row) => .refused reason row rate
      | none => .good ws.image rate

end Sys2Proof.Machine
end

