-- ==== Sys2Proof/Machine/LinkEvents.lean ====
section
/-! DEFINITION. Replies, failures, faults and recovery of the panel links (10 sections 10.3 and 10.4, R161, R171). -/

namespace Sys2Proof.Machine

/-! ### Restoring a module (R155, R161, R27) -/

/-- The service page: one line of eight dash characters (R27). -/
def servicePage : Content := [List.replicate 8 glyphDash]

/-- Brightness of the service page (R27). -/
def serviceLevel : Nat := 8

/-- LOAD of the service page, FLIP and BRIGHT with level 8 (R155 in IMAGE_FAULT). -/
def State.sendServicePage (n : Nat) (s : State) : State :=
  ((s.hand n (.load servicePage 0)).hand n (.flip 0 false)).hand n (.bright serviceLevel)

/-- A PROBE was answered with ACK: the link is UP and its module is restored (R155). -/
def State.linkRestored (n : Nat) (s : State) : State :=
  let s := s.setLink n (fun l =>
    { l with state := .up, queue := [], pageStale := false, brightStale := false, reprobe := none })
  if s.running then
    let s := s.schedLinkUp n
    s.hand n (.bright (s.displayBrightness n))
  else s.sendServicePage n

/-- Clear the stale flags of a link. -/
def State.clearStale (n : Nat) (s : State) : State :=
  s.setLink n (fun l => { l with pageStale := false, brightStale := false })

/-- A drained UP link restores its module when a stale flag is set (R161). That a refresh of a stale page empties the waiting
entries too and begins none of them, as a link down does, is the model's choice (log 37). -/
def State.drained (n : Nat) (s : State) : State :=
  match s.link n with
  | none => s
  | some l =>
    if l.state = .up ∧ l.inFlight = none ∧ l.queue = [] ∧ (l.pageStale = true ∨ l.brightStale = true) then
      let s := s.clearStale n
      if s.running then
        let s := if l.pageStale then (s.schedLinkDown n).schedLinkUp n else s
        if l.brightStale then s.hand n (.bright (s.displayBrightness n)) else s
      else s.sendServicePage n
    else s

/-! ### Replies (R152, R153, R171) -/

/-- The message in flight on a link that a reply with a tag matches. -/
def State.matching (s : State) (n : Nat) (tag : Byte) : Option InFlight :=
  match s.link n with
  | none => none
  | some l =>
    match l.inFlight with
    | none => none
    | some f => if f.tag = tag then some f else none

/-- The report of a completed message: to the show scheduler for its LOAD and FLIP, or the return to UP (R152). -/
def State.messageDone (n : Nat) (m : LinkMsg) (s : State) : State :=
  match m with
  | .probe _ _ => s.linkRestored n
  | .load _ work => if s.running then s.loadComplete n work else s
  | .flip work _ => if s.running then s.flipComplete n work else s
  | .bright _ => s
  | .test _ => s
  | .chime _ => s

/-- An ACK (R152). The completion is reported before the next message is sent, and before the link is looked at for a
refresh (R161): where the report itself hands work (the LOAD of a WAITING preload), that work is sent first, and the refresh
waits until the link is drained again (the model's choice, log 14). -/
def State.ackTaken (n : Nat) (tag moduleState : Byte) (s : State) : State :=
  match s.matching n tag with
  | none => s
  | some f =>
    let s := s.setLink n (fun l => { l with inFlight := none })
    let s := s.raiseIf (moduleState != 0) (.moduleFault n)
    ((s.messageDone n f.msg).sendNext n).drained n

/-- Entry to FAULTED (R154). -/
def State.linkFault (n : Nat) (s : State) : State :=
  let wasUp := s.linkUp n
  let s := s.setLink n (fun l =>
    { l with state := .faulted, inFlight := none, queue := [], pageStale := false, brightStale := false,
             reprobe := some (after s.now Config.reprobePeriod) })
  let s := s.raise (.linkFault n)
  if wasUp = true ∧ s.running = true then s.schedLinkDown n else s

/-- The attempt in flight on a link fails (R153): a retry with a new tag, FAULTED at the third failure, and no retry for
the single attempt of a reprobe (R154). -/
def State.attemptFails (n : Nat) (s : State) : State :=
  match s.link n with
  | none => s
  | some l =>
    match l.inFlight with
    | none => s
    | some f =>
      if l.state = .faulted then s.setLink n (fun l => { l with inFlight := none })
      else if f.attempt < Config.linkAttempts then
        (s.count .linkRetries).setLink n (fun l => l.fly f.msg (f.attempt + 1) s.now)
      else s.linkFault n

/-- A NAK (R152, R153). -/
def State.nakTaken (n : Nat) (tag : Byte) (s : State) : State :=
  match s.matching n tag with
  | none => s
  | some _ => s.attemptFails n

/-- Whether the timeout of the message in flight on a link is reached. -/
def State.timedOut (s : State) (n : Nat) : Bool :=
  match s.link n with
  | none => false
  | some l =>
    match l.inFlight with
    | none => false
    | some f => reached f.expiry s.now

/-- The bytes of a reply, checked under R171 and then matched under R152. -/
def State.replyTaken (n : Nat) (bytes : List Byte) (s : State) : State :=
  match parseReply bytes with
  | none => s
  | some (.ack tag moduleState) => s.ackTaken n tag moduleState
  | some (.nak tag) => s.nakTaken n tag

/-! ### Reprobes (R154) -/

/-- Whether the reprobe timer of a FAULTED link is reached. -/
def State.reprobeDue (s : State) (n : Nat) : Bool :=
  match s.link n with
  | none => false
  | some l => l.state == .faulted && due l.reprobe s.now

/-- A reprobe: one PROBE as a single attempt, and the timer restarts 5,000 ms after this expiry. -/
def State.reprobe (n : Nat) (s : State) : State :=
  s.setLink n (fun l =>
    { l with reprobe := l.reprobe.map (fun e => after e Config.reprobePeriod) }.fly (s.probeMsg n) 1 s.now)

end Sys2Proof.Machine
end

