-- ==== Sys2Proof/Machine/Start.lean ====
section
/-! DEFINITION. The end of LOADING and RESTART (02 sections 2.3, 2.5 and 2.6, and the reset rule of each chapter). -/

namespace Sys2Proof.Machine

/-! ### Starting the blocks from the copy (R25, R28) -/

/-- The lantern records of a panel: one per car of a LANTERN panel's car list (R92). -/
def lanternsOf (n : Nat) (row : PanelRow) : List Lantern :=
  match row.kind with
  | .lantern => row.cars.map (fun slot =>
      { panel := n, slot := slot, state := .dark, dir := .none, deck := none, linger := none })
  | .lobby => []
  | .destination => []
  | .car => []

/-- The lantern records of panels numbered from `n` on. -/
def lanternRecords : Nat → List PanelRow → List Lantern
  | _, [] => []
  | n, row :: rest => lanternsOf n row ++ lanternRecords (n + 1) rest

/-- The quiet record of a panel at the start (R123). -/
def State.startQuiet (s : State) (row : PanelRow) : QuietRec :=
  { state := .awake, timer := if s.mode.level = .evacuate then none else some (s.quietAhead row) }

/-- Records of an image row take their starting values (R51, R86, R92, R116, R123, R131, R132, R135), with given language
pins (R134). -/
def State.startRecords (pins : List Bool) (s : State) : State :=
  let copy := s.loader.copy
  { s with
    cars := copy.cars.map (fun _ => CarRec.start),
    stops := { decks := copy.cars.map (fun _ => CarDecks.start), lanterns := lanternRecords 0 copy.panels },
    prompts := { pool := [], levels := copy.panels.map (fun _ => LoadLevel.open_) },
    mode := { s.mode with
      quiet := copy.panels.map s.startQuiet,
      pins := pins,
      lamps := copy.panels.map (fun _ => none),
      captures := copy.senses.map (fun _ => { armed := true, latest := none }) },
    schedules := copy.panels.map (fun row => Schedule.start row.kind) }

/-- The cycle unit makes a START (R35, R36). -/
def State.startCycle (s : State) : State :=
  { s with cycle := { s.cycle with sync := .alone, pendingTempo := false, lastTempo := none } }.cycleStart .start s.now 0

/-- The DESTINATION panels, in ascending order. -/
def State.destinations (s : State) : List Nat := s.panelsWhere (fun r => r.kind == .destination)

/-- The load reports at a start: OPEN with count 0 for each DESTINATION panel (R116). -/
def State.startReports (s : State) : State :=
  forEach s.destinations (fun n s => (s.request (.panelLoad n .open_ 0)).2) s

/-- Every block starts from the copy: records, links with a panel row, the cycle and the load reports. -/
def State.startBlocks (pins : List Bool) (s : State) : State :=
  let s := s.startRecords pins
  let s := forEach s.panelIds (fun n s => s.startProbing n) s
  s.startCycle.startReports

/-- Raise the image items that the copy calls for (R21, R22, R28). -/
def State.raiseImageItems (s : State) : State :=
  forEach (s.panelsWhere (·.listFaulted)) (fun n s => s.raise (.showListFault n))
    (s.raiseIf s.loader.copy.clamped .imageClamped)

/-- All eight links begin probing (R26, R162). -/
def State.probeAll (s : State) : State := forEach (List.range 8) (fun n s => s.startProbing n) s

/-! ### The end of LOADING (R25, R26) -/

/-- The invalid strap case (R15). -/
def State.strapCase (s : State) : State :=
  if s.validStation then s
  else { s with bus := { s.bus with state := .listenOnly, failCount := Config.listenOnlyAt } }.raise .listenOnly

/-- Raise the item of the reset that began the load (R29). -/
def State.raiseReset (s : State) : State :=
  match s.status.cause with
  | .power => s.raise .powerUp
  | .pin => s.raise .pinReset
  | .restart => s

/-- The end of LOADING as a load decides it. -/
def State.loadEnded (l : Load) (s : State) : State :=
  match l with
  | .good copy rate =>
    let s := { s with loader := { state := .running, fault := none, copy := copy, bitRate := rate } }
    s.strapCase.raiseReset.raiseImageItems.startBlocks (copy.panels.map (fun _ => false))
  | .refused reason row rate =>
    let s := { s with loader := { state := .imageFault, fault := some (reason, row), copy := Image.empty, bitRate := rate } }
    (s.strapCase.raiseReset.raise .imageFault).probeAll

/-! ### RESTART (R28) -/

/-- The items of a record that are also in another. -/
def Exceptions.meet (e h : Exceptions) : Exceptions :=
  { powerUp := e.powerUp && h.powerUp, pinReset := e.pinReset && h.pinReset, restarted := e.restarted && h.restarted,
    imageFault := e.imageFault && h.imageFault, imageClamped := e.imageClamped && h.imageClamped,
    stationClash := e.stationClash && h.stationClash, listenOnly := e.listenOnly && h.listenOnly,
    queueOverflow := e.queueOverflow && h.queueOverflow, showListFault := e.showListFault &&& h.showListFault,
    positionRange := e.positionRange &&& h.positionRange, carLost := e.carLost &&& h.carLost,
    linkFault := e.linkFault &&& h.linkFault, moduleFault := e.moduleFault &&& h.moduleFault }

/-- The bus station unit at a RESTART (R17). -/
def State.restartBus (s : State) : State :=
  { s with bus := { s.bus with
      queue := [],
      failCount := if s.validStation then 0 else s.bus.failCount,
      state := if s.validStation then .active else s.bus.state } }

/-- The status unit at a RESTART (R28, R29, R169): the record keeps the held items whose conditions still hold. -/
def State.restartStatus (s : State) : State :=
  { s with status := { s.status with
      exceptions := s.status.exceptions.meet s.heldItems, cause := .restart, restarts := min 255 (s.status.restarts + 1),
      query := none } }.raise .restarted

/-- The zone mode record at a RESTART in RUNNING (R117, R121): claims are removed and the level is derived anew. -/
def State.restartMode (s : State) : State :=
  let m := { s.mode with claims := [] }
  { s with mode := { m with level := m.derived } }

/-- The cycle unit in its reset state, with the station clock running (R35, R36). -/
def State.resetCycle (s : State) : State :=
  { s with cycle := { clock := s.cycle.clock, base := 0, count := 0, sync := .alone, pendingTempo := false,
                      lastTempo := none, crossed := false, event := none } }

/-- A RESTART routed to the reset logic (R28). The links leave their states before the held items are judged (log 25), and
the record is cleared before the start reports of R114 are requested (the model's choice, log 40). -/
def State.restartTaken (s : State) : State :=
  match s.loader.state with
  | .loading => s
  | .running =>
    let s := forEach s.panelIds (fun n s => s.startProbing n) s.restartBus
    let s := s.restartStatus.raiseImageItems.restartMode
    (s.startRecords s.mode.pins).startCycle.startReports
  | .imageFault => s.restartBus.resetCycle.probeAll.restartStatus

end Sys2Proof.Machine
end

