-- ==== Sys2Proof/Machine/Receive.lean ====
section
/-! DEFINITION. Received frames: the checks of R1 that a decoded frame still meets, the clash of R16, and the routing of R4
by kind, loader state and receive filter. -/

namespace Sys2Proof.Machine

/-- Whether a target byte addresses the part (R4). -/
def State.addressed (s : State) (target : Byte) : Bool :=
  target == 255 || (target == s.bus.station && s.validStation)

/-- Route a car frame of a RUNNING part through the receive filter (R4, R24). -/
def State.routeCar (car : Byte) (take : Nat → State → State) (s : State) : State :=
  if s.running then
    match s.carSlot car with
    | some slot => take slot s
    | none => s
  else s

/-- Route a good frame from another station, with its arrival mark (R4). A TEMPO lowers the transmit failure count in either
loader state (R15). -/
def State.route (rx : Rx) (mark : Clock) (g : GoodFrame) (s : State) : State :=
  match g with
  | .buildingMode f => if s.running then s.buildingModeTaken rx.source f else s
  | .carService car service => s.routeCar car (fun slot s => s.carServiceTaken slot service)
  | .restart target => if s.addressed target then s.restartTaken else s
  | .tempo count sync =>
    let s := s.tempoLowers
    if s.running then s.tempoHeard false rx.source mark (decodeCount count) (decodeSync sync) else s
  | .carMotion f => s.routeCar f.car (fun slot s => s.carMotionTaken slot mark f)
  | .carStep f => s.routeCar f.car (fun slot s => s.carStepTaken slot mark f)
  | .carCalls f => s.routeCar f.car (fun slot s => s.carCallsTaken slot f)
  | .assign f => if s.running then s.assignTaken f else s
  | .withdraw ticket => if s.running then s.withdrawTaken ticket else s
  | .statusQuery f => if s.addressed f.target then s.queryTaken f else s
  | .sentKind => s

/-- Whether the part receives frames now: outside LOADING (R3, R17), and not while it ignores the bus (R1 check 1). It is
asked at the end of a frame, so a frame that begins in LOADING and ends after it is received whole (the model's choice,
log 32). -/
def State.receives (s : State) : Bool :=
  match s.loader.state with
  | .loading => false
  | .running => !s.bus.ignoring
  | .imageFault => !s.bus.ignoring

/-- A frame that passes every check of R1 but that of its source byte: bad when the source is no station, a clash when it
is the part's own number (R16), else routed. -/
def State.takeGood (rx : Rx) (mark : Clock) (g : GoodFrame) (s : State) : State :=
  if rx.source.isStation = false then s.count .framesBad
  else if rx.source = s.bus.station then s.clash
  else s.route rx mark g

/-- Reception of a frame given by its fields, at its end: it travels with its arrival mark (R3), and the bus is not free
until it becomes free again (R5). -/
def State.receive (rx : Rx) (g : GoodFrame) (s : State) : State :=
  if s.receives then s.busy.takeGood rx s.frameMark g else s.busy

/-- A frame taken by its verdict under R1: a bad one is counted, and one with a length byte above 16 makes the unit ignore
the bus; an unknown kind is not counted. -/
def State.takeVerdict (mark : Clock) (v : Verdict) (s : State) : State :=
  match v with
  | .bad ignoreBus =>
    let s := s.count .framesBad
    { s with bus := { s.bus with ignoring := ignoreBus } }
  | .ignored => s
  | .good source g => s.takeGood { source := source } mark g

/-- Reception of a frame given by its bytes (R1). -/
def State.receiveRaw (f : RawFrame) (s : State) : State :=
  if s.receives then s.busy.takeVerdict s.frameMark (verdict f.bytes) else s.busy

end Sys2Proof.Machine
end

