-- ==== Sys2Proof/Machine/Commands.lean ====
section
/-! DEFINITION. The meaning of every command: one definition per row of the table, over the shared operations. A command
whose condition is not met (an expiry of a timer that does not run or is not reached, a threshold not reached, an attempt
outcome without an attempt) is no event of the part and leaves the state as it is (log 2). -/

namespace Sys2Proof.Machine

/-- What every meaning answers. -/
abbrev Answered := Host.Outcome State Fault Refusal

/-! ### Resets and start -/

/-- The state right after a POWER or PIN reset taken in a state: the bus is free or not as it was, with no first bit
known of a frame that is on it (log 24), and the queue and the free-value counter are the model's own. -/
def State.resetBy (cause : ResetCause) (straps : Byte) (s : State) : State :=
  { State.afterReset cause straps s.bus.busFree s.pending with free := s.free }

/-- POWER (R18). -/
def execPower (straps : Byte) (s : State) : Answered := .next (s.resetBy .power straps)

/-- PIN_RESET (R18). -/
def execPinReset (straps : Byte) (s : State) : Answered := .next (s.resetBy .pin straps)

/-- END_OF_LOADING (R25, R26): the load ends having read the image memory. -/
def execEndOfLoading (memory : List Word16) (s : State) : Answered :=
  .next (if s.loader.state = .loading then s.loadEnded (load memory) else s)

/-- RESTART (R28). -/
def execRestart (rx : Rx) (target : Byte) (s : State) : Answered := .next (s.receive rx (.restart target))

/-! ### Frames received -/

/-- BAD_FRAME (R1). -/
def execBadFrame (f : RawFrame) (s : State) : Answered := .next (s.receiveRaw f)

/-- STATION_CLASH (R16). -/
def execStationClash (f : RawFrame) (s : State) : Answered := .next (s.receiveRaw f)

/-- BUILDING_MODE (R118). -/
def execBuildingMode (rx : Rx) (f : ModeFrame) (s : State) : Answered := .next (s.receive rx (.buildingMode f))

/-- CAR_SERVICE (R58). -/
def execCarService (rx : Rx) (car service : Byte) (s : State) : Answered := .next (s.receive rx (.carService car service))

/-- TEMPO (R39). -/
def execTempo (rx : Rx) (count sync : Byte) (s : State) : Answered := .next (s.receive rx (.tempo count sync))

/-- CAR_MOTION (R53). -/
def execCarMotion (rx : Rx) (f : MotionFrame) (s : State) : Answered := .next (s.receive rx (.carMotion f))

/-- CAR_STEP (R54). -/
def execCarStep (rx : Rx) (f : StepFrame) (s : State) : Answered := .next (s.receive rx (.carStep f))

/-- CAR_CALLS (R89). -/
def execCarCalls (rx : Rx) (f : CallsFrame) (s : State) : Answered := .next (s.receive rx (.carCalls f))

/-- ASSIGN (R100). -/
def execAssign (rx : Rx) (f : AssignFrame) (s : State) : Answered := .next (s.receive rx (.assign f))

/-- WITHDRAW (R108). -/
def execWithdraw (rx : Rx) (ticket : Word16) (s : State) : Answered := .next (s.receive rx (.withdraw ticket))

/-- STATUS_QUERY (R163). -/
def execStatusQuery (rx : Rx) (f : QueryFrame) (s : State) : Answered := .next (s.receive rx (.statusQuery f))

/-! ### Own frames -/

/-- ATTEMPT_START (R5, R11). -/
def execAttemptStart (s : State) : Answered := .next s.attemptStart

/-- ARBITRATION_WON (R11). -/
def execArbitrationWon (s : State) : Answered := .next s.arbitrationWon

/-- LOST_ARBITRATION (R12). -/
def execLostArbitration (s : State) : Answered := .next s.lostArbitration

/-- FAILED_ATTEMPT (R12). -/
def execFailedAttempt (s : State) : Answered := .next s.failedAttempt

/-- ATTEMPT_COMPLETED (R12). -/
def execAttemptCompleted (s : State) : Answered := .next s.attemptCompleted

/-- The bus has become free: no frame is on it, and an ignored frame is over (R1, R5). -/
def State.freed (s : State) : State :=
  { s with bus := { s.bus with busFree := true, ignoring := false, firstBit := none } }

/-- BUS_BECOMES_FREE (R1, R5). -/
def execBusBecomesFree (s : State) : Answered := .next s.freed

/-! ### The cycle -/

/-- TEMPO_THRESHOLD (R37). -/
def execTempoThreshold (s : State) : Answered := .next (if s.atTempo then s.tempoThreshold else s)

/-- LOCAL_RESTART (R42). -/
def execLocalRestart (s : State) : Answered := .next (if s.atWatch then s.localRestart else s)

/-! ### Timers of the records -/

/-- An event that only a RUNNING part takes: in LOADING and in IMAGE_FAULT the blocks concerned take no events (R18,
R27). -/
def State.whenRunning (f : State → State) (s : State) : State := if s.running then f s else s

/-- Whether a car's indication timer is reached. -/
def State.indicationDue (s : State) (slot : Nat) : Bool := due (s.carRec slot).timer s.now

/-- INDICATION_TIMER_EXPIRY (R63). -/
def execIndicationTimerExpiry (slot : Nat) (s : State) : Answered :=
  .next (s.whenRunning (fun s => if s.indicationDue slot then s.indicationExpiry slot else s))

/-- Whether a lantern record is that of a panel and a slot and its linger timer is reached. -/
def Lantern.lingerDue (r : Lantern) (panel slot : Nat) (now : Clock) : Bool :=
  r.panel == panel && r.slot == slot && r.state == .linger && due r.linger now

/-- The linger timer of a lantern record expires: the record moves to DARK with a content change (R97, R98). -/
def State.lingerExpiry (panel slot : Nat) (s : State) : State :=
  match findPlace (fun r => r.lingerDue panel slot s.now) s.stops.lanterns with
  | none => s
  | some place =>
    match s.stops.lanterns[place]? with
    | none => s
    | some r => s.applyMove place (LanternMove.darken r)

/-- LINGER_EXPIRY (R97). -/
def execLingerExpiry (panel slot : Nat) (s : State) : Answered :=
  .next (s.whenRunning (fun s => s.lingerExpiry panel slot))

/-- HOLD_EXPIRY (R107): the entry with the ticket is removed when its hold is reached. -/
def execHoldExpiry (ticket : Nat) (s : State) : Answered :=
  .next (s.whenRunning (fun s => s.removePrompts (fun p => p.ticket == ticket && reached p.expiry s.now)))

/-- CLAIM_WATCH_EXPIRY (R120). -/
def execClaimWatchExpiry (source : Byte) (s : State) : Answered :=
  .next (s.whenRunning (fun s => s.claimExpiry source))

/-- Whether a panel's quiet timer is reached. -/
def State.quietDue (s : State) (n : Nat) : Bool :=
  match s.mode.quiet[n]? with
  | some q => due q.timer s.now
  | none => false

/-- QUIET_TIMER_EXPIRY (R126). -/
def execQuietTimerExpiry (panel : Nat) (s : State) : Answered :=
  .next (s.whenRunning (fun s => if s.quietDue panel then s.quietExpiry panel else s))

/-- Whether a panel's lamp test expiry is reached. -/
def State.lampDue (s : State) (n : Nat) : Bool := due (s.lampOf n) s.now

/-- LAMP_TEST_EXPIRY (R131). -/
def execLampTestExpiry (panel : Nat) (s : State) : Answered :=
  .next (s.whenRunning (fun s => if s.lampDue panel then s.lampEnd panel else s))

/-- SENSE_LINE_EDGE (R128): taken while the loader is RUNNING. -/
def execSenseLineEdge (line : Nat) (s : State) : Answered := .next (s.whenRunning (fun s => s.senseEdge line))

/-! ### The show -/

/-- PRELOAD_INSTANT (R139): every instant that CT has reached is taken. -/
def execPreloadInstant (panel : Nat) (s : State) : Answered := .next (s.whenRunning (fun s => s.takeInstants panel))

/-- SHOW_MARK (R136): every entry whose mark CT has reached acts. -/
def execShowMark (panel : Nat) (s : State) : Answered := .next (s.whenRunning (fun s => s.takeMarks panel))

/-- Whether a panel's scroll timer is reached. -/
def State.scrollDue (s : State) (n : Nat) : Bool :=
  match s.schedule n with
  | some sc => due sc.scroll s.now
  | none => false

/-- A scroll expiry (R147): the index advances or returns to 0, the timer restarts one scroll step ahead, and the page is
handled as a content change. -/
def State.scrollExpiry (n : Nat) (s : State) : State :=
  match s.row n with
  | none => s
  | some row =>
    (s.setSched n (fun sc =>
      { sc with
        index := if sc.index + 1 < pageViews (s.itemCount n row sc.page) (s.itemLines row) then sc.index + 1 else 0,
        scroll := some (after s.now (s.timing row).scroll) })).contentChange n

/-- SCROLL_EXPIRY (R147). -/
def execScrollExpiry (panel : Nat) (s : State) : Answered :=
  .next (s.whenRunning (fun s => if s.scrollDue panel then s.scrollExpiry panel else s))

/-! ### The links -/

/-- LINK_ACK (R152). -/
def execLinkAck (link : Nat) (tag moduleState : Byte) (s : State) : Answered := .next (s.ackTaken link tag moduleState)

/-- LINK_NAK (R153). -/
def execLinkNak (link : Nat) (tag : Byte) (s : State) : Answered := .next (s.nakTaken link tag)

/-- LINK_TIMEOUT (R153). -/
def execLinkTimeout (link : Nat) (s : State) : Answered :=
  .next (if s.timedOut link then s.attemptFails link else s)

/-- LINK_REPLY_BAD (R171): the reply is judged by its bytes. -/
def execLinkReplyBad (link : Nat) (bytes : List Byte) (s : State) : Answered := .next (s.replyTaken link bytes)

/-- REPROBE_EXPIRY (R154). -/
def execReprobeExpiry (link : Nat) (s : State) : Answered :=
  .next (if s.reprobeDue link then s.reprobe link else s)

end Sys2Proof.Machine
end

