-- ==== Sys2Proof/Machine/Dispatch.lean ====
section
/-! DEFINITION. One arm per command. -/

namespace Sys2Proof.Machine

def exec (i : Instr) (s : State) : Host.Outcome State Fault Refusal :=
  match i with
  | .power straps => Sys2Proof.Machine.execPower straps s
  | .pinReset straps => Sys2Proof.Machine.execPinReset straps s
  | .endOfLoading memory => Sys2Proof.Machine.execEndOfLoading memory s
  | .badFrame f => Sys2Proof.Machine.execBadFrame f s
  | .stationClash f => Sys2Proof.Machine.execStationClash f s
  | .buildingMode rx f => Sys2Proof.Machine.execBuildingMode rx f s
  | .carService rx car service => Sys2Proof.Machine.execCarService rx car service s
  | .restart rx target => Sys2Proof.Machine.execRestart rx target s
  | .tempo rx count sync => Sys2Proof.Machine.execTempo rx count sync s
  | .carMotion rx f => Sys2Proof.Machine.execCarMotion rx f s
  | .carStep rx f => Sys2Proof.Machine.execCarStep rx f s
  | .carCalls rx f => Sys2Proof.Machine.execCarCalls rx f s
  | .assign rx f => Sys2Proof.Machine.execAssign rx f s
  | .withdraw rx ticket => Sys2Proof.Machine.execWithdraw rx ticket s
  | .statusQuery rx f => Sys2Proof.Machine.execStatusQuery rx f s
  | .attemptStart => Sys2Proof.Machine.execAttemptStart s
  | .arbitrationWon => Sys2Proof.Machine.execArbitrationWon s
  | .lostArbitration => Sys2Proof.Machine.execLostArbitration s
  | .failedAttempt => Sys2Proof.Machine.execFailedAttempt s
  | .attemptCompleted => Sys2Proof.Machine.execAttemptCompleted s
  | .tempoThreshold => Sys2Proof.Machine.execTempoThreshold s
  | .localRestart => Sys2Proof.Machine.execLocalRestart s
  | .indicationTimerExpiry slot => Sys2Proof.Machine.execIndicationTimerExpiry slot s
  | .lingerExpiry panel slot => Sys2Proof.Machine.execLingerExpiry panel slot s
  | .holdExpiry ticket => Sys2Proof.Machine.execHoldExpiry ticket s
  | .claimWatchExpiry source => Sys2Proof.Machine.execClaimWatchExpiry source s
  | .quietTimerExpiry panel => Sys2Proof.Machine.execQuietTimerExpiry panel s
  | .senseLineEdge line => Sys2Proof.Machine.execSenseLineEdge line s
  | .lampTestExpiry panel => Sys2Proof.Machine.execLampTestExpiry panel s
  | .preloadInstant panel => Sys2Proof.Machine.execPreloadInstant panel s
  | .showMark panel => Sys2Proof.Machine.execShowMark panel s
  | .scrollExpiry panel => Sys2Proof.Machine.execScrollExpiry panel s
  | .linkAck link tag moduleState => Sys2Proof.Machine.execLinkAck link tag moduleState s
  | .linkNak link tag => Sys2Proof.Machine.execLinkNak link tag s
  | .linkTimeout link => Sys2Proof.Machine.execLinkTimeout link s
  | .linkReplyBad link bytes => Sys2Proof.Machine.execLinkReplyBad link bytes s
  | .reprobeExpiry link => Sys2Proof.Machine.execReprobeExpiry link s
  | .busBecomesFree => Sys2Proof.Machine.execBusBecomesFree s

end Sys2Proof.Machine
end

