-- ==== Sys2Proof/Machine/Ticks.lean ====
section
/-! DEFINITION. The millisecond of the station clock (R31), and the commands that time itself brings (log 2). -/

namespace Sys2Proof.Machine

/-- The commands of a kind for the numbers that meet a condition. -/
def forThose (l : List Nat) (p : Nat → Bool) (c : Nat → Instr) : List Instr := (l.filter p).map c

/-- Whether the mark of the entry at a panel's pointer is reached (R136). -/
def State.markReached (s : State) (n : Nat) : Bool :=
  match s.schedule n with
  | none => false
  | some sc =>
    match sc.pointer.bind (fun p => (s.showList n)[p]?) with
    | some e => e.mark ≤ s.ct
    | none => false

/-- Whether a preload instant of a panel is reached that has not been taken in this cycle (R139). -/
def State.instantReachedNow (s : State) (n : Nat) : Bool :=
  match s.schedule n with
  | none => false
  | some sc =>
    match (s.showList n)[sc.instants]? with
    | some e => s.preloadAt n e ≤ s.ct
    | none => false

/-- The commands of the cycle unit that are due. -/
def State.dueCycle (s : State) : List Instr :=
  (if s.atWatch then [Instr.localRestart] else []) ++ (if s.atTempo then [Instr.tempoThreshold] else [])

/-- The commands of the records' timers that are due. -/
def State.dueRecords (s : State) : List Instr :=
  forThose (List.range s.cars.length) s.indicationDue .indicationTimerExpiry
  ++ ((s.stops.lanterns.filter (fun r => r.lingerDue r.panel r.slot s.now)).map
      (fun r => Instr.lingerExpiry r.panel r.slot))
  ++ ((s.prompts.pool.filter (fun p => reached p.expiry s.now)).map (fun p => Instr.holdExpiry p.ticket))
  ++ ((s.mode.claims.filter (fun c => reached c.expiry s.now)).map (fun c => Instr.claimWatchExpiry c.source))
  ++ forThose s.panelIds s.quietDue .quietTimerExpiry
  ++ forThose s.panelIds s.lampDue .lampTestExpiry

/-- The commands of the show scheduler that are due; instants come before marks. -/
def State.dueShow (s : State) : List Instr :=
  forThose s.panelIds s.scrollDue .scrollExpiry
  ++ forThose s.panelIds s.instantReachedNow .preloadInstant
  ++ forThose s.panelIds s.markReached .showMark

/-- The commands of the links that are due. -/
def State.dueLinks (s : State) : List Instr :=
  forThose (List.range 8) s.timedOut .linkTimeout ++ forThose (List.range 8) s.reprobeDue .reprobeExpiry

/-- Every command that is due: those of a RUNNING part's cycle, records and show, and of the links. -/
def State.dueCommands (s : State) : List Instr :=
  (if s.running then s.dueCycle ++ s.dueRecords ++ s.dueShow else []) ++ s.dueLinks

/-- The station clock advances by one (R31). -/
def State.advanceClock (s : State) : State := { s with cycle := { s.cycle with clock := s.cycle.clock + 1 } }

/-- One millisecond: the clock advances, an attempt whose conditions hold begins at once (R11), so that no command of
this millisecond can take its frame away first, and what has fallen due joins the queue. -/
def State.tick (s : State) : State :=
  let s := s.advanceClock.beginAttempt
  { s with pending := s.dueCommands }

end Sys2Proof.Machine
end

