-- ==== Sys2Proof/Safety.lean ====
section
/-! DEFINITION. The terms that claims use: when the part hears a frame, and what holds of every state that a run reaches. -/

namespace Sys2Proof.Machine

/-! ### When a command finds the part ready -/

/-- The part is RUNNING and receives a frame that a station other than itself sent (R1, R4, R16). -/
def State.hears (s : State) (rx : Rx) : Prop :=
  s.loader.state = .running ∧ s.bus.ignoring = false ∧ rx.source.isStation = true ∧ rx.source ≠ s.bus.station

/-- The part is out of LOADING and receives a frame that a station other than itself sent. -/
def State.receivesFrom (s : State) (rx : Rx) : Prop :=
  s.loader.state ≠ .loading ∧ s.bus.ignoring = false ∧ rx.source.isStation = true ∧ rx.source ≠ s.bus.station

/-- The source of a command that is a frame given by its fields. -/
def frameRx : Instr → Option Rx
  | .buildingMode rx _ => some rx
  | .carService rx _ _ => some rx
  | .restart rx _ => some rx
  | .tempo rx _ _ => some rx
  | .carMotion rx _ => some rx
  | .carStep rx _ => some rx
  | .carCalls rx _ => some rx
  | .assign rx _ => some rx
  | .withdraw rx _ => some rx
  | .statusQuery rx _ => some rx
  | _ => none

/-- The car map sends a bus car number to a slot that has a row and a record (R24, R50). -/
def State.knows (s : State) (car : Byte) (slot : Nat) (row : CarRow) : Prop :=
  s.carSlot car = some slot ∧ s.loader.copy.cars[slot]? = some row ∧ slot < s.cars.length

/-- A counter after a number of further counts: it saturates at 65,535 (R167). -/
def counted (before n : Nat) : Nat := min 65535 (before + n)

/-- An exception item whose panel or slot, if it carries one, is one of the part's (R165). -/
def ExcItem.inRange : ExcItem → Bool
  | .showListFault n => n < 8
  | .positionRange n => n < 16
  | .carLost n => n < 16
  | .linkFault n => n < 8
  | .moduleFault n => n < 8
  | _ => true

/-! ### What a command may move beside its own effect

Each definition takes from a later state the fields that a layer of work may move, and all else from the first. -/

/-- What the show scheduler and the link controller move: schedules and links. -/
def State.showMoved (s t : State) : State := { s with links := t.links, schedules := t.schedules }

/-- What quiet handling moves as well: quiet records and lamp tests. -/
def State.quietMoved (s t : State) : State :=
  { s.showMoved t with mode := { s.mode with quiet := t.mode.quiet, lamps := t.mode.lamps } }

/-- What the prompt manager moves as well: pool, load levels, the transmit queue that takes its PANEL LOAD frames, the
counters FRAMES_DROPPED, EVICTIONS and ASSIGN_IGNORED, and QUEUE_OVERFLOW. -/
def State.promptsMoved (s t : State) : State :=
  { s.quietMoved t with
    prompts := t.prompts, bus := { s.bus with queue := t.bus.queue },
    status := { s.status with
      counters := { s.status.counters with
        framesDropped := t.status.counters.framesDropped,
        evictions := t.status.counters.evictions,
        assignIgnored := t.status.counters.assignIgnored },
      exceptions := { s.status.exceptions with queueOverflow := t.status.exceptions.queueOverflow } } }

/-- What a car state change event moves as well: stop sets, lanterns and the free-value counter. -/
def State.carMoved (s t : State) : State := { s.promptsMoved t with stops := t.stops, free := t.free }

/-- Whether two records of a car differ in an item that R64 names: tracking, service, motion state, reported level, a door
state, the anchor, indicated landing, arrow or Q. -/
def CarRec.differs (old new : CarRec) : Prop :=
  old.tracking ≠ new.tracking ∨ old.service ≠ new.service ∨ old.motion ≠ new.motion ∨ old.level ≠ new.level ∨
  old.doorLower ≠ new.doorLower ∨ old.doorUpper ≠ new.doorUpper ∨ old.anchor ≠ new.anchor ∨
  old.indicated ≠ new.indicated ∨ old.arrow ≠ new.arrow ∨ old.q ≠ new.q

/-- The upper deck's arrow (R82): the upper intent while the car is TRACKED, anchored and PARKED or LEVELLING, else the record's. -/
def CarRec.upperArrow (r : CarRec) (upper : Dir) : Dir :=
  if r.tracking = .tracked ∧ r.anchor = true ∧ (r.motion = .parked ∨ r.motion = .levelling) then upper else r.arrow

/-- A state `t` that is a stored state with the car state change event of a slot's old and new records, when an item of R64
differs, and the stored state itself when none does. The event says whether a double-deck car's upper arrow differs (R66,
log 17). -/
structure State.eventTaken (stored : State) (slot : Nat) (row : CarRow) (upper : Dir) (old new : CarRec) (t : State) :
    Prop where
  changed : old.differs new → ∃ arrows : Bool,
    (arrows = true ↔ row.step ≠ 0 ∧ old.upperArrow upper ≠ new.upperArrow upper) ∧
    t = stored.raiseCarEvent slot old new arrows
  same : ¬ old.differs new → t = stored

/-- What the stops and lantern unit moves beyond quiet handling: stop sets, lanterns and the free-value counter. -/
def State.lanternsMoved (s t : State) : State := { s.quietMoved t with stops := t.stops, free := t.free }

/-- What the car tracker moves as well: car records, the counters FIELD_RANGE, LEVEL_DISAGREE and UNANCHORED_STEPS, and
the items POSITION_RANGE and CAR_LOST. -/
def State.trackerMoved (s t : State) : State :=
  let u := s.carMoved t
  { u with
    cars := t.cars,
    status := { u.status with
      counters := { u.status.counters with
        fieldRange := t.status.counters.fieldRange,
        levelDisagree := t.status.counters.levelDisagree,
        unanchoredSteps := t.status.counters.unanchoredSteps },
      exceptions := { u.status.exceptions with
        positionRange := t.status.exceptions.positionRange, carLost := t.status.exceptions.carLost } } }

/-- What a cycle start moves as well: the counters SKIPPED_MARKS and LATE_FLIPS. -/
def State.cycleMoved (s t : State) : State :=
  let u := s.trackerMoved t
  { u with status := { u.status with counters := { u.status.counters with
      skippedMarks := t.status.counters.skippedMarks, lateFlips := t.status.counters.lateFlips } } }

/-! ### What an event brings about (R65, R90, R105, R113, R114, R147) -/

/-- A deck's stop set without a landing at which the deck has arrived (R90). -/
def CarDecks.arrive (ds : CarDecks) (d : Deck) (l : Nat) : CarDecks :=
  ds.set d { ds.get d with stops := (ds.get d).stops.filter (fun x => x != l) }

/-- A car's deck records after the arrivals of an event. -/
def CarDecks.arrived (ds : CarDecks) (arrivals : List (Deck × Nat)) : CarDecks :=
  arrivals.foldl (fun ds a => ds.arrive a.1 a.2) ds

/-- The entries of a pool that stand on a panel. -/
def onPanel (n : Nat) (pool : List Prompt) : List Prompt := pool.filter (fun p => p.panel == n)

/-- The load level that a panel's list in a pool calls for (R113). -/
def State.levelFor (s : State) (pool : List Prompt) (n : Nat) : LoadLevel :=
  match s.row n with
  | some row => loadLevel (onPanel n pool).length row.warn (s.levelOf n)
  | none => s.levelOf n

/-- The PANEL LOAD requests that changed lists bring, panel by panel: one for each load level that changes (R114). -/
def State.levelRequests (s : State) (pool : List Prompt) (changed : List Nat) : State :=
  forEach changed (fun n u =>
    if s.levelFor pool n = s.levelOf n then u
    else (u.request (.panelLoad n (s.levelFor pool n) (onPanel n pool).length)).2) s

/-- The load levels after the lists of some panels have changed. -/
def State.levelsAfter (s : State) (pool : List Prompt) (changed : List Nat) (levels : List LoadLevel) : Prop :=
  levels.length = s.prompts.levels.length ∧
  ∀ (n : Nat) (level : LoadLevel), s.prompts.levels[n]? = some level →
    levels[n]? = some (if n ∈ changed then s.levelFor pool n else level)

/-- The current page of a panel as the rules of paging compose it (R140, R147). -/
def State.settledContent (s : State) (n : Nat) : Content := (s.settlePaging n).currentContent n

/-- The state in which a panel's schedule is a given one. -/
def State.withSched (s : State) (n : Nat) (sc : Schedule) : State := { s with schedules := s.schedules.set n sc }

/-- A schedule whose page index and scroll timer are those of its current page (R147). -/
def State.settledSched (s : State) (n : Nat) (row : PanelRow) (sc : Schedule) : Schedule :=
  let items := s.itemCount n row sc.page
  let paged := s.suspended row = false ∧ s.itemLines row < items
  { sc with
    index := if paged ∧ sc.index < (items + (s.itemLines row - 1)) / s.itemLines row then sc.index else 0,
    scroll := if paged then some (sc.scroll.getD (s.cycle.clock + BitVec.ofNat 32 (s.timing row).scroll)) else none }

/-- A panel's quiet record after a service level change, given the instant one quiet time ahead (R127); from level 2 to
level 0 it stays (the model's choice, log 35). -/
def QuietRec.afterLevel (old new : Level) (ahead : Clock) (q : QuietRec) : QuietRec :=
  if new = .evacuate then { state := .awake, timer := none }
  else if old = .evacuate then { q with timer := some ahead }
  else if new = .notice then { state := .awake, timer := some ahead }
  else if old = .night ∧ new = .normal ∧ q.state = .dark then { state := .dim, timer := some ahead }
  else q

/-- Quiet records and lamp tests after an event that may have changed the service level (R127, R131): unchanged while the
level stays; else as the change gives them, with every lamp test over at level 3. -/
structure State.levelTaken (s t : State) : Prop where
  same : t.mode.level = s.mode.level → t.mode.quiet = s.mode.quiet ∧ t.mode.lamps = s.mode.lamps
  quiet : t.mode.level ≠ s.mode.level → ∀ (n : Nat) (row : PanelRow) (q : QuietRec), s.row n = some row →
    s.mode.quiet[n]? = some q → t.mode.quiet[n]? = some (q.afterLevel s.mode.level t.mode.level
      (s.cycle.clock + BitVec.ofNat 32 ((s.timing row).quiet * 1000)))
  lamps : t.mode.level ≠ s.mode.level → ∀ (n : Nat) (row : PanelRow) (lamp : Option Clock), s.row n = some row →
    s.mode.lamps[n]? = some lamp → t.mode.lamps[n]? = some (if t.mode.level = .evacuate then none else lamp)

/-! ### What a panel draws (R81, R140) -/

/-- Whether a landing is drawn as the express glyph: a sky lobby is not. -/
def Landing.drawsExpress (l : Landing) : Prop := l.express = true ∧ l.skyLobby = false

/-- Whether a landing is drawn as another one: a sky lobby is not. -/
def Landing.drawsHidden (l : Landing) : Prop := l.hidden = true ∧ l.skyLobby = false

/-- A label as a landing shows it, given the label memory (R81): the express glyph of an EXPRESS landing, the memory or the
nearest landing that is not HIDDEN, below before above, of a HIDDEN one, its own label of any other. -/
structure Image.showsLabel (c : Image) (x : Nat) (memory : Option Chars) (label : Chars) : Prop where
  express : ∀ l, c.landings[x]? = some l → l.drawsExpress → label = [0x03#8]
  own : ∀ l, c.landings[x]? = some l → ¬ l.drawsExpress → ¬ l.drawsHidden → label = l.label
  remembered : ∀ (l : Landing) (m : Chars), c.landings[x]? = some l → ¬ l.drawsExpress → l.drawsHidden → memory = some m → label = m
  below : ∀ (l : Landing) (y : Nat) (v : Landing), c.landings[x]? = some l → ¬ l.drawsExpress → l.drawsHidden → memory = none →
    y < x → c.landings[y]? = some v → ¬ v.drawsHidden →
    (∀ (z : Nat) (w : Landing), y < z → z < x → c.landings[z]? = some w → w.drawsHidden) →
    (v.drawsExpress → label = [0x03#8]) ∧ (¬ v.drawsExpress → label = v.label)
  above : ∀ (l : Landing) (y : Nat) (v : Landing), c.landings[x]? = some l → ¬ l.drawsExpress → l.drawsHidden → memory = none →
    x < y → c.landings[y]? = some v → ¬ v.drawsHidden →
    (∀ (z : Nat) (w : Landing), z < y → c.landings[z]? = some w → w.drawsHidden) →
    (v.drawsExpress → label = [0x03#8]) ∧ (¬ v.drawsExpress → label = v.label)
  all : ∀ l, c.landings[x]? = some l → ¬ l.drawsExpress → memory = none →
    (∀ (z : Nat) (w : Landing), c.landings[z]? = some w → w.drawsHidden) → label = []

/-- A line of a page (R140): filled with spaces, or cut with the continuation glyph last. -/
def drawnLine (width : Nat) (line : Chars) : Chars :=
  if line.length ≤ width then line ++ List.replicate (width - line.length) 0x20#8
  else line.take (width - 1) ++ [0x04#8]

/-- A text on a number of lines (R140): pieces of the panel's width, the last line in the way of a long line. -/
def drawnText (width lines : Nat) (text : Chars) : Content :=
  (List.range lines).map (fun i => drawnLine width
    (if i + 1 < lines then (text.drop (i * width)).take width else text.drop (i * width)))

/-- The version of a text of the copy for a language (R140): an empty secondary version gives way to the primary one. -/
def Image.textIn (c : Image) (k : Nat) (lang : Lang) : Chars :=
  match c.texts[k]? with
  | some t => if lang = .secondary ∧ t.secondary ≠ [] then t.secondary else t.primary
  | none => []

/-- Characters left-aligned in a field of a number of characters (R141). -/
def inField (size : Nat) (c : Chars) : Chars := (c ++ List.replicate (size - c.length) 0x20#8).take size

/-- The glyph of a direction (R140). -/
def drawnDir : Dir → Byte
  | .none => 0x20
  | .up => 0x01
  | .down => 0x02

/-! ### Work on a link -/

/-- A link record with its PROBE just sent as attempt 1, whatever it was before; the tag counter goes on (R155, R162). -/
def probingFrom (l : LinkRec) (width lines : Nat) (now : Clock) : LinkRec :=
  { state := .probing, queue := [], pageStale := false, brightStale := false, reprobe := none, tag := l.tag + 1,
    inFlight := some { msg := .probe width lines, tag := l.tag + 1, attempt := 1, expiry := now + 40 } }

/-- A link record with a message just sent as attempt 1 (R152). -/
def sending (l : LinkRec) (m : LinkMsg) (now : Clock) : LinkRec :=
  { l with tag := l.tag + 1, inFlight := some { msg := m, tag := l.tag + 1, attempt := 1, expiry := now + 40 } }

/-- A link that the end of a message finds drained, its record and the schedules after the completion report being given
(R161): a stale page is handed anew with its FLIP, unless the panel is DARK, after a refresh that clears preload, waiting
entries, flip outstanding and last content; a stale brightness is sent after it or alone; outside RUNNING the service page
is sent. That the refresh clears the waiting entries is the model's choice (log 37). -/
structure State.refreshed (s : State) (n : Nat) (l : LinkRec) (told : List Schedule) (t : State) : Prop where
  served : s.loader.state ≠ .running → l.pageStale = true ∨ l.brightStale = true →
    let idle : LinkRec := { l with inFlight := none, pageStale := false, brightStale := false }
    t.links[n]? = some { sending idle (.load [List.replicate 8 0x2D#8] 0) s.cycle.clock with
      queue := [.flip 0 false, .bright 8] } ∧ t.schedules = told
  bright : s.loader.state = .running → l.pageStale = false → l.brightStale = true →
    let idle : LinkRec := { l with inFlight := none, pageStale := false, brightStale := false }
    t.links[n]? = some (sending idle (.bright (s.displayBrightness n)) s.cycle.clock) ∧ t.schedules = told
  page : ∀ (row : PanelRow) (sc : Schedule), s.loader.state = .running → l.pageStale = true → s.row n = some row →
    told[n]? = some sc →
    let idle : LinkRec := { l with inFlight := none, pageStale := false, brightStale := false }
    let settled := s.settledSched n row sc
    let cleared : Schedule := { settled with preload := none, waiting := [], flip := none, last := none }
    let content := s.compose n sc.page settled.index
    let level : List LinkMsg := if l.brightStale then [.bright (s.displayBrightness n)] else []
    (s.isDark n = true → t.schedules = told.set n cleared ∧
      t.links[n]? = some (level.foldl (fun l m => sending l m s.cycle.clock) idle)) ∧
    (s.isDark n = false →
      t.schedules = told.set n { cleared with
        works := sc.works + 2, last := some content, flip := some (sc.works + 2) } ∧
      t.links[n]? = some { sending idle (.load content (sc.works + 1)) s.cycle.clock with
        queue := .flip (sc.works + 2) false :: level })

/-! ### A START (R92, R116, R123, R135, R136) -/

/-- The language that an entry's action names. -/
def ShowEntry.lang? (e : ShowEntry) : Option Lang :=
  match e.action with
  | .language l => some l
  | .page _ => none

/-- A panel's schedule right after a START: the pointer stands at the first entry of cycle count 0 with a mark above 0, and
of the entries at mark 0 before it the last page and the last language are current, unless the list is suspended or the
language pin is set. -/
def scheduleAtStart (row : PanelRow) (suspended pin : Bool) (instants : Nat) : Schedule :=
  let acting := if suspended then [] else (row.list.filter (fun e => e.phase == 0)).takeWhile (fun e => e.mark == 0)
  { Schedule.start row.kind with
    pointer := findPlace (fun e => e.phase == 0 && e.mark != 0) row.list,
    page := ((acting.filterMap ShowEntry.page?).getLast?).getD (Schedule.start row.kind).page,
    lang := if pin then .primary else ((acting.filterMap ShowEntry.lang?).getLast?).getD .primary,
    instants := instants }

/-- How many of the load reports of a START are dropped: those beyond seven, or all in LISTEN_ONLY (R114, R116). -/
def State.startDrops (t : State) : Nat :=
  if t.bus.state = .active then t.destinations.length - 7 else t.destinations.length

/-- The records of the image rows, and the transmit queue, right after a START: starting values throughout. -/
structure State.fresh (t : State) : Prop where
  cars : t.cars = t.loader.copy.cars.map (fun _ => CarRec.start)
  decks : t.stops.decks = t.loader.copy.cars.map (fun _ => CarDecks.start)
  lanterns : t.stops.lanterns = t.loader.copy.panels.zipIdx.flatMap (fun p => lanternsOf p.2 p.1)
  dark : ∀ r ∈ t.stops.lanterns, r.state = .dark ∧ r.dir = .none ∧ r.deck = none ∧ r.linger = none
  pool : t.prompts.pool = []
  levels : t.prompts.levels = t.loader.copy.panels.map (fun _ => LoadLevel.open_)
  quiet : t.mode.quiet = t.loader.copy.panels.map (fun row =>
    let ahead : Clock := t.cycle.clock + BitVec.ofNat 32 ((t.timing row).quiet * 1000)
    { state := .awake, timer := if t.mode.level = .evacuate then none else some ahead })
  lamps : t.mode.lamps = t.loader.copy.panels.map (fun _ => none)
  captures : t.mode.captures = t.loader.copy.senses.map (fun _ => { armed := true, latest := none })
  schedules : t.schedules.length = t.loader.copy.panels.length ∧ ∀ (n : Nat) (row : PanelRow), t.row n = some row →
    ∃ k, t.schedules[n]? = some (scheduleAtStart row (t.suspended row) (t.pin n) k)
  queue : t.bus.queue = if t.bus.state = .active then
    (t.destinations.take 7).map (fun n => { payload := .panelLoad n .open_ 0, state := .queued, withdrawn := false, held := 0 })
    else []

/-! ### A HEARD or LOCAL cycle start (R59 to R62, R111, R137) -/

/-- The age of a car's last frame, capped at Amax (R69). -/
def State.cappedAge (s : State) (r : CarRec) : Nat := min s.loader.copy.amax (s.cycle.clock - r.mark).toNat

/-- The record of a car after a silence evaluation, whole (R59 to R62): a car that becomes LOST loses its indication, one
that becomes STALE its arrow, and one that returns to TRACKED is evaluated once, when its anchor is VALID, as at a timer
expiry; its timer then starts from this instant when it runs. -/
def State.silencedRec (s : State) (slot : Nat) (row : CarRow) (r : CarRec) : CarRec :=
  let n := if r.heard then r.silence - 1 else min 7 (r.silence + 1)
  let tracking : Tracking :=
    if r.tracking = .lost then (if n = 0 then (if r.anchor then .tracked else .unknown) else .lost)
    else if 7 ≤ n then .lost
    else if r.tracking = .tracked ∧ 3 ≤ n then .stale
    else if r.tracking = .stale ∧ n ≤ 2 then .tracked
    else r.tracking
  let moved : CarRec := { r with silence := n, heard := false, tracking := tracking }
  if r.tracking ≠ .lost ∧ tracking = .lost then
    { moved with indicated := none, arrow := .none, q := none, labelLower := none, labelUpper := none, timer := none }
  else if r.tracking = .tracked ∧ tracking = .stale then { moved with arrow := .none, timer := none }
  else if r.tracking ≠ .tracked ∧ tracking = .tracked then
    let runs := r.anchor = true ∧ (r.motion = .runningUp ∨ r.motion = .runningDown)
    let timer : Option Clock := if runs then some (r.timer.getD (s.cycle.clock + 100)) else none
    let shown : CarRec :=
      if r.anchor then moved.evaluated s.loader.copy row (s.decksOf slot).lower.intent (s.cappedAge r) none else moved
    { shown with timer := timer }
  else moved

/-- The frames of a queue that a cycle start moves by a withdrawal alone: TEMPO and SENSE. -/
def timedFrames (q : List TxFrame) : List TxFrame := q.filter (fun g => g.payload.header == 72 || g.payload.header == 220)

/-- The transmit queue after a request to withdraw the pending TEMPO (R10, R39, R42): while the flag is set, no TEMPO of it is
QUEUED and one on the bus carries the withdrawal mark; SENSE frames stay, as do all while the flag is clear. -/
structure State.tempoWithdrawn (s t : State) : Prop where
  gone : s.cycle.pendingTempo = true → ∀ g ∈ t.bus.queue, g.isTempo = true → g.state ≠ .queued ∧ g.withdrawn = true
  kept : timedFrames t.bus.queue = timedFrames (if s.cycle.pendingTempo then
      (s.bus.queue.filter (fun g => !(g.isTempo && g.state == AttemptState.queued))).map
        (fun g => if g.isTempo then { g with withdrawn := true } else g)
    else s.bus.queue)

/-- The entries that a cycle start skips, over all panels (R137). -/
def State.skippedTotal (s : State) : Nat := (s.panelIds.map (fun n => s.skippedOf n s.cycle.count)).sum

/-- The pool when some cars have become LOST: their SHOWN and BOARDING entries enter REASSIGN with the reassign hold
(R111). -/
def State.poolWithLost (s t : State) : List Prompt :=
  s.prompts.pool.map (fun p =>
    if (s.carRec p.slot).tracking ≠ .lost ∧ (t.carRec p.slot).tracking = .lost ∧ p.state ≠ .reassign then
      { p with state := .reassign, expiry := s.cycle.clock + BitVec.ofNat 32 (s.holdOf p.panel .reassign p.access) }
    else p)

/-- What a HEARD or LOCAL cycle start does beyond the cycle unit: every car's silence is evaluated, a car that becomes LOST
raises CAR_LOST and converts its entries, no stop is removed, and the skipped entries are counted. -/
structure State.cycleTaken (s t : State) : Prop where
  silences : ∀ (slot : Nat) (r : CarRec) (row : CarRow), s.cars[slot]? = some r → s.loader.copy.cars[slot]? = some row →
    t.cars[slot]? = some (s.silencedRec slot row r)
  lost : ∀ (slot : Nat) (r r' : CarRec), s.cars[slot]? = some r → t.cars[slot]? = some r' → slot < 16 →
    r.tracking ≠ .lost → r'.tracking = .lost → t.status.exceptions.carLost.getLsbD slot = true
  pool : t.prompts.pool = s.poolWithLost t
  decks : t.stops.decks = s.stops.decks
  skipped : s.status.counters.skippedMarks ≤ 65535 →
    t.status.counters.skippedMarks = counted s.status.counters.skippedMarks s.skippedTotal

/-! ### The image (R20) -/

/-- A number is the first below a limit that meets a condition. -/
def isFirst (limit : Nat) (p : Nat → Prop) (i : Nat) : Prop := i < limit ∧ p i ∧ ∀ j, j < i → ¬ p j

/-- The count word of a show list, each list following the one before (12.4). -/
def Words.listPos (ws : Words) : Nat → Nat
  | 0 => ws.listsAt
  | k + 1 => ws.listPos k + 1 + 3 * ws.at (ws.listPos k)

/-- The counts of an image are within their limits, its lists within the image, and the words they call for within its
length (R20, log 21). -/
structure Words.countsPass (ws : Words) : Prop where
  landings : 2 ≤ ws.at 5 ∧ ws.at 5 ≤ 160
  cars : ws.at 6 ≤ 16
  panels : ws.at 7 ≤ 8
  lists : ws.at 8 ≤ 8
  fits : ∀ k, k < ws.at 8 → ws.listPos k + 1 < ws.at 0 ∧ ws.at (ws.listPos k) ≤ 16
  texts : ws.at 9 ≤ 96
  room : ws.listPos (ws.at 8) + 4 + 25 * ws.at 9 + 1 ≤ ws.at 0

/-! ### The links (R151, R156, R157, R159) -/

/-- How many messages of a queue are of a kind. -/
def kindCount (p : LinkMsg → Bool) (q : List LinkMsg) : Nat := (q.filter p).length

/-- A link record as the rules of chapter 10 leave it: at most 3 messages wait, one of them at most a LOAD, one a BRIGHT
and one a TEST; a link that is not UP holds no work and no stale flag; a DOWN link has nothing in flight; an attempt number
is 1..3; the reprobe timer runs exactly in FAULTED. -/
structure LinkRec.ok (l : LinkRec) : Prop where
  room : l.queue.length ≤ 3
  loads : kindCount LinkMsg.isLoad l.queue ≤ 1
  brights : kindCount LinkMsg.isBright l.queue ≤ 1
  tests : kindCount LinkMsg.isTest l.queue ≤ 1
  idle : l.state ≠ .up → l.queue = [] ∧ l.pageStale = false ∧ l.brightStale = false
  down : l.state = .down → l.inFlight = none
  attempts : ∀ f, l.inFlight = some f → 1 ≤ f.attempt ∧ f.attempt ≤ 3
  timer : l.reprobe.isSome = true ↔ l.state = .faulted

/-- All eight link records stand and are as the rules leave them. -/
def State.linksOk (s : State) : Prop := s.links.length = 8 ∧ ∀ l ∈ s.links, l.ok

/-! ### The transmit queue (R6, R11, R13, R14, R38) -/

/-- How many frames of a queue meet a condition. -/
def frameCount (p : TxFrame → Bool) (q : List TxFrame) : Nat := (q.filter p).length

/-- Whether a frame is CONTENDING or SENDING. -/
def TxFrame.onBus (f : TxFrame) : Bool := f.state != .queued

/-- A frame just accepted (R7). -/
def newFrame (p : TxPayload) : TxFrame := { payload := p, state := .queued, withdrawn := false, held := 0 }

/-- A queue in order of class and kind (R6). -/
def ordered : List TxFrame → Prop
  | [] => True
  | f :: rest => (∀ g ∈ rest, f.payload.header ≤ g.payload.header) ∧ ordered rest

/-- The transmit queue as the rules of chapter 1 leave it: ordered by header, at most 7 shared frames and one TEMPO, at
most one frame on the bus, empty in LISTEN_ONLY and in LOADING; the pending-tempo flag tells whether it holds the TEMPO;
the failure count is 0..255. -/
structure State.txOk (s : State) : Prop where
  order : ordered s.bus.queue
  shared : frameCount TxFrame.shared s.bus.queue ≤ 7
  tempo : frameCount TxFrame.isTempo s.bus.queue ≤ 1
  onBus : frameCount TxFrame.onBus s.bus.queue ≤ 1
  silent : s.bus.state = .listenOnly → s.bus.queue = []
  loading : s.loader.state = .loading → s.bus.queue = []
  flag : s.cycle.pendingTempo = true ↔ frameCount TxFrame.isTempo s.bus.queue = 1
  count : s.bus.failCount ≤ 255

/-! ### The prompt pool and the service level (R99, R102, R111, R112, R121) -/

/-- What an assignment must share with an entry to merge into it: panel, destination, car and deck (R102). -/
def Prompt.call (p : Prompt) : Nat × Nat × Nat × Option Deck := (p.panel, p.dest, p.slot, p.deck)

/-- The pool as the rules of chapter 7 leave it, and the service level as chapter 8 derives it: at most 48 entries, 12 on
one panel, no ticket twice, no two entries of a panel with the same destination, car and deck, every ticket 0..4095 and
merge count 1..9; the level held is the one the record gives, and while the evacuation latch is set the pool is empty. -/
structure State.poolOk (s : State) : Prop where
  size : s.prompts.pool.length ≤ 48
  panel : ∀ n, (onPanel n s.prompts.pool).length ≤ 12
  tickets : (s.prompts.pool.map (·.ticket)).Nodup
  calls : (s.prompts.pool.map Prompt.call).Nodup
  ranges : ∀ p ∈ s.prompts.pool, p.ticket ≤ 4095 ∧ 1 ≤ p.merges ∧ p.merges ≤ 9
  level : s.mode.level = s.mode.derived
  evacuated : s.mode.evacuation = true → s.prompts.pool = []

/-- Every SHOWN or BOARDING entry waits for a car that is TRACKED or STALE and in NORMAL service (R103, R111). -/
def State.promptsFit (s : State) : Prop :=
  ∀ p ∈ s.prompts.pool, p.state ≠ .reassign →
    ((s.carRec p.slot).tracking = .tracked ∨ (s.carRec p.slot).tracking = .stale) ∧ (s.carRec p.slot).service = .normal

/-! ### The car records (R50, R59 to R63) -/

/-- A car record as the rules of chapter 4 leave it: position, velocity and silence count in their ranges; the silence
count is the one of its tracking state; an UNKNOWN car has no anchor; an UNKNOWN or LOST car has no indication; outside
TRACKED the arrow is NONE; the indication timer runs exactly for a TRACKED, anchored, running car. -/
structure CarRec.ok (r : CarRec) : Prop where
  pos : r.pos ≤ 1048575
  vel : -16000 ≤ r.vel ∧ r.vel ≤ 16000
  unknown : r.tracking = .unknown → r.silence ≤ 6 ∧ r.anchor = false ∧ r.indicated = none
  tracked : r.tracking = .tracked → r.silence ≤ 2
  stale : r.tracking = .stale → 3 ≤ r.silence ∧ r.silence ≤ 6
  lost : r.tracking = .lost → 1 ≤ r.silence ∧ r.silence ≤ 7 ∧ r.indicated = none
  arrow : r.tracking ≠ .tracked → r.arrow = .none
  timer : r.timer.isSome = true ↔ r.tracking = .tracked ∧ r.anchor = true ∧ r.motion.isRunning = true

/-- Every car record is as the rules leave it. -/
def State.carsOk (s : State) : Prop := ∀ r ∈ s.cars, r.ok

end Sys2Proof.Machine
end

