-- ==== Sys2Proof/Certificates/Slice0/Obligations.lean ====
section
/-! DEFINITION. The statements for the provers. A frame of a statement is written with the `…Moved` definitions of
Safety: it takes from the next state what the named work may move, and everything else from the state before. -/

open Sys2Proof Sys2Proof.Machine

/-! ### Steps, resets and the invariants at reset -/

/-- A step takes the command at the front of the queue; on an empty queue one millisecond passes, an attempt that R11 lets
the part begin begins, and what has fallen due joins the queue (the second clause is the model's choice, log 2). The
clock rises by one (R31), and due are, in RUNNING, LOCAL_RESTART at a cycle time of Lw, TEMPO_THRESHOLD at Lc until it is
crossed (R32), each timer, hold and claim whose expiry the clock has reached, and each preload instant and mark that the
cycle time has reached; in every loader state the timeouts and reprobe timers of the links; and nothing else. -/
def Obligations.StepTakesTheFrontOfTheQueue : Prop :=
  (∀ (c : Instr) (rest : List Instr) (s : State),
    step { s with pending := c :: rest } = exec c { s with pending := rest }) ∧
  (∀ s : State, ∃ t, step { s with pending := [] } = .next t ∧
    (let ticked : State := { s with pending := [], cycle := { s.cycle with clock := s.cycle.clock + 1 } }
     t = { ticked.beginAttempt with pending := t.pending }) ∧
    (let runs := s.loader.state = .running
     let lc := s.loader.copy.lc
     let ct := (s.cycle.clock + 1 - s.cycle.base).toNat
     let past (expiry : Clock) : Prop := (s.cycle.clock + 1 - expiry).toNat < 2 ^ 31
     let due (c : Instr) : Prop := c ∈ t.pending
     (due .localRestart ↔ runs ∧ lc + lc / 4 ≤ ct) ∧
     (due .tempoThreshold ↔ runs ∧ lc ≤ ct ∧ s.cycle.crossed = false) ∧
     (∀ slot, due (.indicationTimerExpiry slot) ↔ runs ∧ ∃ r e, s.cars[slot]? = some r ∧ r.timer = some e ∧ past e) ∧
     (∀ panel slot, due (.lingerExpiry panel slot) ↔ runs ∧ ∃ r ∈ s.stops.lanterns, ∃ e,
       r.panel = panel ∧ r.slot = slot ∧ r.state = .linger ∧ r.linger = some e ∧ past e) ∧
     (∀ ticket, due (.holdExpiry ticket) ↔ runs ∧ ∃ p ∈ s.prompts.pool, p.ticket = ticket ∧ past p.expiry) ∧
     (∀ source, due (.claimWatchExpiry source) ↔ runs ∧ ∃ c ∈ s.mode.claims, c.source = source ∧ past c.expiry) ∧
     (∀ n, due (.quietTimerExpiry n) ↔ runs ∧ ∃ row q e,
       s.row n = some row ∧ s.mode.quiet[n]? = some q ∧ q.timer = some e ∧ past e) ∧
     (∀ n, due (.lampTestExpiry n) ↔ runs ∧ ∃ row e,
       s.row n = some row ∧ s.mode.lamps[n]? = some (some e) ∧ past e) ∧
     (∀ n, due (.scrollExpiry n) ↔ runs ∧ ∃ row sc e,
       s.row n = some row ∧ s.schedules[n]? = some sc ∧ sc.scroll = some e ∧ past e) ∧
     (∀ n, due (.preloadInstant n) ↔ runs ∧ ∃ row sc e, s.row n = some row ∧ s.schedules[n]? = some sc ∧
       row.list[sc.instants]? = some e ∧ e.mark - (s.timing row).lead ≤ ct) ∧
     (∀ n, due (.showMark n) ↔ runs ∧ ∃ row sc k e, s.row n = some row ∧ s.schedules[n]? = some sc ∧
       sc.pointer = some k ∧ row.list[k]? = some e ∧ e.mark ≤ ct) ∧
     (∀ n, due (.linkTimeout n) ↔ n < 8 ∧ ∃ l f, s.links[n]? = some l ∧ l.inFlight = some f ∧ past f.expiry) ∧
     (∀ n, due (.reprobeExpiry n) ↔ n < 8 ∧ ∃ l e,
       s.links[n]? = some l ∧ l.state = .faulted ∧ l.reprobe = some e ∧ past e) ∧
     (∀ c, due c → c = .localRestart ∨ c = .tempoThreshold ∨ ∃ n m x,
       c = .indicationTimerExpiry n ∨ c = .lingerExpiry n m ∨ c = .holdExpiry n ∨ c = .claimWatchExpiry x ∨
       c = .quietTimerExpiry n ∨ c = .lampTestExpiry n ∨ c = .scrollExpiry n ∨ c = .preloadInstant n ∨
       c = .showMark n ∨ c = .linkTimeout n ∨ c = .reprobeExpiry n)))

/-- Every command answers a next state in every state: none faults and none is refused (the model's choice, log 27). It
leaves the queue of waiting commands alone, POWER and PIN too (the model's choice, log 24). -/
def Obligations.EveryCommandAnswers : Prop :=
  ∀ (c : Instr) (s : State), ∃ t, exec c s = .next t ∧ t.pending = s.pending

/-- POWER and PIN begin LOADING with the straps read, and put every block in its reset state (R17, R18, R29, R30, R35,
R117, R151, R169). The bus stays free or not as it was, no first bit of a frame on it is known, and the unit no longer ignores
it: the model's choices (log 5, log 24, log 36). So are the empty copy and the bit rate of 125 kbit/s in LOADING (log 6).
The records of image rows, which take their starting values at the end of LOADING, are not there before it. The state at reset meets every invariant stated below. -/
def Obligations.PowerAndPinBeginLoading : Prop :=
  (∀ (straps : Byte) (s : State),
    ∃ t, exec (.power straps) s = .next t ∧
      exec (.pinReset straps) s = .next { t with status := { t.status with cause := .pin } } ∧
      t.loader = { state := .loading, fault := none, copy := Image.empty, bitRate := .kbit125 } ∧ t.faultPin = true ∧
      t.bus = { station := straps, busFree := s.bus.busFree, ignoring := false, state := .active, failCount := 0,
                queue := [], firstBit := none } ∧
      t.cycle = { clock := 0, base := 0, count := 0, sync := .alone, pendingTempo := false, lastTempo := none,
                  crossed := false, event := none } ∧
      t.cars = [] ∧ t.prompts = { pool := [], levels := [] } ∧ t.stops = { decks := [], lanterns := [] } ∧
      t.schedules = [] ∧
      t.mode = { evacuation := false, evacText := none, night := false, claims := [], level := .normal, quiet := [],
                 pins := [], lamps := [], captures := [] } ∧
      t.links = List.replicate 8 LinkRec.start ∧
      t.status = { exceptions := Exceptions.empty, counters := Counters.zero, cause := .power, restarts := 0,
                   query := none } ∧
      t.pending = s.pending) ∧
  (State.reset.txOk ∧ State.reset.linksOk ∧ State.reset.poolOk ∧ State.reset.promptsFit ∧
    State.reset.carsOk)

/-! ### Counters and the exception record -/

/-- Counting moves one counter, which saturates at 65,535; raising an item makes it present and no other, and takes that item or
mask member, and no other, out of every snapshot in the transmit queue, where nothing else changes; the fault pin is
asserted in LOADING and from then on exactly while the record holds an item (R30, R165 to R167, R169). -/
def Obligations.CountsAndItemsStandAlone : Prop :=
  (∀ (k j : Counter) (s : State),
    (s.count k).status.counters.get j =
      if j = k then min 65535 (s.status.counters.get j + 1) else s.status.counters.get j) ∧
  (∀ (k : Counter) (s : State),
    s.count k = { s with status := { s.status with counters := (s.count k).status.counters } }) ∧
  (∀ (i j : ExcItem) (s : State),
    (s.raise i).status.exceptions.has j = true ↔
      (s.status.exceptions.has j = true ∨ (j = i ∧ i.inRange = true))) ∧
  (∀ (i : ExcItem) (s : State),
    s.raise i = { s with
      status := { s.status with exceptions := (s.raise i).status.exceptions },
      bus := { s.bus with queue := (s.raise i).bus.queue } }) ∧
  (∀ (i : ExcItem) (s : State),
    (s.raise i).bus.queue.length = s.bus.queue.length ∧
    ∀ (k : Nat) (f : TxFrame), s.bus.queue[k]? = some f →
      (∀ kind part data snap, f.payload = .report kind part data (.snapshot snap) →
        ∃ left : Exceptions, (s.raise i).bus.queue[k]? = some { f with payload := .report kind part data (.snapshot left) } ∧
          ∀ j : ExcItem, left.has j = true ↔ snap.has j = true ∧ j ≠ i) ∧
      ((∀ kind part data snap, f.payload ≠ .report kind part data (.snapshot snap)) →
        (s.raise i).bus.queue[k]? = some f)) ∧
  (∀ s : State, (s.loader.state = .loading → s.faultPin = true) ∧
    (s.loader.state ≠ .loading → (s.faultPin = true ↔ ∃ i, s.status.exceptions.has i = true)))

/-! ### The load -/

/-- The length is checked first, then the sum, then the structure (R19); a load that passes gives a copy whose values lie
in the ranges of 02 section 2.2 (R20, R21). Each setting with a range is its own word clamped, Lc lowered to a multiple of
250 as well; Amax of 65,535 is 1,000 and a warning mark of 0 is 10 (R21); counts and text lengths are cut at their limits,
labels end at their first 0 character, and a car list keeps first appearances (R20, R172). The copy is clamped exactly when
clamping or rounding changed a value, which the replacement of a not-set marker is not (R21). That a memory beyond its list
reads as all ones (log 20) and that an empty car label is two spaces (log 22) are the model's reading. -/
def Obligations.LoadChecksThenCorrects : Prop :=
  (imageLength [] = 65535 ∧ ∀ (w : Word16) (rest : List Word16), imageLength (w :: rest) = w.toNat) ∧
  (∀ memory : List Word16, (imageLength memory < 15 ∨ 8192 < imageLength memory) →
    load memory = .refused .length 255 .kbit125) ∧
  load [] = .refused .length 255 .kbit125 ∧
  (∀ memory : List Word16, 15 ≤ imageLength memory → imageLength memory ≤ 8192 →
    (((memory.take (imageLength memory)).map (·.toNat)).sum + 65535 * (imageLength memory - memory.length)) % 65536
      ≠ 0 →
    ∃ rate, load memory = .refused .check 255 rate) ∧
  (∀ memory : List Word16, 15 ≤ imageLength memory → imageLength memory ≤ 8192 →
    (((memory.take (imageLength memory)).map (·.toNat)).sum + 65535 * (imageLength memory - memory.length)) % 65536
      = 0 →
    ∀ reason row rate, load memory = .refused reason row rate → reason ≠ .length ∧ reason ≠ .check) ∧
  (∀ memory copy rate, load memory = .good copy rate →
    1000 ≤ copy.lc ∧ copy.lc ≤ 4000 ∧ copy.lc % 250 = 0 ∧ copy.amax ≤ 2000 ∧ copy.tlead ≤ 1500 ∧
    copy.gmax ≤ 3000 ∧ copy.hyst ≤ 1000 ∧ copy.announce ≤ 10000 ∧ copy.zone ≤ 7 ∧
    copy.timings.length = 4 ∧ copy.senses.length = 4 ∧ copy.panels.length ≤ 8 ∧ copy.cars.length ≤ 16 ∧
    2 ≤ copy.landings.length ∧ copy.landings.length ≤ 160 ∧ copy.texts.length ≤ 96 ∧
    (∀ t ∈ copy.timings, 250 ≤ t.scroll ∧ t.scroll ≤ 3000 ∧ 3000 ≤ t.promptHold ∧ t.promptHold ≤ 30000 ∧
      2000 ≤ t.boardingHold ∧ t.boardingHold ≤ 20000 ∧ 3000 ≤ t.reassignHold ∧ t.reassignHold ≤ 10000 ∧
      t.linger ≤ 5000 ∧ 30 ≤ t.quiet ∧ t.quiet ≤ 900 ∧ 50 ≤ t.lead ∧ t.lead ≤ 400) ∧
    (∀ p ∈ copy.panels, 8 ≤ p.width ∧ p.width ≤ 24 ∧ 1 ≤ p.lines ∧ p.lines ≤ 4 ∧ p.timing ≤ 3 ∧
      4 ≤ p.warn ∧ p.warn ≤ 12 ∧ p.awake ≤ 15 ∧ p.dim ≤ 15) ∧
    (∀ c ∈ copy.cars, 1 ≤ c.number ∧ c.number ≤ 32 ∧ c.lo < c.hi ∧ c.step ≤ 2 ∧
      c.hi + c.step < copy.landings.length)) ∧
  (∀ memory copy rate, load memory = .good copy rate →
    let ws := readWords memory (imageLength memory)
    let clamp (least most x : Nat) : Nat := max least (min most x)
    let chars (base count : Nat) : Chars := (List.range count).map (fun k => BitVec.ofNat 8 (ws.byteFrom base k % 128))
    let label (base count : Nat) : Chars := (chars base count).takeWhile (fun c => c ≠ 0)
    let spans : List (Nat × Nat) :=
      [(250, 3000), (3000, 30000), (2000, 20000), (3000, 10000), (0, 5000), (30, 900), (50, 400)]
    let raw (set k : Nat) : Nat := ws.at (15 + 7 * set + k)
    let span (k : Nat) : Nat × Nat := spans.getD k (0, 0)
    let timing (set k : Nat) : Nat := clamp (span k).1 (span k).2 (raw set k)
    let most (n : Nat) : Nat := if ws.panelKind n = 3 then 4 else 8
    let warn (n : Nat) : Nat := ws.hi (ws.panelAt n + 4)
    let senses := ws.listPos (ws.at 8)
    let text (k : Nat) : Nat := senses + 4 + 25 * k
    copy = {
      tempoEligible := decide (ws.at 2 % 2 = 1), lc := clamp 1000 4000 (ws.at 3) / 250 * 250, zone := ws.at 4,
      amax := if ws.at 10 = 65535 then 1000 else min 2000 (ws.at 10), tlead := min 1500 (ws.at 11),
      gmax := min 3000 (ws.at 12), hyst := min 1000 (ws.at 13), announce := min 10000 (ws.at 14),
      timings := (List.range 4).map (fun i => {
        scroll := timing i 0, promptHold := timing i 1, boardingHold := timing i 2, reassignHold := timing i 3,
        linger := timing i 4, quiet := timing i 5, lead := timing i 6 }),
      landings := (List.range (ws.at 5)).map (fun i => {
        height := ws.height i, label := label (ws.landingAt i + 2) 4, express := (ws.at (ws.landingAt i)).testBit 15,
        skyLobby := (ws.at (ws.landingAt i)).testBit 14, hidden := (ws.at (ws.landingAt i)).testBit 13 }),
      cars := (List.range (ws.at 6)).map (fun k => {
        number := ws.carNumber k, lo := ws.carLo k, hi := ws.carHi k, step := ws.carStep k,
        label := if label (ws.carAt k + 1) 2 = [] then [0x20, 0x20] else label (ws.carAt k + 1) 2 }),
      panels := (List.range (ws.at 7)).map (fun n => {
        kind := [.lobby, .destination, .car].getD (ws.panelKind n) .lantern,
        width := clamp 8 24 (ws.hi (ws.panelAt n + 1)), lines := clamp 1 4 (ws.lo (ws.panelAt n + 1)),
        landing := ws.panelLanding n, slot := ws.panelSlot n, deck := if ws.panelUpper n = true then .upper else .lower,
        cars := ((List.range (min (most n) (ws.hi (ws.panelAt n + 6)))).map (ws.byteFrom (ws.panelAt n + 7))).eraseDups,
        keypads := (List.range (min 4 (ws.lo (ws.panelAt n + 6)))).map
          (fun k => BitVec.ofNat 8 (ws.byteFrom (ws.panelAt n + 11) k)),
        timing := min 3 (ws.lo (ws.panelAt n)), list := (ws.panel n).list, listFaulted := (ws.panel n).listFaulted,
        warn := if warn n = 0 then 10 else clamp 4 12 (warn n), awake := min 15 (ws.hi (ws.panelAt n + 5)),
        dim := min 15 (ws.lo (ws.panelAt n + 5)), mayDark := decide (ws.lo (ws.panelAt n + 4) % 2 = 1) }),
      senses := (List.range 4).map (fun k => {
        function := [.wake, .test, .language].getD (ws.hi (senses + k)) .report,
        mask := BitVec.ofNat 8 (ws.lo (senses + k)) }),
      texts := (List.range (ws.at 9)).map (fun k => {
        primary := chars (text k + 1) (min 24 (ws.hi (text k))),
        secondary := chars (text k + 13) (min 24 (ws.lo (text k))) }),
      clamped := copy.clamped } ∧
    (copy.clamped = true ↔
      copy.lc ≠ ws.at 3 ∨ (ws.at 10 ≠ 65535 ∧ 2000 < ws.at 10) ∨ 1500 < ws.at 11 ∨ 3000 < ws.at 12 ∨
      1000 < ws.at 13 ∨ 10000 < ws.at 14 ∨
      (∃ i k, i < 4 ∧ k < 7 ∧ (raw i k < (span k).1 ∨ (span k).2 < raw i k)) ∨
      (∃ n, n < ws.at 7 ∧ (let p := ws.panelAt n
        3 < ws.lo p ∨ ws.hi (p + 1) < 8 ∨ 24 < ws.hi (p + 1) ∨ ws.lo (p + 1) < 1 ∨ 4 < ws.lo (p + 1) ∨
        (warn n ≠ 0 ∧ warn n < 4) ∨ 12 < warn n ∨ 15 < ws.hi (p + 5) ∨ 15 < ws.lo (p + 5) ∨
        most n < ws.hi (p + 6) ∨ 4 < ws.lo (p + 6))) ∨
      (∃ k, k < ws.at 9 ∧ (24 < ws.hi (text k) ∨ 24 < ws.lo (text k)))))

/-- A good length and sum let the structure decide, by the first check of the table that fails and its first offending row:
HEADER, COUNT, HEIGHTS, RANGE, CAR_NUMBER, PANEL_KIND, REFERENCE; a structure that passes gives the copy (R20). Each field
stands at its word of 12.4, the more significant byte high. Which words
a list's count word may stand in (log 21) and that car lists are examined in every row (log 22) are the model's reading. -/
def Obligations.StructureIsCheckedInOrder : Prop :=
  (∀ memory : List Word16, 15 ≤ imageLength memory → imageLength memory ≤ 8192 →
    let ws := readWords memory (imageLength memory)
    ws.sum % 65536 = 0 →
    (∀ reason row, ws.structureFault = some (reason, row) →
      load memory = .refused reason row (if ws.at 1 = 1 then .kbit250 else .kbit125)) ∧
    (ws.structureFault = none → load memory = .good ws.image (if ws.at 1 = 1 then .kbit250 else .kbit125))) ∧
  (∀ (memory : List Word16) (length i : Nat),
    (readWords memory length).at i = (((memory.take length)[i]?).map (·.toNat)).getD 65535) ∧
  (∀ (ws : Words) (i : Nat),
    (ws.hi i = ws.at i / 256 ∧ ws.lo i = ws.at i % 256) ∧
    (∀ k, ws.byteFrom i k = if k % 2 = 0 then ws.hi (i + k / 2) else ws.lo (i + k / 2)) ∧
    (ws.landingAt i = 43 + 4 * i ∧ ws.height i = ws.at (43 + 4 * i) % 16 * 65536 + ws.at (43 + 4 * i + 1)) ∧
    (let car := 43 + 4 * ws.at 5 + 4 * i
     ws.carAt i = car ∧ ws.carNumber i = ws.at car ∧ ws.carLo i = ws.hi (car + 2) ∧ ws.carHi i = ws.lo (car + 2) ∧
     ws.carStep i = ws.at (car + 3)) ∧
    (let panel := 43 + 4 * ws.at 5 + 4 * ws.at 6 + 13 * i
     ws.panelAt i = panel ∧ ws.panelKind i = ws.hi panel ∧ ws.panelLanding i = ws.hi (panel + 2) ∧
     ws.panelSlot i = ws.lo (panel + 2) ∧ (ws.panelUpper i = true ↔ ws.hi (panel + 3) % 2 = 1) ∧
     ws.panelList i = ws.lo (panel + 3) ∧
     ws.carList i = (List.range (min (if ws.hi panel = 3 then 4 else 8) (ws.hi (panel + 6)))).map
       (ws.byteFrom (panel + 7)) ∧
     ws.keypads i = (List.range (min 4 (ws.lo (panel + 6)))).map (ws.byteFrom (panel + 11))) ∧
    ws.listPos 0 = 43 + 4 * ws.at 5 + 4 * ws.at 6 + 13 * ws.at 7 ∧
    ws.listPos (i + 1) = ws.listPos i + 1 + 3 * ws.at (ws.listPos i)) ∧
  (∀ ws : Words,
    let limits := ws.at 5 < 2 ∨ 160 < ws.at 5 ∨ 16 < ws.at 6 ∨ 8 < ws.at 7 ∨ 8 < ws.at 8
    let height (i : Nat) : Prop := i ≠ 0 ∧ ws.height i ≤ ws.height (i - 1)
    let range (k : Nat) : Prop := ws.carHi k ≤ ws.carLo k ∨ ws.at 5 ≤ ws.carHi k ∨ 2 < ws.carStep k ∨
      ws.at 5 ≤ ws.carHi k + ws.carStep k
    let number (k : Nat) : Prop := ws.carNumber k < 1 ∨ 32 < ws.carNumber k ∨
      ∃ j, j < k ∧ ws.carNumber j = ws.carNumber k
    let kind (n : Nat) : Prop := 3 < ws.panelKind n
    let names (n : Nat) : Prop :=
      (ws.panelKind n = 2 ∧
        (ws.at 6 ≤ ws.panelSlot n ∨ (ws.panelUpper n = true ∧ ws.carStep (ws.panelSlot n) = 0))) ∨
      (ws.panelKind n ≠ 2 ∧ ws.at 5 ≤ ws.panelLanding n) ∨
      (∃ slot ∈ ws.carList n, ws.at 6 ≤ slot) ∨
      (ws.panelKind n = 1 ∧ ∃ k ∈ ws.keypads n,
        k = 0 ∨ k = 255 ∨ ∃ m, m < n ∧ ws.panelKind m = 1 ∧ k ∈ ws.keypads m)
    let function (k : Nat) : Prop := 3 < ws.hi (ws.listPos (ws.at 8) + k)
    let none' (limit : Nat) (p : Nat → Prop) : Prop := ∀ i, i < limit → ¬ p i
    (1 < ws.at 1 ∨ 7 < ws.at 4 → ws.structureFault = some (.header, 255)) ∧
    (ws.at 1 ≤ 1 → ws.at 4 ≤ 7 →
      (limits → ws.structureFault = some (.count, 255)) ∧
      (∀ k, ¬ limits →
        isFirst (ws.at 8) (fun k => ws.at 0 ≤ ws.listPos k + 1 ∨ 16 < ws.at (ws.listPos k)) k →
        ws.structureFault = some (.count, if ws.at 0 ≤ ws.listPos k + 1 then 255 else k)) ∧
      (¬ limits → (∀ k, k < ws.at 8 → ws.listPos k + 1 < ws.at 0 ∧ ws.at (ws.listPos k) ≤ 16) →
        96 < ws.at 9 ∨ ws.at 0 < ws.listPos (ws.at 8) + 4 + 25 * ws.at 9 + 1 →
        ws.structureFault = some (.count, 255)) ∧
      (ws.countsPass →
        (∀ i, isFirst (ws.at 5) height i → ws.structureFault = some (.heights, i)) ∧
        (none' (ws.at 5) height →
          (∀ k, isFirst (ws.at 6) range k → ws.structureFault = some (.range, k)) ∧
          (none' (ws.at 6) range →
            (∀ k, isFirst (ws.at 6) number k → ws.structureFault = some (.carNumber, k)) ∧
            (none' (ws.at 6) number →
              (∀ n, isFirst (ws.at 7) kind n → ws.structureFault = some (.panelKind, n)) ∧
              (none' (ws.at 7) kind →
                (∀ n, isFirst (ws.at 7) names n → ws.structureFault = some (.reference, n)) ∧
                (none' (ws.at 7) names →
                  (∀ k, isFirst 4 function k → ws.structureFault = some (.reference, 128 + k)) ∧
                  (none' 4 function → ws.structureFault = none)))))))))
/-- A panel's show list is faulted exactly by the conditions of R22, with the corrected Lc and the panel's kind; a faulted
list gives way to the default list of R23, and any other list is the stored one, entry by entry, an entry's
action by its code: PAGE FLOOR, PROMPTS, STOPS, TEXT of the argument, NOTICE, BLANK, or LANGUAGE by bit 0 of the argument (R22,
R23, R172). -/
def Obligations.ShowListsAreChecked : Prop :=
  ∀ (ws : Words) (n : Nat), ws.countsPass →
    let kind := kindOf (ws.panelKind n)
    let named := ws.panelList n
    let pos := ws.listPos named
    let size := ws.at pos
    let mark (i : Nat) := ws.at (pos + 1 + 3 * i)
    let period (i : Nat) := ws.hi (pos + 2 + 3 * i)
    let phase (i : Nat) := ws.lo (pos + 2 + 3 * i)
    let code (i : Nat) := ws.hi (pos + 3 + 3 * i)
    let argument (i : Nat) := ws.lo (pos + 3 + 3 * i)
    let entryFaulted (i : Nat) : Prop :=
      correctLc (ws.at 3) ≤ mark i ∨ (i ≠ 0 ∧ mark i < mark (i - 1)) ∨
      period i ∉ [1, 2, 4, 8, 16, 32, 64] ∨ period i ≤ phase i ∨
      6 < code i ∨ (code i = 1 ∧ kind ≠ .destination) ∨ (code i = 2 ∧ kind ≠ .car) ∨
      (code i = 3 ∧ ws.at 9 ≤ argument i)
    let action (i : Nat) : Action :=
      if code i = 0 then .page .floor else if code i = 1 then .page .prompts else if code i = 2 then .page .stops
      else if code i = 3 then .page (.text (argument i)) else if code i = 4 then .page .notice
      else if code i = 5 then .page .blank else .language (if argument i % 2 = 0 then .primary else .secondary)
    let faulted : Prop := if kind = .lantern then named ≠ 255 ∧ (ws.at 8 ≤ named ∨ size ≠ 0)
      else named = 255 ∨ ws.at 8 ≤ named ∨ size = 0 ∨ ∃ i, i < size ∧ entryFaulted i
    let only (p : Page) : List ShowEntry := [{ mark := 0, period := 1, phase := 0, action := .page p }]
    ((ws.panel n).listFaulted = true ↔ faulted) ∧
    (faulted → (ws.panel n).list = match kind with
      | .lobby => only .floor
      | .destination => only .prompts
      | .car => only .stops
      | .lantern => []) ∧
    (¬ faulted → (ws.panel n).list = if kind = .lantern then [] else (List.range size).map (fun i =>
      { mark := mark i, period := period i, phase := phase i, action := action i }))

/-- A refused image ends LOADING in IMAGE_FAULT: reason and row are kept, the copy holds nothing, the items are raised,
all eight links probe with width 8 and line count 1, and every other block keeps its state (R15, R26, R155). -/
def Obligations.RefusedImageEndsInImageFault : Prop :=
  ∀ (memory : List Word16) (s : State) (reason : FaultReason) (row : Nat) (rate : BitRate),
    s.loader.state = .loading → s.bus.queue = [] → load memory = .refused reason row rate →
    ∃ t, exec (.endOfLoading memory) s = .next t ∧
      t.loader = { state := .imageFault, fault := some (reason, row), copy := Image.empty, bitRate := rate } ∧
      t.bus = { s.bus with
        state := if s.validStation then s.bus.state else .listenOnly,
        failCount := if s.validStation then s.bus.failCount else 96 } ∧
      t.status = { s.status with exceptions := { s.status.exceptions with
        imageFault := true,
        powerUp := s.status.exceptions.powerUp || decide (s.status.cause = .power),
        pinReset := s.status.exceptions.pinReset || decide (s.status.cause = .pin),
        listenOnly := s.status.exceptions.listenOnly || !s.validStation } } ∧
      (∀ (n : Nat) (l : LinkRec), n < 8 → s.links[n]? = some l → t.links[n]? = some (probingFrom l 8 1 s.cycle.clock)) ∧
      t.cycle = s.cycle ∧ t.cars = s.cars ∧ t.stops = s.stops ∧ t.prompts = s.prompts ∧ t.mode = s.mode ∧
      t.schedules = s.schedules

/-- A good image ends LOADING in RUNNING with every block at its starting values: car, deck, lantern, quiet, capture and
lamp test records and schedules of the copy's rows, a START at this instant, one load report for each DESTINATION panel,
links with a panel row probing, and the items of the reset and of the copy (R15, R25, R34, R35, R51, R86, R92, R114, R116,
R123, R131, R132, R135, R136, R155). -/
def Obligations.GoodImageStartsEveryBlock : Prop :=
  ∀ (memory : List Word16) (s : State) (copy : Image) (rate : BitRate),
    s.loader.state = .loading → s.bus.queue = [] → load memory = .good copy rate →
    ∃ t, exec (.endOfLoading memory) s = .next t ∧ t.fresh ∧
      t.loader = { state := .running, fault := none, copy := copy, bitRate := rate } ∧
      t.cycle = { clock := s.cycle.clock, base := s.cycle.clock, count := 0, sync := .alone, pendingTempo := false,
                  lastTempo := none, crossed := false,
                  event := some { cause := .start, base := s.cycle.clock, count := 0, endedCt := none } } ∧
      t.bus = { s.bus with
        state := if s.validStation then s.bus.state else .listenOnly,
        failCount := if s.validStation then s.bus.failCount else 96, queue := t.bus.queue } ∧
      t.mode = { s.mode with
        quiet := t.mode.quiet, pins := copy.panels.map (fun _ => false), lamps := t.mode.lamps,
        captures := t.mode.captures } ∧
      t.status = { s.status with
        counters := { s.status.counters with
          framesDropped := if t.startDrops = 0 then s.status.counters.framesDropped
            else counted s.status.counters.framesDropped t.startDrops },
        exceptions := { s.status.exceptions with
          powerUp := s.status.exceptions.powerUp || decide (s.status.cause = .power),
          pinReset := s.status.exceptions.pinReset || decide (s.status.cause = .pin),
          listenOnly := s.status.exceptions.listenOnly || !s.validStation,
          imageClamped := s.status.exceptions.imageClamped || copy.clamped,
          queueOverflow := s.status.exceptions.queueOverflow ||
            decide (t.bus.state = .active ∧ 7 < t.destinations.length),
          showListFault := t.status.exceptions.showListFault } } ∧
      (∀ (n : Nat) (row : PanelRow), n < 8 → copy.panels[n]? = some row →
        t.status.exceptions.showListFault.getLsbD n =
          (s.status.exceptions.showListFault.getLsbD n || row.listFaulted)) ∧
      (∀ (n : Nat) (l : LinkRec) (row : PanelRow), copy.panels[n]? = some row → s.links[n]? = some l →
        t.links[n]? = some (probingFrom l row.width row.lines s.cycle.clock)) ∧
      (∀ n, copy.panels.length ≤ n → t.links[n]? = s.links[n]?)

/-! ### RESTART -/

/-- A RESTART taken in RUNNING keeps the copy, the clock, the latches and pins, the counters (each start report dropped is
counted) and the tag counters, and brings every other block to its starting values, its records as at the end of LOADING.
LISTEN_ONLY stays in the record while the station stays in LISTEN_ONLY, and LINK_FAULT for a link that stays FAULTED, which no
link of a panel row does (R17, R28, R29, R36, R51, R86, R92, R114, R116, R123, R131, R134, R135, R162, R165). That the station
and the links leave their states before the held items are judged is the model's reading (log 25); that the record is
cleared before the start reports are requested, so that QUEUE_OVERFLOW stands after a RESTART with eight DESTINATION panels,
is the model's choice (log 40). -/
def Obligations.RestartInRunning : Prop :=
  ∀ (s : State) (rx : Rx) (target : Byte), s.hears rx → s.addressed target = true →
    ∃ t, exec (.restart rx target) s = .next t ∧ t.fresh ∧
      t.loader = s.loader ∧
      t.cycle = { clock := s.cycle.clock, base := s.cycle.clock, count := 0, sync := .alone, pendingTempo := false,
                  lastTempo := none, crossed := false,
                  event := some { cause := .start, base := s.cycle.clock, count := 0, endedCt := none } } ∧
      t.mode = { s.mode with
        claims := [], quiet := t.mode.quiet, lamps := t.mode.lamps, captures := t.mode.captures,
        level := if s.mode.evacuation then .evacuate else if s.mode.night then .night else .normal } ∧
      t.bus = { s.bus with
        busFree := false, firstBit := none, queue := t.bus.queue,
        failCount := if s.validStation then 0 else s.bus.failCount,
        state := if s.validStation then .active else s.bus.state } ∧
      t.status.cause = .restart ∧ t.status.restarts = min 255 (s.status.restarts + 1) ∧ t.status.query = none ∧
      t.status.counters = { s.status.counters with
        framesDropped := if t.startDrops = 0 then s.status.counters.framesDropped
          else counted s.status.counters.framesDropped t.startDrops } ∧
      t.status.exceptions.restarted = true ∧ t.status.exceptions.powerUp = false ∧
      t.status.exceptions.pinReset = false ∧ t.status.exceptions.stationClash = false ∧
      t.status.exceptions.imageFault = false ∧
      t.status.exceptions.listenOnly = (s.status.exceptions.listenOnly && decide (t.bus.state = .listenOnly)) ∧
      (∀ n : Nat, n < 8 → t.status.exceptions.linkFault.getLsbD n =
        ((s.row n).isNone && s.status.exceptions.linkFault.getLsbD n &&
          decide ((s.links[n]?).map (·.state) = some .faulted))) ∧
      t.status.exceptions.queueOverflow = decide (t.bus.state = .active ∧ 7 < t.destinations.length) ∧
      t.status.exceptions.positionRange = 0 ∧ t.status.exceptions.carLost = 0 ∧
      t.status.exceptions.moduleFault = 0 ∧
      t.status.exceptions.imageClamped = s.loader.copy.clamped ∧ t.faultPin = true ∧
      (∀ (n : Nat) (row : PanelRow), n < 8 → s.row n = some row →
        t.status.exceptions.showListFault.getLsbD n = row.listFaulted) ∧
      (∀ (n : Nat) (l : LinkRec) (row : PanelRow), s.row n = some row → s.links[n]? = some l →
        t.links[n]? = some (probingFrom l row.width row.lines s.cycle.clock))

/-- A RESTART taken in IMAGE_FAULT keeps the loader and the clock, puts the cycle unit in its reset state and all eight
links in PROBING, and leaves in the record RESTARTED, IMAGE_FAULT and, while the station stays in LISTEN_ONLY, that item; no
link is FAULTED any more (R17, R28, R29, R36, R162, R165). That the station and the links leave their states before the held
items are judged is the model's reading (log 25). -/
def Obligations.RestartInImageFault : Prop :=
  ∀ (s : State) (rx : Rx) (target : Byte), s.receivesFrom rx → s.loader.state = .imageFault →
    s.loader.copy = Image.empty → s.addressed target = true →
    ∃ t, exec (.restart rx target) s = .next t ∧
      t.loader = s.loader ∧
      t.cycle = { clock := s.cycle.clock, base := 0, count := 0, sync := .alone, pendingTempo := false,
                  lastTempo := none, crossed := false, event := none } ∧
      t.bus = { s.bus with
        busFree := false, firstBit := none, queue := [], failCount := if s.validStation then 0 else s.bus.failCount,
        state := if s.validStation then .active else s.bus.state } ∧
      t.status.cause = .restart ∧ t.status.restarts = min 255 (s.status.restarts + 1) ∧ t.status.query = none ∧
      t.status.counters = s.status.counters ∧
      t.status.exceptions = { Exceptions.empty with
        restarted := true, imageFault := s.status.exceptions.imageFault,
        listenOnly := s.status.exceptions.listenOnly && decide (t.bus.state = .listenOnly) } ∧
      (∀ (n : Nat) (l : LinkRec), n < 8 → s.links[n]? = some l → t.links[n]? = some (probingFrom l 8 1 s.cycle.clock)) ∧
      t.cars = s.cars ∧ t.stops = s.stops ∧ t.prompts = s.prompts ∧ t.mode = s.mode ∧ t.schedules = s.schedules

/-! ### Frames received: checks, routing and refusals -/

/-- The checks of R1 decide in their order: a length byte above 16, a truncated frame, the check of R2, the source byte,
the kind, the class and length; a frame that passes is good. The kinds, their classes and permitted lengths are those of
the table, and the payload fields stand at the bytes of 12.1; the check is a register preset to all ones that takes each
byte most significant bit first by x^16 + x^12 + x^5 + 1, and is not inverted (R2). A bad frame is counted once and discarded, and makes the part
ignore the bus when its length byte exceeds 16; a frame of an unknown kind is discarded without counting (R1, R5). That the
bus is not free after a truncated frame, its becoming free being a command of its own, is the model's choice (log 23). -/
def Obligations.FramesAreCheckedInOrder : Prop :=
  (let shift (r : Word16) (bit : Bool) : Word16 := (r <<< 1) ^^^ (if r.msb = bit then 0x0000 else 0x1021)
   crc [] = 0xFFFF ∧
   ∀ (bytes : List Byte) (b : Byte),
    crc (bytes ++ [b]) = [7, 6, 5, 4, 3, 2, 1, 0].foldl (fun r i => shift r (b.getLsbD i)) (crc bytes)) ∧
  (let kinds : List (Nat × Nat × Nat × Nat) :=
    [(1, 0, 3, 3), (2, 0, 2, 2), (3, 0, 1, 1), (8, 1, 2, 2), (16, 2, 9, 9), (17, 2, 6, 6), (24, 3, 4, 16),
     (25, 3, 7, 7), (26, 3, 2, 2), (27, 3, 3, 3), (28, 3, 5, 5), (29, 3, 3, 3), (30, 3, 2, 16)]
   (∀ kind cls least most, (kind, cls, least, most) ∈ kinds → ∀ length,
    kindTable kind length = some (cls, decide (least ≤ length ∧ length ≤ most))) ∧
   ∀ kind length, kind ∉ kinds.map (·.1) → kindTable kind length = none) ∧
  (∀ (a b c d e f g h i : Byte) (stops : List Byte),
    parsePayload 1 [a, b, c] = .buildingMode { mode := a, zones := b, text := c } ∧
    parsePayload 2 [a, b] = .carService a b ∧ parsePayload 3 [a] = .restart a ∧ parsePayload 8 [a, b] = .tempo a b ∧
    parsePayload 16 [a, b, c, d, e, f, g, h, i] = .carMotion
      { car := a, position := b ++ c ++ d, velocity := e ++ f, motion := g, level := h, doors := i } ∧
    parsePayload 17 [a, b, c, d, e, f] = .carStep { car := a, delta := b ++ c, velocity := d ++ e, motion := f } ∧
    parsePayload 24 (a :: b :: c :: d :: stops) =
      .carCalls { car := a, deck := b, seq := c, intent := d, stops := stops } ∧
    parsePayload 25 [a, b, c, d, e, f, g] = .assign
      { keypad := a, ticket := b ++ c, dest := d, car := e, deck := f, accessLang := g } ∧
    parsePayload 26 [a, b] = .withdraw (a ++ b) ∧
    parsePayload 29 [a, b, c] = .statusQuery { target := a, kind := b, clear := c } ∧
    ∀ kind payload, kind = 27 ∨ kind = 28 ∨ kind = 30 → parsePayload kind payload = .sentKind) ∧
  (∀ bytes : List Byte, bytes.length < 3 → verdict bytes = .bad false) ∧
  (∀ (header source length : Byte) (rest : List Byte), 16 < length.toNat →
    verdict (header :: source :: length :: rest) = .bad true) ∧
  (∀ (header source length : Byte) (rest : List Byte), length.toNat ≤ 16 → rest.length < length.toNat + 2 →
    verdict (header :: source :: length :: rest) = .bad false) ∧
  (∀ (header source length c1 c2 : Byte) (payload after : List Byte), payload.length = length.toNat →
    payload.length ≤ 16 →
    let v := verdict (header :: source :: length :: (payload ++ c1 :: c2 :: after))
    let passes := c1 ++ c2 = crc (header :: source :: length :: payload)
    (¬ passes → v = .bad false) ∧
    (passes → (source = 0 ∨ source = 255) → v = .bad false) ∧
    (passes → source ≠ 0 → source ≠ 255 → kindTable (header.toNat % 64) payload.length = none → v = .ignored) ∧
    (∀ cls ok, passes → source ≠ 0 → source ≠ 255 →
      kindTable (header.toNat % 64) payload.length = some (cls, ok) →
      (¬ (header.toNat / 64 = cls ∧ ok = true) → v = .bad false) ∧
      (header.toNat / 64 = cls ∧ ok = true → v = .good source (parsePayload (header.toNat % 64) payload)))) ∧
  (∀ (s : State) (f : RawFrame), s.loader.state ≠ .loading → s.bus.ignoring = false →
    (∀ ig, verdict f.bytes = .bad ig →
      exec (.badFrame f) s = .next { s.count .framesBad with
        bus := { s.bus with busFree := false, firstBit := none, ignoring := ig } }) ∧
    (verdict f.bytes = .ignored → exec (.badFrame f) s = .next s.busy))

/-- A good frame that bears the part's own station number raises STATION_CLASH, sets the transmit failure count to 96 and
silences the station; it is not routed. An ACTIVE station enters LISTEN_ONLY from the state so changed, and the owners of the
frames it discards are told dropped. In LOADING no frame is received; the item is not held (R14, R16). -/
def Obligations.StationClashSilencesThePart : Prop :=
  (∀ (s : State) (c : Instr), s.loader.state ≠ .loading → s.bus.ignoring = false → s.validStation = true →
    ((∃ rx, frameRx c = some rx ∧ rx.source = s.bus.station) ∨
      (∃ f g, c = .stationClash f ∧ verdict f.bytes = .good s.bus.station g)) →
    ∃ t, exec c s = .next t ∧
      t.status.exceptions.stationClash = true ∧ t.bus.failCount = 96 ∧ t.bus.state = .listenOnly ∧
      (let clashed : State := { s with
        bus := { s.bus with
          busFree := false, firstBit := none, failCount := 96, queue := s.bus.queue.map (TxFrame.dropItem .stationClash) },
        status := { s.status with exceptions := { s.status.exceptions with stationClash := true } } }
       (s.bus.state = .active → t = clashed.enterListenOnly ∧ t.bus.queue = [] ∧ t.status.exceptions.listenOnly = true ∧
        t.status.counters =
          { s.status.counters with framesDropped := counted s.status.counters.framesDropped s.bus.queue.length } ∧
        t.cycle.pendingTempo = (s.cycle.pendingTempo && !s.bus.queue.any TxFrame.isTempo) ∧
        t.status.query = (if s.bus.queue.any TxFrame.isOpenReport then none else s.status.query) ∧
        (∀ (line : Nat) (c : Capture), s.mode.captures[line]? = some c → t.mode.captures[line]? = some
          { c with armed := c.armed || s.bus.queue.any (fun g =>
              match g.payload with
              | .sense l _ _ _ => l == line
              | _ => false) })) ∧
       (s.bus.state = .listenOnly → t = clashed)) ∧
      t.loader = s.loader ∧ t.cycle = { s.cycle with pendingTempo := t.cycle.pendingTempo } ∧ t.cars = s.cars ∧
      t.stops = s.stops ∧ t.prompts = s.prompts ∧ t.mode = { s.mode with captures := t.mode.captures } ∧
      t.schedules = s.schedules ∧ t.links = s.links) ∧
  (∀ s : State, s.loader.state = .loading →
    (∀ c rx, frameRx c = some rx → exec c s = .next s.busy) ∧ (∀ f, exec (.stationClash f) s = .next s.busy)) ∧
  (∀ s : State, s.heldItems.stationClash = false)

/-- A frame whose codes are refused counts FIELD_RANGE once, a refused ASSIGN counts ASSIGN_IGNORED once, and neither
changes anything else (R52, R58, R87, R100, R118, R163). -/
def Obligations.RefusedFramesAreCounted : Prop :=
  ∀ (s : State) (rx : Rx),
    (s.hears rx →
      (∀ f : ModeFrame, 5 < f.mode.toNat → exec (.buildingMode rx f) s = .next (s.busy.count .fieldRange)) ∧
      (∀ f : ModeFrame, f.mode = 0 → f.zones.getLsbD s.loader.copy.zone = true →
        s.loader.copy.texts.length ≤ f.text.toNat →
        exec (.buildingMode rx f) s = .next (s.busy.count .fieldRange)) ∧
      (∀ car service slot row, s.knows car slot row → 4 < service.toNat →
        exec (.carService rx car service) s = .next (s.busy.count .fieldRange)) ∧
      (∀ f slot row, s.knows f.car slot row →
        (4 < f.motion.toNat ∨ 3 < f.doors.toNat % 16 ∨ (row.step ≠ 0 ∧ 3 < f.doors.toNat / 16)) →
        exec (.carMotion rx f) s = .next (s.busy.count .fieldRange)) ∧
      (∀ f slot row, s.knows f.car slot row → 4 < f.motion.toNat →
        exec (.carStep rx f) s = .next (s.busy.count .fieldRange)) ∧
      (∀ f slot row, s.knows f.car slot row →
        (1 < f.deck.toNat ∨ (f.deck = 1 ∧ row.step = 0) ∨ 2 < f.intent.toNat) →
        exec (.carCalls rx f) s = .next (s.busy.count .fieldRange)) ∧
      (∀ f : AssignFrame,
        (s.mode.evacuation = true ∨ s.keypadPanel f.keypad = none ∨ s.carSlot f.car = none ∨
          s.loader.copy.landings.length ≤ f.dest.toNat ∨ 4095 < f.ticket.toNat ∨ 2 < f.deck.toNat ∨
          (∃ slot row, s.knows f.car slot row ∧ f.deck = 2 ∧ row.step = 0) ∨
          1 < f.accessLang.toNat % 16 ∨ 1 < f.accessLang.toNat / 16) →
        exec (.assign rx f) s = .next (s.busy.count .assignIgnored))) ∧
    (s.receivesFrom rx → ∀ f : QueryFrame, s.addressed f.target = true →
      (2 < f.kind.toNat ∨ 1 < f.clear.toNat) →
      exec (.statusQuery rx f) s = .next (s.busy.count .fieldRange))

/-- Frames that are not received, not routed, filtered, not for the part's zone, not newer or without an entry to withdraw
change nothing but that the bus is not free (R1, R4, R17, R88, R108, R118). -/
def Obligations.FramesThatChangeNothing : Prop :=
  ∀ s : State,
    (∀ c rx, frameRx c = some rx → (s.loader.state = .loading ∨ s.bus.ignoring = true) → exec c s = .next s.busy) ∧
    (∀ f, (s.loader.state = .loading ∨ s.bus.ignoring = true) →
      exec (.badFrame f) s = .next s.busy ∧ exec (.stationClash f) s = .next s.busy) ∧
    (∀ rx, s.receivesFrom rx →
      (s.loader.state = .imageFault → ∀ c, frameRx c = some rx →
        (∀ count sync, c ≠ .tempo rx count sync) → (∀ target, c ≠ .restart rx target) →
        (∀ f, c ≠ .statusQuery rx f) → exec c s = .next s.busy) ∧
      (∀ target, s.addressed target = false → exec (.restart rx target) s = .next s.busy) ∧
      (∀ f, s.addressed f.target = false → exec (.statusQuery rx f) s = .next s.busy) ∧
      (∀ car service, s.carSlot car = none → exec (.carService rx car service) s = .next s.busy) ∧
      (∀ f, s.carSlot f.car = none → exec (.carMotion rx f) s = .next s.busy) ∧
      (∀ f, s.carSlot f.car = none → exec (.carStep rx f) s = .next s.busy) ∧
      (∀ f, s.carSlot f.car = none → exec (.carCalls rx f) s = .next s.busy)) ∧
    (∀ rx, s.hears rx →
      (∀ f : ModeFrame, f.mode.toNat ≤ 5 → f.zones.getLsbD s.loader.copy.zone = false →
        exec (.buildingMode rx f) s = .next s.busy) ∧
      (∀ f slot row d intent last, s.knows f.car slot row → decodeCallsDeck f.deck = some d →
        ¬ (d = .upper ∧ row.step = 0) → decodeIntent f.intent = some intent →
        ((s.decksOf slot).get d).lastSeq = some last →
        ((f.seq - last).toNat = 0 ∨ 127 < (f.seq - last).toNat) →
        exec (.carCalls rx f) s = .next s.busy) ∧
      (∀ ticket : Word16, (∀ p ∈ s.prompts.pool, p.ticket ≠ ticket.toNat) →
        exec (.withdraw rx ticket) s = .next s.busy))

/-! ### Building modes and cars -/

/-- An applied BUILDING MODE frame changes the record by its code; the level held is the highest that applies. A level
change is taken panel by panel; without one, a notice or evacuation text that is another than before brings a content change
for every panel, and texts that stay bring nothing. A change to level 3 empties the pool, and nothing else touches it; beside
the record only quiet handling, prompts and pages move (R112, R118, R119, R121, R127). The order in which a level change
reaches panels and pool, and what it does to the panels from 2 to 0, are the model's choice (log 13, log 35). -/
def Obligations.BuildingModeChangesTheRecord : Prop :=
  ∀ (s : State) (rx : Rx) (f : ModeFrame), s.hears rx → f.mode.toNat ≤ 5 →
    f.zones.getLsbD s.loader.copy.zone = true →
    ¬ (f.mode = 0 ∧ s.loader.copy.texts.length ≤ f.text.toNat) →
    ∃ t, exec (.buildingMode rx f) s = .next t ∧
      t.mode.evacuation = (if f.mode = 1 then true else if f.mode = 2 then false else s.mode.evacuation) ∧
      t.mode.evacText = (if f.mode = 1 then
          (if f.text.toNat < s.loader.copy.texts.length then some f.text.toNat else none)
        else if f.mode = 2 then none else s.mode.evacText) ∧
      t.mode.night = (if f.mode = 3 then true else if f.mode = 4 then false else s.mode.night) ∧
      (let claim : Claim := { source := rx.source, text := f.text.toNat, expiry := s.cycle.clock + 10000 }
       t.mode.claims = (if f.mode = 0 then
          (if s.mode.claims.any (fun x => x.source == rx.source) then
            s.mode.claims.map (fun x => if x.source = rx.source then claim else x)
           else if s.mode.claims.length < 4 then s.mode.claims ++ [claim]
           else s.mode.claims.drop 1 ++ [claim])
        else if f.mode = 5 then s.mode.claims.filter (fun x => x.source != rx.source) else s.mode.claims)) ∧
      t.mode.level = (if t.mode.evacuation then .evacuate else if t.mode.claims ≠ [] then .notice
        else if t.mode.night then .night else .normal) ∧
      (t.mode.level = .evacuate → s.mode.level ≠ .evacuate → t.prompts.pool = []) ∧
      (t.mode.level ≠ .evacuate ∨ s.mode.level = .evacuate → t.prompts.pool = s.prompts.pool) ∧
      s.levelTaken t ∧
      (let recorded : State := { s.busy with
         mode := { s.mode with
           evacuation := t.mode.evacuation, evacText := t.mode.evacText, night := t.mode.night, claims := t.mode.claims },
         status := { s.status with counters := { s.status.counters with
           fieldRange := if f.mode = 1 ∧ s.loader.copy.texts.length ≤ f.text.toNat
             then counted s.status.counters.fieldRange 1 else s.status.counters.fieldRange } } }
       let texts := t.mode.claims.getLast?.map (·.text) = s.mode.claims.getLast?.map (·.text) ∧
         t.mode.evacText = s.mode.evacText
       (t.mode.level ≠ s.mode.level → t = recorded.levelChanged s.mode.level t.mode.level) ∧
       (t.mode.level = s.mode.level → ¬ texts → t = recorded.contentChanges s.panelIds) ∧
       (t.mode.level = s.mode.level → texts → t = recorded) ∧
       t = { recorded with mode := { recorded.mode with level := t.mode.level } }.promptsMoved t)

/-- A CAR SERVICE frame sets the service state and nothing else of the record, and the next state is that of one car state
change event of the old and new records; one that leaves NORMAL converts the car's SHOWN and BOARDING entries to REASSIGN with
the reassign hold, and no stop is removed; one that repeats the state changes nothing (R58, R64, R90, R111). -/
def Obligations.CarServiceSetsTheState : Prop :=
  ∀ (s : State) (rx : Rx) (car service : Byte) (slot : Nat) (row : CarRow) (st : Service),
    s.hears rx → s.knows car slot row → decodeService service = some st →
    (st = (s.carRec slot).service → exec (.carService rx car service) s = .next s.busy) ∧
    (st ≠ (s.carRec slot).service → ∃ t, exec (.carService rx car service) s = .next t ∧
      t.cars = s.cars.set slot { s.carRec slot with service := st } ∧
      t.prompts.pool = s.prompts.pool.map (fun p =>
        if (s.carRec slot).service = .normal ∧ p.slot = slot ∧ p.state ≠ .reassign then
          { p with state := .reassign,
                   expiry := s.cycle.clock + BitVec.ofNat 32 (s.holdOf p.panel .reassign p.access) }
        else p) ∧
      t.stops.decks = s.stops.decks ∧
      (let moved : State := { s.busy with cars := t.cars }
       moved.eventTaken slot row (s.decksOf slot).upper.intent (s.carRec slot) { s.carRec slot with service := st } t ∧
       t = moved.carMoved t))

/-- A CAR MOTION frame is stored whole: decoded fields, a VALID anchor, the arrival mark read at the frame's first bit and
the heard flag; an UNKNOWN car takes the state of its silence count; only a TRACKED car is evaluated, with the level report
while it is PARKED or LEVELLING, LEVEL_DISAGREE being counted exactly when the window of the reported level does not hold the
position clamped to the served span; the indication timer starts, runs on or stops. The next state is that of one car state
change event of the old and new records, taken when an item of R64 changed, and the stored state otherwise; its arrivals
remove stops and board, reassign or remove prompts (R3, R52, R53, R63 to R66, R70, R72, R78 to R82, R90, R109 to R111).
That a frame whose first bit was not brought takes the clock at its end as its mark is the model's choice (log 5). -/
def Obligations.CarMotionIsStored : Prop :=
  ∀ (s : State) (rx : Rx) (f : MotionFrame) (slot : Nat) (row : CarRow) (m : Motion) (lower upper : Door),
    s.hears rx → s.knows f.car slot row → decodeMotion f.motion = some m →
    decodeDoor (f.doors.toNat % 16) = some lower →
    (if row.step = 0 then upper = .closed else decodeDoor (f.doors.toNat / 16) = some upper) →
    let old := s.carRec slot
    let inRange := row.lo ≤ f.level.toNat ∧ f.level.toNat ≤ row.hi
    let mark : Clock := s.bus.firstBit.getD s.cycle.clock
    let stored : CarRec := { old with
      pos := min 1048575 f.position.toNat, vel := max (-16000) (min 16000 f.velocity.toInt), motion := m,
      level := if f.level ≠ 255 ∧ inRange then some f.level.toNat else none,
      doorLower := lower, doorUpper := upper, anchor := true, mark := mark, heard := true,
      tracking := if old.tracking = .unknown then (if old.silence ≤ 2 then .tracked else .stale) else old.tracking }
    let evaluated : CarRec :=
      if stored.tracking = .tracked then
        stored.evaluated s.loader.copy row (s.decksOf slot).lower.intent 0 stored.level
      else stored
    let timer : Option Clock := if stored.tracking = .tracked ∧ (m = .runningUp ∨ m = .runningDown) then
      some (old.timer.getD (mark + 100)) else none
    let r : CarRec := { evaluated with timer := timer }
    let position : Int := max (s.loader.copy.height row.lo : Int) (min (s.loader.copy.height row.hi : Int) stored.pos)
    let inWindow (l : Nat) : Prop := (∀ i, row.lo ≤ i → i < l → (s.loader.copy.boundary i : Int) ≤ position) ∧
      (l < row.hi → position < (s.loader.copy.boundary l : Int))
    let disagrees : Prop := stored.tracking = .tracked ∧ (m = .parked ∨ m = .levelling) ∧
      ∃ l, stored.level = some l ∧ ¬ inWindow l
    ∃ t, exec (.carMotion rx f) s = .next t ∧ t.cars = s.cars.set slot r ∧
      (stored.tracking = .tracked →
        r.q = some (switching s.loader.copy row stored 0) ∧
        r.arrow = (if m = .runningUp then .up else if m = .runningDown then .down else if m = .inspection then .none
          else (s.decksOf slot).lower.intent) ∧
        (m = .parked ∨ m = .levelling → ∀ l, stored.level = some l → r.indicated = some l)) ∧
      t.stops.decks = s.stops.decks.modify slot (fun ds => ds.arrived (arrivalsOf row old r)) ∧
      t.prompts.pool = s.prompts.pool.filterMap (s.promptAfter row slot old r) ∧
      (disagrees → t.status.counters.levelDisagree = counted s.status.counters.levelDisagree 1) ∧
      (¬ disagrees → t.status.counters.levelDisagree = s.status.counters.levelDisagree) ∧
      (let whole : State := { s.busy with
         cars := t.cars,
         status := { s.status with counters := { s.status.counters with
           levelDisagree := t.status.counters.levelDisagree,
           fieldRange := counted s.status.counters.fieldRange
             ((if 1048575 < f.position.toNat then 1 else 0) + (if f.level ≠ 255 ∧ ¬ inRange then 1 else 0)) } } }
       whole.eventTaken slot row (s.decksOf slot).upper.intent old r t ∧ t = whole.carMoved t)

/-- A CAR STEP taken with a VALID anchor moves the position by the delta and is evaluated for a TRACKED car; a sum outside
0..1,048,575 is clamped, makes the anchor INVALID, stops the timer, keeps the indication and raises POSITION_RANGE for the
slot. The next state is that of one car state change event of the old and new records, taken when an item of R64 changed. One taken while the anchor is INVALID is not applied: UNANCHORED_STEPS is counted once, the heard flag is set, and
nothing else changes, in every tracking state (R3, R52, R54 to R57, R64 to R66, R90, R109, R110). That a frame whose first bit was not
brought takes the clock at its end as its mark is the model's choice (log 5). -/
def Obligations.CarStepMovesThePosition : Prop :=
  (∀ (s : State) (rx : Rx) (f : StepFrame) (slot : Nat) (row : CarRow) (m : Motion),
    s.hears rx → s.knows f.car slot row → decodeMotion f.motion = some m → (s.carRec slot).anchor = true →
    let old := s.carRec slot
    let sum : Int := (old.pos : Int) + f.delta.toInt
    let mark : Clock := s.bus.firstBit.getD s.cycle.clock
    let stepped (pos : Nat) : CarRec := { old with
      pos := pos, vel := max (-16000) (min 16000 f.velocity.toInt), motion := m, mark := mark, heard := true }
    let evaluated : CarRec :=
      if old.tracking = .tracked then
        (stepped sum.toNat).evaluated s.loader.copy row (s.decksOf slot).lower.intent 0 none
      else stepped sum.toNat
    let timer : Option Clock := if old.tracking = .tracked ∧ (m = .runningUp ∨ m = .runningDown) then
      some (old.timer.getD (mark + 100)) else none
    let r : CarRec :=
      if 0 ≤ sum ∧ sum ≤ 1048575 then { evaluated with timer := timer }
      else { stepped (if sum < 0 then 0 else 1048575) with anchor := false, timer := none }
    ∃ t, exec (.carStep rx f) s = .next t ∧ t.cars = s.cars.set slot r ∧
      t.stops.decks = s.stops.decks.modify slot (fun ds => ds.arrived (arrivalsOf row old r)) ∧
      t.prompts.pool = s.prompts.pool.filterMap (s.promptAfter row slot old r) ∧
      (let moved : State := { s.busy with cars := t.cars }
       let upper := (s.decksOf slot).upper.intent
       let clamped := moved.raise (.positionRange slot)
       clamped.status = { s.status with exceptions := { s.status.exceptions with
         positionRange := s.status.exceptions.positionRange ||| BitVec.ofNat 16 (2 ^ slot) } } ∧
       (0 ≤ sum → sum ≤ 1048575 → moved.eventTaken slot row upper old r t ∧ t = moved.carMoved t) ∧
       (sum < 0 ∨ 1048575 < sum → clamped.eventTaken slot row upper old r t ∧ t = clamped.carMoved t))) ∧
  (∀ (s : State) (rx : Rx) (f : StepFrame) (slot : Nat) (row : CarRow),
    s.hears rx → s.knows f.car slot row → f.motion.toNat ≤ 4 → (s.carRec slot).anchor = false →
    exec (.carStep rx f) s = .next
      { s.busy.count .unanchoredSteps with cars := s.cars.set slot { s.carRec slot with heard := true } })

/-- A boundary is half the sum of two heights, truncated, and the candidate is the landing of lo..hi whose window holds Q.
Q is the lead stage of the extrapolated position: V' is V while the car runs and V does not point the other way, and 0
otherwise; D is V' A / 1000 truncated toward zero; E is P + D clamped to the served span; G, of a running car only, is
|V'| Tlead / 1000 truncated, at most Gmax; and Q is E + G in RUNNING_UP, E - G in RUNNING_DOWN and else E, clamped to the span
again. An evaluation without a level report takes the
candidate where there is no indication, and otherwise moves to it only when Q has gone the hysteresis into its window and the
car does not run the other way; a running car's indication never moves against its direction. It shows each deck's label by
the flags of its landing and the deck's label memory, and touches no field beside indication, arrow, Q and labels (R70 to
R77, R79 to R82). -/
def Obligations.IndicationFollowsTheRun : Prop :=
  (∀ (c : Image) (i : Nat), c.boundary i = (c.height i + c.height (i + 1)) / 2 ∧
    ∀ l, c.landings[i]? = some l → c.height i = l.height) ∧
  (∀ (c : Image) (row : CarRow) (q : Int), row.lo ≤ row.hi → ∀ k,
    candidate c row q = k ↔ row.lo ≤ k ∧ k ≤ row.hi ∧
      (∀ i, row.lo ≤ i → i < k → (c.boundary i : Int) ≤ q) ∧ (k < row.hi → q < (c.boundary k : Int))) ∧
  (∀ (c : Image) (row : CarRow) (r : CarRec) (age : Nat), c.height row.lo ≤ c.height row.hi →
    let low : Int := c.height row.lo
    let high : Int := c.height row.hi
    let inSpan (x : Int) : Int := if x < low then low else if high < x then high else x
    let velocity : Int := if (r.motion = .runningUp ∧ 0 ≤ r.vel) ∨ (r.motion = .runningDown ∧ r.vel ≤ 0) then r.vel else 0
    let position : Int := inSpan (r.pos + (velocity * age).tdiv 1000)
    let lead : Int := min c.gmax (velocity.natAbs * c.tlead / 1000)
    switching c row r age = inSpan
      (if r.motion = .runningUp then position + lead else if r.motion = .runningDown then position - lead else position) ∧
    low ≤ switching c row r age ∧ switching c row r age ≤ high) ∧
  (∀ (c : Image) (row : CarRow) (intent : Dir) (age : Nat) (report : Option Nat) (r : CarRec) (k : Nat),
    r.indicated = some k →
    (r.motion = .runningUp → ∃ x, (r.evaluated c row intent age report).indicated = some x ∧ k ≤ x) ∧
    (r.motion = .runningDown → ∃ x, (r.evaluated c row intent age report).indicated = some x ∧ x ≤ k)) ∧
  (∀ (c : Image) (row : CarRow) (intent : Dir) (age : Nat) (report : Option Nat) (r : CarRec),
    let q := switching c row r age
    let cand := candidate c row q
    let r' := r.evaluated c row intent age report
    let atRest := r.motion = .parked ∨ r.motion = .levelling
    (∀ l, atRest → report = some l → r'.indicated = some l) ∧
    (¬ atRest ∨ report = none →
      (r.indicated = none → r'.indicated = some cand) ∧
      (∀ cur, r.indicated = some cur →
        (cand = cur → r'.indicated = some cur) ∧
        (cur < cand → r'.indicated = some
          (if (c.boundary (cand - 1) : Int) + c.hyst ≤ q ∧ r.motion ≠ .runningDown then cand else cur)) ∧
        (cand < cur → r'.indicated = some
          (if q < (c.boundary cand : Int) - c.hyst ∧ r.motion ≠ .runningUp then cand else cur)))) ∧
    (∀ x, r'.indicated = some x →
      (∃ label, r'.labelLower = some label ∧ c.showsLabel x r.labelLower label) ∧
      (row.step = 0 → r'.labelUpper = r.labelUpper) ∧
      (row.step ≠ 0 → ∃ label, r'.labelUpper = some label ∧ c.showsLabel (x + row.step) r.labelUpper label)) ∧
    r' = { r with indicated := r'.indicated, q := some q, labelLower := r'.labelLower, labelUpper := r'.labelUpper,
                  arrow := if r.motion = .runningUp then .up else if r.motion = .runningDown then .down
                    else if r.motion = .inspection then .none else intent })

/-- A car state change event: each deck that is level with its doors opening or open, and was not before, arrives. The
wakes are taken first (R124, R125): below level 3 an arrival makes AWAKE, with the timer one quiet time ahead, every LOBBY
panel at its landing that lists the car and every DESTINATION panel there, a departure every CAR panel of the car, a deck's
door turning OPENING every CAR panel of car and deck, and a lantern's announcement or arrival its own panel; no other quiet
record changes, and no lamp test. An arrival then removes the landing from the deck's stop set with a content change for its
CAR panels; every lantern record of the car is evaluated, and no other; each prompt entry of the car is removed while
BOARDING at a departure, converted to REASSIGN when the car becomes LOST or leaves NORMAL service, and boarded, or its
boarding hold restarted, by a matching arrival, and each panel that had such an entry is reported (R65, R90, R93, R109 to
R111). A change of indicated landing, arrow, tracking or service state brings a content change for every panel of the car
panel map: LOBBY and LANTERN panels that list the car, CAR panels that name it, every DESTINATION panel (R24, R66). The order
after the wakes and among the panels, and the content change for the upper deck's arrow alone, are the model's (log 10, log
11, log 17); a free value decides between two decks that hold a lantern at rest (log 9). -/
def Obligations.CarEventsActOnStopsAndPrompts : Prop :=
  ∀ (s : State) (slot : Nat) (row : CarRow) (old new : CarRec), s.loader.copy.cars[slot]? = some row →
    let opened (r : CarRec) (d : Deck) (l : Nat) : Prop :=
      (r.motion = .parked ∨ r.motion = .levelling) ∧ (r.door d = .opening ∨ r.door d = .opened) ∧
      ∃ k, r.level = some k ∧ ((d = .lower ∧ l = k) ∨ (d = .upper ∧ row.step ≠ 0 ∧ l = k + row.step))
    let running (r : CarRec) : Prop := r.motion = .runningUp ∨ r.motion = .runningDown
    let departs := ¬ running old ∧ running new
    let unfit := (old.tracking ≠ .lost ∧ new.tracking = .lost) ∨ (old.service = .normal ∧ new.service ≠ .normal)
    let arrivals := arrivalsOf row old new
    let boards (p : Prompt) : Prop := ∃ d prow, (p.deck = some d ∨ p.deck = none) ∧ s.row p.panel = some prow ∧
      prow.kind = .destination ∧ (d, prow.landing) ∈ arrivals
    let held (p : Prompt) (st : PromptState) : Prompt := { p with
      state := st, expiry := s.cycle.clock + BitVec.ofNat 32 (s.holdOf p.panel st p.access) }
    let touched (p : Prompt) : Prop := p.slot = slot ∧
      ((departs ∧ p.state = .boarding) ∨ (unfit ∧ p.state ≠ .reassign) ∨ (boards p ∧ p.state ≠ .reassign))
    let woken (prow : PanelRow) : Prop :=
      (prow.kind = .lobby ∧ slot ∈ prow.cars ∧ ∃ d, (d, prow.landing) ∈ arrivals) ∨
      (prow.kind = .destination ∧ ∃ d, (d, prow.landing) ∈ arrivals) ∨
      (prow.kind = .car ∧ prow.slot = slot ∧
        (departs ∨ (old.door prow.deck ≠ .opening ∧ new.door prow.deck = .opening)))
    let shows (prow : PanelRow) : Prop :=
      ((prow.kind = .lobby ∨ prow.kind = .lantern) ∧ slot ∈ prow.cars) ∨ (prow.kind = .car ∧ prow.slot = slot) ∨
      prow.kind = .destination
    let view (decks : CarDecks) (prow : PanelRow) (choice : Bool) : LanternView :=
      { copy := s.loader.copy, landing := prow.landing, car := row, carRec := s.carRec slot, decks := decks,
        now := s.cycle.clock, linger := (s.timing prow).linger, openUpper := choice }
    let move (decks : CarDecks) (prow : PanelRow) (choice : Bool) (r : Lantern) : LanternMove :=
      (view decks prow choice).evaluate (arrivalAt prow.landing arrivals) r
    let arrived := (s.decksOf slot).arrived arrivals
    let panels (p : Nat → PanelRow → Prop) (ids : List Nat) : Prop :=
      ids.Pairwise (· < ·) ∧ ∀ n, n ∈ ids ↔ ∃ prow, s.row n = some prow ∧ p n prow
    (∀ d l, ((d, l) ∈ arrivals ↔ opened new d l ∧ ¬ opened old d l) ∧
      (arrivalAt l arrivals = some d ↔ (d, l) ∈ arrivals)) ∧
    (∀ d l, let left := { s.stops with decks := s.stops.decks.modify slot (fun ds => ds.arrive d l) }
      (l ∈ ((s.decksOf slot).get d).stops → ∃ ids,
        panels (fun _ prow => prow.kind = .car ∧ prow.slot = slot ∧ prow.deck = d) ids ∧
        s.removeStop slot d l = ids.foldl (fun (u : State) n => u.contentChange n) { s with stops := left }) ∧
      (l ∉ ((s.decksOf slot).get d).stops → s.removeStop slot d l = s)) ∧
    (∀ (place : Nat) (r : Lantern) (prow : PanelRow), s.stops.lanterns[place]? = some r → s.row r.panel = some prow →
      let t := s.evaluateLantern row slot arrivals place
      (r.slot ≠ slot → t = s) ∧
      (r.slot = slot → ∃ choice free, (free = s.free ∨ free = s.free + 1) ∧
        t = ({ s with free := free } : State).applyMove place (move (s.decksOf slot) prow choice r))) ∧
    (∀ p : Prompt, let after := s.promptAfter row slot old new p
      (p.slot ≠ slot → after = some p) ∧
      (p.slot = slot → departs → p.state = .boarding → after = none) ∧
      (p.slot = slot → ¬ (departs ∧ p.state = .boarding) →
        (unfit → p.state ≠ .reassign → after = some (held p .reassign)) ∧
        (¬ unfit → boards p → p.state ≠ .reassign → after = some (held p .boarding)) ∧
        (¬ unfit → ¬ boards p → after = some p) ∧
        (p.state = .reassign → after = some p))) ∧
    (∀ arrows : Bool, let t := s.raiseCarEvent slot old new arrows
      (∃ wakes told shown : List Nat, panels (fun _ prow => woken prow) wakes ∧
        panels (fun n _ => ∃ p ∈ s.prompts.pool, p.panel = n ∧ touched p) told ∧
        panels (fun _ prow => shows prow) shown ∧
        let left := arrivals.foldl (fun (u : State) a => u.removeStop slot a.1 a.2)
          (wakes.foldl (fun (u : State) n => u.wake n) s)
        let lit := (List.range s.stops.lanterns.length).foldl
          (fun (u : State) place => u.evaluateLantern row slot arrivals place) left
        let moved : State := { lit with
          prompts := { lit.prompts with pool := s.prompts.pool.filterMap (s.promptAfter row slot old new) } }
        let reported := told.foldl (fun (u : State) n => u.reportList none n) moved
        let differs := old.indicated ≠ new.indicated ∨ old.arrow ≠ new.arrow ∨ old.tracking ≠ new.tracking ∨
          old.service ≠ new.service ∨ arrows = true
        (differs → t = shown.foldl (fun (u : State) n => u.contentChange n) reported) ∧
        (¬ differs → t = reported)) ∧
      t = s.carMoved t ∧ t.mode.lamps = s.mode.lamps ∧
      (∀ (n : Nat) (prow : PanelRow) (q : QuietRec), s.row n = some prow → s.mode.quiet[n]? = some q →
        let lights := ∃ r ∈ s.stops.lanterns, r.slot = slot ∧ r.panel = n ∧
          ∃ choice, (move arrived prow choice r).wake = true
        let timer : Clock := s.cycle.clock + BitVec.ofNat 32 ((s.timing prow).quiet * 1000)
        (s.mode.level ≠ .evacuate → woken prow ∨ lights →
          t.mode.quiet[n]? = some { state := .awake, timer := some timer }) ∧
        (s.mode.level = .evacuate ∨ ¬ (woken prow ∨ lights) → t.mode.quiet[n]? = some q)) ∧
      t.stops.decks = s.stops.decks.modify slot (fun ds => ds.arrived arrivals) ∧
      t.prompts.pool = s.prompts.pool.filterMap (s.promptAfter row slot old new) ∧
      (∀ (place : Nat) (r : Lantern), s.stops.lanterns[place]? = some r → r.slot ≠ slot →
        t.stops.lanterns[place]? = some r) ∧
      (∀ (place : Nat) (r : Lantern) (prow : PanelRow), s.stops.lanterns[place]? = some r → r.slot = slot →
        s.row r.panel = some prow → ∃ choice, t.stops.lanterns[place]? = some (move arrived prow choice r).record))

/-- What one evaluation of a lantern record does (R92 to R97): the record of a car that is not TRACKED is DARK; an arrival
opens it, with a wake from DARK alone, and a chime from DARK and from an ANNOUNCED record whose direction changes; a
qualifying deck announces a DARK record with wake and chime; an
ANNOUNCED record holds or goes DARK; an OPEN record follows its serving deck, lingers when its doors close, or goes DARK;
a LINGER record stays while its serving deck is level. That an evaluation makes one move, so that a record it takes to DARK
is DARK after it even where a deck qualifies, is the model's choice (log 33), and so is that a record which a linger expiry
has taken to DARK is announced at the departure that follows where a deck qualifies (log 39). Direction and serving deck on going DARK from OPEN or LINGER, or as
the car leaves TRACKED, are the model's choice (log 30); the deck that serves at rest when both hold is a free value (log
9). -/
def Obligations.LanternsFollowTheirCars : Prop :=
  ∀ (v : LanternView) (r : Lantern),
    let up := v.carRec.motion = .runningUp
    let down := v.carRec.motion = .runningDown
    let atRest := v.carRec.motion = .parked ∨ v.carRec.motion = .levelling
    let isNext (d : Deck) : Prop := nextStop v.car v.carRec v.decks d = some v.landing ∧ (d = .upper → v.car.step ≠ 0)
    let toward (d : Deck) : Prop := ∃ k, v.carRec.indicatedOf v.car d = some k ∧
      ((up ∧ k ≤ v.landing) ∨ (down ∧ v.landing ≤ k))
    let height (d : Deck) : Int := v.copy.height (if d = .lower then v.landing else v.landing - v.car.step)
    let qualifies (d : Deck) : Prop := isNext d ∧ toward d ∧
      ∃ q, v.carRec.q = some q ∧ (height d - q).natAbs ≤ v.copy.announce
    let holds := (isNext .lower ∨ isNext .upper) ∧ ∀ d, isNext d → atRest ∨ toward d
    let first (d : Deck) : Prop := (d = .upper ∧ up) ∨ (d = .lower ∧ down)
    let dir (d : Deck) : Dir := (v.decks.get d).intent
    let level (d : Deck) : Prop := v.carRec.levelAt v.car d = some v.landing
    let dark : LanternMove :=
      { record := { r with state := .dark, dir := .none, deck := none, linger := none }, wake := false, chime := false,
        changed := true }
    let stays : LanternMove := { record := r, wake := false, chime := false, changed := false }
    let follows (d : Deck) : LanternMove :=
      let moved : Lantern := { r with dir := dir d, deck := some d }
      { record := moved, wake := false, chime := decide (dir d ≠ r.dir), changed := decide (moved ≠ r) }
    let opens (d : Deck) : LanternMove :=
      let moved : Lantern := { r with state := .open_, dir := dir d, deck := some d, linger := none }
      { record := moved, wake := decide (r.state = .dark),
        chime := decide (r.state = .dark ∨ (r.state = .announced ∧ dir d ≠ r.dir)),
        changed := decide (r.state ≠ .open_ ∨ moved ≠ r) }
    (v.carRec.tracking ≠ .tracked → ∀ arrival, v.evaluate arrival r = if r.state = .dark then stays else dark) ∧
    (v.carRec.tracking = .tracked →
      (∀ d, v.evaluate (some d) r = opens d) ∧
      (r.state = .dark →
        (∀ d, qualifies d → ((∀ e, qualifies e → e = d) ∨ first d) → v.evaluate none r =
          { record := { r with state := .announced, dir := dir d, deck := some d, linger := none }, wake := true,
            chime := true, changed := true }) ∧
        ((∀ d, ¬ qualifies d) → v.evaluate none r = stays)) ∧
      (r.state = .announced →
        (∀ d, holds → isNext d → ((∀ e, isNext e → e = d) ∨ first d) → v.evaluate none r = follows d) ∧
        (holds → (∀ d, isNext d) → atRest → ∃ d, v.evaluate none r = follows d) ∧
        (¬ holds → v.evaluate none r = dark)) ∧
      (r.state = .open_ →
        (∀ d, r.deck = some d → level d → v.carRec.door d ≠ .closed → v.evaluate none r = follows d) ∧
        (∀ d, r.deck = some d → level d → v.carRec.door d = .closed → v.linger ≠ 0 → v.evaluate none r =
          { record := { r with state := .linger, linger := some (v.now + BitVec.ofNat 32 v.linger) }, wake := false,
            chime := false, changed := true }) ∧
        (∀ d, r.deck = some d → level d → v.carRec.door d = .closed → v.linger = 0 → v.evaluate none r = dark) ∧
        (∀ d, r.deck = some d → ¬ level d → v.evaluate none r = dark)) ∧
      (r.state = .linger →
        (∀ d, r.deck = some d → level d → v.evaluate none r = stays) ∧
        (∀ d, r.deck = some d → ¬ level d → v.evaluate none r = dark)))

/-- A CAR CALLS frame that is newer than the deck's last sequence replaces the deck's stop set, intent and last sequence;
landings outside the served range are dropped and counted. A changed intent that changes an arrow of a TRACKED, anchored car
at rest, the record's or the derived upper one, raises the car state change event with its content changes. When the intent
or the set is another than before, the CAR panels of the car and deck take a content change, and then every lantern record of
the car is evaluated, and no other (that order is the model's choice, log 11). No other deck, no other field of a car record
and no prompt changes (R66, R83, R86 to R89, R93). -/
def Obligations.CarCallsReplaceTheStopSet : Prop :=
  ∀ (s : State) (rx : Rx) (f : CallsFrame) (slot : Nat) (row : CarRow) (d : Deck) (intent : Dir),
    s.hears rx → s.knows f.car slot row → decodeCallsDeck f.deck = some d → ¬ (d = .upper ∧ row.step = 0) →
    decodeIntent f.intent = some intent →
    let old := (s.decksOf slot).get d
    let car := s.carRec slot
    (∀ last, old.lastSeq = some last → 1 ≤ (f.seq - last).toNat ∧ (f.seq - last).toNat ≤ 127) →
    ∃ (t : State) (stops : List Nat), exec (.carCalls rx f) s = .next t ∧
      (∀ l, l ∈ stops ↔ ∃ b : Byte, b ∈ f.stops ∧ b.toNat = l ∧ row.serves d l = true) ∧
      stops.Pairwise (· < ·) ∧
      t.stops.decks = s.stops.decks.modify slot (fun ds =>
        ds.set d { stops := stops, intent := intent, lastSeq := some f.seq }) ∧
      (let turns := old.intent ≠ intent ∧ car.tracking = .tracked ∧ car.anchor = true ∧ car.motion.atRest = true ∧
         slot < s.stops.decks.length
       let turned : CarRec := { car with arrow := if d = .lower ∧ turns then intent else car.arrow }
       t.cars = s.cars.set slot turned ∧
       t.prompts.pool = s.prompts.pool ∧
       (let replaced : State := { s.busy with
          cars := t.cars, stops := { s.stops with decks := t.stops.decks },
          status := { s.status with counters := { s.status.counters with
            fieldRange := counted s.status.counters.fieldRange
              (f.stops.filter (fun b : Byte => !row.serves d b.toNat)).length } } }
        let panels := s.panelIds.filter (fun n => (s.row n).any (fun p =>
          p.kind == .car && p.slot == slot && p.deck == d))
        let told : State := if turns ∧ (d = .upper ∨ car.arrow ≠ intent)
          then replaced.raiseCarEvent slot car turned true else replaced
        (old.intent = intent → old.stops = stops → t = replaced) ∧
        (old.intent ≠ intent ∨ old.stops ≠ stops →
          t = (told.contentChanges panels).evaluateLanterns slot [] ∧
          (∀ (place : Nat) (r : Lantern), told.stops.lanterns[place]? = some r → r.slot ≠ slot →
            t.stops.lanterns[place]? = some r) ∧
          (∀ (place : Nat) (r : Lantern) (prow : PanelRow), told.stops.lanterns[place]? = some r → r.slot = slot →
            s.row r.panel = some prow →
            let view (choice : Bool) : LanternView :=
              { copy := s.loader.copy, landing := prow.landing, car := row, carRec := turned,
                decks := t.decksOf slot, now := s.cycle.clock, linger := (s.timing prow).linger,
                openUpper := choice }
            ∃ choice, t.stops.lanterns[place]? = some ((view choice).evaluate none r).record)) ∧
        t = replaced.carMoved t))

/-! ### Prompts -/

/-- An ASSIGN is placed exactly when none of the tests of R100 refuses it, with its fields decoded: the evacuation latch is
clear, the keypad has a panel and the car a slot in the maps of the copy, the destination lies below the landing count, the
ticket is at most 4095, the deck code is NONE, LOWER or, for a car with a deck step, UPPER, and access flag and language carry
0 or 1. It merges into an entry of the same panel, destination, car and deck. A placed ASSIGN drops the entry with its ticket and then merges into the entry of its destination, car and deck, or
makes a new entry, evicting one when there is no room; the entry stands last, in the state its car calls for, with its
hold started. Each panel whose list changed, and no other, is reported: its list change brings the wake of the panel the
ASSIGN was placed on, the content change and the recomputation of its load level, reported when it changes; the next state is
that and nothing else. A panel below 12 entries in a pool below 48 loses none; else the oldest SHOWN entry without the access flag goes,
or the oldest, of the panel's list, or of the whole pool when that list is empty (R24, R100 to R106, R113, R114, R125). That
several panels are reported in ascending order is the model's choice (log 10). -/
def Obligations.AssignIsPlaced : Prop :=
  (∀ (s : State) (f : AssignFrame) (a : Placed),
    s.testAssign f = some a ↔
      s.mode.evacuation = false ∧ s.keypadPanel f.keypad = some a.panel ∧ s.carSlot f.car = some a.slot ∧
      f.dest.toNat < s.loader.copy.landings.length ∧ f.ticket.toNat ≤ 4095 ∧
      ((f.deck = 0 ∧ a.deck = none) ∨ (f.deck = 1 ∧ a.deck = some .lower) ∨
        (f.deck = 2 ∧ a.deck = some .upper ∧ ∃ row, s.carRow a.slot = some row ∧ row.step ≠ 0)) ∧
      f.accessLang.toNat % 16 = (if a.access then 1 else 0) ∧
      f.accessLang.toNat / 16 = (if a.lang = .secondary then 1 else 0) ∧
      a.ticket = f.ticket.toNat ∧ a.dest = f.dest.toNat) ∧
  (∀ (s : State) (keypad : Byte) (n : Nat),
    let serves (k : Nat) : Prop := ∃ row, s.row k = some row ∧ row.kind = .destination ∧ keypad ∈ row.keypads
    s.keypadPanel keypad = some n ↔ serves n ∧ ∀ k, k < n → ¬ serves k) ∧
  (∀ (s : State) (car : Byte) (slot : Nat),
    let carries (k : Nat) : Prop := ∃ row, s.carRow k = some row ∧ row.number = car.toNat
    s.carSlot car = some slot ↔ carries slot ∧ ∀ k, k < slot → ¬ carries k) ∧
  (∀ (a : Placed) (p : Prompt), a.mergesWith p = true ↔
    p.panel = a.panel ∧ p.dest = a.dest ∧ p.slot = a.slot ∧ p.deck = a.deck) ∧
  (∀ (s : State) (rx : Rx) (f : AssignFrame) (a : Placed) (row : PanelRow),
    s.hears rx → s.testAssign f = some a → s.row a.panel = some row →
    let pool := s.prompts.pool.filter (fun p => p.ticket != a.ticket)
    let replaced := (s.prompts.pool.filter (fun p => p.ticket == a.ticket)).map (·.panel)
    let car := s.carRec a.slot
    let st : PromptState :=
      if (car.tracking = .tracked ∨ car.tracking = .stale) ∧ car.service = .normal then .shown else .reassign
    let hold (access : Bool) : Nat :=
      if st = .reassign then (s.timing row).reassignHold
      else if access then min 60000 (2 * (s.timing row).promptHold) else (s.timing row).promptHold
    let fresh : Prompt :=
      { panel := a.panel, ticket := f.ticket.toNat, dest := f.dest.toNat, slot := a.slot, deck := a.deck,
        access := a.access, lang := a.lang, state := st,
        expiry := s.cycle.clock + BitVec.ofNat 32 (hold a.access), merges := 1 }
    let reported (u t : State) (panels : List Nat) : Prop :=
      let changed := s.panelIds.filter panels.contains
      t = changed.foldl (fun (v : State) n => v.reportList (some a.panel) n)
        { u with prompts := { u.prompts with pool := t.prompts.pool } } ∧
      s.levelsAfter t.prompts.pool changed t.prompts.levels ∧
      t.bus = (u.levelRequests t.prompts.pool changed).bus ∧ t.status = (u.levelRequests t.prompts.pool changed).status
    ∃ t, exec (.assign rx f) s = .next t ∧ t = s.busy.promptsMoved t ∧
      s.keypadPanel f.keypad = some a.panel ∧ s.carSlot f.car = some a.slot ∧
      (∀ p, pool.find? a.mergesWith = some p →
        t.prompts.pool = pool.erase p ++ [{ p with
          merges := min 9 (p.merges + 1), access := p.access || a.access, lang := a.lang, state := st,
          expiry := s.cycle.clock + BitVec.ofNat 32 (hold (p.access || a.access)) }] ∧
        reported s.busy t (a.panel :: replaced)) ∧
      (pool.find? a.mergesWith = none → ∀ v, evictionFor pool a.panel = some v →
        t.prompts.pool = pool.erase v ++ [fresh] ∧
        t.status.counters.evictions = counted s.status.counters.evictions 1 ∧
        reported (s.busy.count .evictions) t (a.panel :: v.panel :: replaced)) ∧
      (pool.find? a.mergesWith = none → evictionFor pool a.panel = none →
        t.prompts.pool = pool ++ [fresh] ∧ reported s.busy t (a.panel :: replaced)) ∧
      (∀ q, s.mode.level ≠ .evacuate → s.mode.quiet[a.panel]? = some q →
        let ahead : Clock := s.cycle.clock + BitVec.ofNat 32 ((s.timing row).quiet * 1000)
        t.mode.quiet[a.panel]? = some { state := .awake, timer := some ahead }) ∧
      (∀ n, n ≠ a.panel → t.mode.quiet[n]? = s.mode.quiet[n]?)) ∧
  (∀ (pool : List Prompt) (panel : Nat), pool.length ≤ 48 → (onPanel panel pool).length ≤ 12 →
    let shown (p : Prompt) : Prop := p.state = .shown ∧ p.access = false
    let source := if onPanel panel pool = [] then pool else onPanel panel pool
    ((onPanel panel pool).length < 12 → pool.length < 48 → evictionFor pool panel = none) ∧
    ((onPanel panel pool).length = 12 ∨ pool.length = 48 →
      ∃ v before after, evictionFor pool panel = some v ∧ source = before ++ v :: after ∧
        ((shown v ∧ ∀ p ∈ before, ¬ shown p) ∨ (before = [] ∧ ∀ p ∈ source, ¬ shown p))))

/-- A WITHDRAW removes the entry with its ticket, and a hold expiry the entry whose hold is reached; the other entries
keep their fields and their order; the panel that lost one takes a content change and has its load level recomputed and
reported when it changes, the next state being that and nothing else; no panel is woken (R105, R107, R108, R113, R114; the order of several panels is the model's choice, log 10). -/
def Obligations.WithdrawAndHoldExpiryRemoveEntries : Prop :=
  let reported (s u t : State) (gone : List Prompt) : Prop :=
    let changed := s.panelIds.filter (gone.map (·.panel)).contains
    t = changed.foldl (fun (v : State) n => v.reportList none n)
      { u with prompts := { u.prompts with pool := t.prompts.pool } } ∧
    s.levelsAfter t.prompts.pool changed t.prompts.levels ∧
    t.bus = (u.levelRequests t.prompts.pool changed).bus ∧ t.status = (u.levelRequests t.prompts.pool changed).status ∧
    t.mode = s.mode
  (∀ (s : State) (rx : Rx) (ticket : Word16), s.hears rx →
    ∃ t, exec (.withdraw rx ticket) s = .next t ∧
      t.prompts.pool = s.prompts.pool.filter (fun p => p.ticket != ticket.toNat) ∧ t = s.busy.promptsMoved t ∧
      reported s s.busy t (s.prompts.pool.filter (fun p => p.ticket == ticket.toNat))) ∧
  (∀ (s : State) (ticket : Nat), s.loader.state = .running →
    ∃ t, exec (.holdExpiry ticket) s = .next t ∧
      t.prompts.pool = s.prompts.pool.filter (fun p => !(p.ticket == ticket && reached p.expiry s.cycle.clock)) ∧
      t = s.promptsMoved t ∧
      reported s s t (s.prompts.pool.filter (fun p => p.ticket == ticket && reached p.expiry s.cycle.clock)))

/-- The load level by the length, the warning mark and the level before; a recomputation that changes a panel's level holds
the new one and requests one PANEL LOAD with it and the length, and one that does not changes nothing; a changed list is
reported by the wake of the panel an ASSIGN was placed on, then the content change, then the recomputation (R105, R113,
R114). -/
def Obligations.LoadLevelHasHysteresis : Prop :=
  (∀ (length warn : Nat) (before : LoadLevel), length ≤ 12 → 4 ≤ warn → warn ≤ 12 →
    (length = 12 → loadLevel length warn before = .full) ∧
    (warn ≤ length → length ≤ 11 → loadLevel length warn before = .crowded) ∧
    (length + 2 < warn → loadLevel length warn before = .open_) ∧
    (length < 12 → warn ≤ length + 2 → length < warn →
      loadLevel length warn before = if before = .open_ then .open_ else .crowded)) ∧
  (∀ (s : State) (n : Nat) (row : PanelRow), s.row n = some row →
    let length := (onPanel n s.prompts.pool).length
    let level := loadLevel length row.warn (s.levelOf n)
    (level = s.levelOf n → s.relevel n = s) ∧
    (level ≠ s.levelOf n → s.relevel n =
      (({ s with prompts := { s.prompts with levels := s.prompts.levels.set n level } } : State).request
        (.panelLoad n level length)).2) ∧
    s.reportList (some n) n = ((s.wake n).contentChange n).relevel n ∧
    (∀ placed, placed ≠ some n → s.reportList placed n = (s.contentChange n).relevel n))

/-- Every composed page has exactly the panel's lines, each of exactly the panel's width. At levels 0 and 1 it is the page
itself; a TEXT page sets its text on the lines, a NOTICE page the newest claim's text, and without one, as a BLANK page, it is
spaces. At level 2 the notice text takes the last line, but of a NOTICE page, and on a one-line panel it stands for a TEXT or
BLANK page. At level 3 a panel shows the evacuation text, or alarm glyphs, on every line, a CAR panel its FLOOR page with that
on the last line. A LANTERN panel's page is the same at every level (R140, R144, R146). -/
def Obligations.PageFillsThePanel : Prop :=
  (∀ (s : State) (n : Nat) (row : PanelRow) (page : Page) (index : Nat),
    s.row n = some row → 1 ≤ row.lines → 1 ≤ row.width →
    (s.compose n page index).length = row.lines ∧ ∀ line ∈ s.compose n page index, line.length = row.width) ∧
  (∀ (s : State) (n : Nat) (row : PanelRow) (sc : Schedule) (index : Nat),
    s.row n = some row → s.schedules[n]? = some sc →
    let text (k : Nat) : Chars := s.loader.copy.textIn k (if s.pin n then .secondary else sc.lang)
    let notice := s.mode.claims.getLast?.map (·.text)
    let blank : Content := List.replicate row.lines (List.replicate row.width 0x20#8)
    let itself (page : Page) : Content := s.basePage n row page index
    (∀ k, itself (.text k) = drawnText row.width row.lines (text k)) ∧
    (∀ k, notice = some k → itself .notice = drawnText row.width row.lines (text k)) ∧
    (notice = none → itself .notice = blank) ∧ itself .blank = blank ∧
    (row.kind = .lantern → ∀ page, s.compose n page index = itself .lantern) ∧
    (row.kind ≠ .lantern →
      (s.mode.level = .normal ∨ s.mode.level = .night → ∀ page, s.compose n page index = itself page) ∧
      (s.mode.level = .notice → 2 ≤ row.lines →
        s.compose n .notice index = itself .notice ∧
        (∀ page k, page ≠ .notice → notice = some k →
          s.compose n page index = (itself page).dropLast ++ [drawnLine row.width (text k)])) ∧
      (s.mode.level = .notice → row.lines < 2 →
        (∀ page k, notice = some k → (page = .blank ∨ ∃ j, page = .text j) →
          s.compose n page index = [drawnLine row.width (text k)]) ∧
        (∀ page, page ≠ .blank → (∀ j, page ≠ .text j) → s.compose n page index = itself page)) ∧
      (s.mode.level = .evacuate → ∀ page,
        let floor := (s.basePage n row .floor 0).dropLast
        (∀ k, s.mode.evacText = some k →
          s.compose n page index = if row.kind = .car then floor ++ [drawnLine row.width (text k)]
            else drawnText row.width row.lines (text k)) ∧
        (s.mode.evacText = none →
          s.compose n page index = if row.kind = .car then floor ++ [List.replicate row.width 0x08#8]
            else List.replicate row.lines (List.replicate row.width 0x08#8)))))

/-- A FLOOR page lays the cells of its cars line by line, one space between them: the cars of a LOBBY panel's list, every slot
of a DESTINATION panel, the own car and deck of a CAR panel. Where cars are left out the last cell's arrow field is the
continuation glyph, also over the firefighter glyph and in an UNKNOWN car's cell (that is the model's choice, log 34). A cell
is label, space, indication and arrow: of a TRACKED car the deck's shown label and arrow, of a STALE one a flashing label, the
frozen label and a space, of a LOST one the dash pair; a TRACKED or STALE car in FIREFIGHTER service has the firefighter glyph
for its arrow; the cell of an UNKNOWN car is spaces (R141; that the padding of a flashing label is steady is the model's
reading, log 18). -/
def Obligations.FloorPagesShowTheCars : Prop :=
  (∀ (s : State) (n : Nat) (row : PanelRow) (index : Nat), row.kind ≠ .lantern →
    let upperShown (slot : Nat) : Prop := ∃ car, s.loader.copy.cars[slot]? = some car ∧ 0 < car.step ∧
      car.lo + car.step ≤ row.landing ∧ row.landing ≤ car.hi + car.step ∧
      ¬ (car.lo ≤ row.landing ∧ row.landing ≤ car.hi)
    let perLine := max 1 ((row.width + 1) / 9)
    let room := if row.kind = .car then 1 else perLine * row.lines
    let laid (cells : List Chars) : Content := (List.range row.lines).map (fun i =>
      drawnLine row.width ([0x20#8].intercalate ((cells.drop (i * perLine)).take perLine)))
    ∀ cars : List (Nat × Deck),
      (row.kind = .car → cars = [(row.slot, row.deck)]) →
      (row.kind = .lobby → cars.map (·.1) = row.cars) →
      (row.kind = .destination → cars.map (·.1) = List.range s.loader.copy.cars.length) →
      (row.kind ≠ .car → ∀ c ∈ cars, c.2 = .upper ↔ upperShown c.1) →
      let cells := (cars.take room).map (fun c => s.cell c.1 c.2)
      (cars.length ≤ room → s.basePage n row .floor index = laid cells) ∧
      (∀ first last, room < cars.length → cells = first ++ [last] →
        s.basePage n row .floor index = laid (first ++ [last.take 7 ++ [0x04#8]]))) ∧
  (∀ (s : State) (slot : Nat) (d : Deck) (car : CarRow), s.loader.copy.cars[slot]? = some car →
    let r := s.carRec slot
    let shown : Chars :=
      match d with
      | .lower => if r.indicated = none then [] else r.labelLower.getD []
      | .upper => if r.indicated = none ∨ car.step = 0 then [] else r.labelUpper.getD []
    let arrow : Dir := if d = .upper ∧ r.anchor = true ∧ (r.motion = .parked ∨ r.motion = .levelling)
      then (s.decksOf slot).upper.intent else r.arrow
    let fire (b : Byte) : Byte := if r.service = .firefighter then 0x06 else b
    let steady := inField 2 car.label
    let flashing := inField 2 (car.label.map (fun b => b ||| 0x80#8))
    (r.tracking = .tracked → s.cell slot d = steady ++ [0x20#8] ++ inField 4 shown ++ [fire (drawnDir arrow)]) ∧
    (r.tracking = .stale → s.cell slot d = flashing ++ [0x20#8] ++ inField 4 shown ++ [fire 0x20]) ∧
    (r.tracking = .lost → s.cell slot d = steady ++ [0x20#8, 0x2D#8, 0x2D#8, 0x20#8, 0x20#8, 0x20#8]) ∧
    (r.tracking = .unknown → s.cell slot d = List.replicate 8 0x20#8))

/-- A PROMPTS page shows the panel's entries, newest first, and a STOPS page the ordered stops of its car and deck, one to an
item line from the view's first, every line but one that the notice takes; the other lines are spaces. A SHOWN entry is drawn
as destination, direction and car, with its merges and access; a BOARDING one so, flashing whole; a REASSIGN one as
destination and re-enter text. A lantern page names on its first line each car announced, open or lingering with its
direction, which flashes while ANNOUNCED (that the firefighter glyph flashes too is the model's reading, log 18). A
destination or stop is drawn as its own label, the express glyph, or the nearest landing that is not HIDDEN (R91, R140, R142,
R143, R145). -/
def Obligations.ItemPagesShowTheLists : Prop :=
  (∀ (s : State) (n : Nat) (row : PanelRow) (index : Nat),
    let itemLines := if s.mode.level = .notice ∧ 2 ≤ row.lines then row.lines - 1 else row.lines
    let blank := List.replicate row.width 0x20#8
    let view (items : List Chars) : Content := (List.range row.lines).map (fun i =>
      if i < itemLines then (items[index * itemLines + i]?).getD blank else blank)
    let form (x : Nat) : Chars := s.loader.copy.landingForm x
    let label (slot : Nat) : Chars := ((s.loader.copy.cars[slot]?).map (·.label)).getD []
    let way (x : Nat) : Dir := if row.landing < x then .up else if x < row.landing then .down else .none
    let shown (p : Prompt) : Chars := form p.dest ++ [0x20#8, drawnDir (way p.dest), 0x20#8] ++ label p.slot ++
      (if 2 ≤ p.merges then [0x20#8, 0x09#8, BitVec.ofNat 8 (0x30 + p.merges)] else []) ++
      (if p.access then [0x20#8, 0x05#8] else [])
    let reenter (lang : Lang) : Chars := if s.loader.copy.texts = [] then [0x07#8] else s.loader.copy.textIn 0 lang
    let line (p : Prompt) : Chars :=
      match p.state with
      | .shown => drawnLine row.width (shown p)
      | .boarding => (drawnLine row.width (shown p)).map (fun b => b ||| 0x80#8)
      | .reassign => drawnLine row.width (form p.dest ++ [0x20#8] ++ reenter p.lang)
    let part (r : Lantern) : Chars :=
      let glyph : Byte := if (s.carRec r.slot).service = .firefighter then 0x06 else drawnDir r.dir
      label r.slot ++ [if r.state = .announced then glyph ||| 0x80 else glyph]
    let lit := s.stops.lanterns.filter (fun r => r.panel == n && r.state != .dark)
    s.basePage n row .prompts index = view ((onPanel n s.prompts.pool).reverse.map line) ∧
    (∀ car, s.loader.copy.cars[row.slot]? = some car → s.basePage n row .stops index =
      view ((orderedStops car (s.carRec row.slot) (s.decksOf row.slot) row.deck).map (fun x =>
        drawnLine row.width (form x)))) ∧
    s.basePage n row .lantern index = (List.range row.lines).map (fun i =>
      if i = 0 then drawnLine row.width ([0x20#8].intercalate (lit.map part)) else blank)) ∧
  (∀ (car : CarRow) (r : CarRec) (ds : CarDecks) (d : Deck),
    let stops := (ds.get d).stops
    let atRest := r.motion = .parked ∨ r.motion = .levelling
    let up := r.motion = .runningUp ∨ (atRest ∧ (ds.get d).intent = .up)
    let down := r.motion = .runningDown ∨ (atRest ∧ (ds.get d).intent = .down)
    let current := r.indicatedOf car d
    (∀ k, up → current = some k → orderedStops car r ds d =
      stops.filter (fun l => decide (k ≤ l)) ++ (stops.filter (fun l => decide (l < k))).reverse) ∧
    (∀ k, down → current = some k → orderedStops car r ds d =
      (stops.filter (fun l => decide (l ≤ k))).reverse ++ stops.filter (fun l => decide (k < l))) ∧
    (¬ up ∧ ¬ down ∨ current = none → orderedStops car r ds d = stops)) ∧
  (∀ (c : Image) (x : Nat), c.showsLabel x none (c.landingForm x))

/-! ### The transmit queue -/

/-- A request is answered by the first case of R7 that applies; a PANEL LOAD replaces the fields of a queued or contending
one for its panel, and a SENSE adds its edges to the one for its line, to the held increase while that is on the bus (R7 to
R9). That a PANEL LOAD replaces the fields of every such frame where two stand in the queue is the model's choice (log
29). -/
def Obligations.RequestsAreAnsweredInOrder : Prop :=
  (∀ (s : State) (p : TxPayload),
    let accepted : State := { s with bus := { s.bus with queue := insertFrame (newFrame p) s.bus.queue } }
    (s.bus.state = .listenOnly → s.request p = (.dropped, if p.header = 72 then s else s.count .framesDropped)) ∧
    (s.bus.state = .active → s.loader.state = .imageFault → p.header ≠ 222 →
      s.request p = (.dropped, s.count .framesDropped)) ∧
    (s.bus.state = .active → (s.loader.state ≠ .imageFault ∨ p.header = 222) →
      (p.header = 72 → (∀ g ∈ s.bus.queue, g.isTempo = false) → s.request p = (.accepted, accepted)) ∧
      (p.header ≠ 72 → (∃ g ∈ s.bus.queue, g.takes p = true) → s.request p = (.coalesced, { s with
        bus := { s.bus with queue := s.bus.queue.map (fun f => if f.takes p then f.coalesce p else f) } })) ∧
      (p.header ≠ 72 → (∀ g ∈ s.bus.queue, g.takes p = false) →
        7 ≤ frameCount TxFrame.shared s.bus.queue →
        s.request p = (.dropped, (s.count .framesDropped).raise .queueOverflow)) ∧
      (p.header ≠ 72 → (∀ g ∈ s.bus.queue, g.takes p = false) → frameCount TxFrame.shared s.bus.queue < 7 →
        s.request p = (.accepted, accepted)))) ∧
  (∀ (f : TxFrame) (n m : Nat) (level level' : LoadLevel) (c c' : Nat), f.payload = .panelLoad m level' c' →
    (f.takes (.panelLoad n level c) = true ↔ n = m ∧ f.state ≠ .sending ∧ f.withdrawn = false) ∧
    f.coalesce (.panelLoad n level c) = { f with payload := .panelLoad n level c }) ∧
  (∀ (f : TxFrame) (line line' k edges ct ct' : Nat) (c c' : BitVec 6), f.payload = .sense line' edges c' ct' →
    (f.takes (.sense line k c ct) = true ↔ line = line' ∧ f.withdrawn = false) ∧
    (f.state = .sending → f.coalesce (.sense line k c ct) = { f with held := min 254 (f.held + k) }) ∧
    (f.state ≠ .sending → f.coalesce (.sense line k c ct) =
      { f with payload := .sense line' (min 255 (edges + k)) c' ct' }))

/-- An attempt of the part, brought by its command or by the millisecond itself (log 2), begins exactly when the bus is free,
no frame is on it, the station is ACTIVE, the queue has a head and the loader state lets it start; the head is then
CONTENDING, the bus occupied, and the first bit's mark the clock. Where the part may begin none on a free bus, the attempt is
another station's, whose first bit occupies the bus and sets the mark (the model's reading of the row, log 31); no
millisecond brings one. On winning arbitration the frame is SENDING (R3, R5, R11). -/
def Obligations.AttemptStartsWhenReady : Prop :=
  (∀ (s : State) (f : TxFrame) (rest : List TxFrame),
    s.bus.busFree = true → s.bus.state = .active → s.bus.queue = f :: rest →
    (∀ g ∈ s.bus.queue, g.state = .queued) →
    (s.loader.state = .running ∨ (s.loader.state = .imageFault ∧ f.payload.header = 222)) →
    let begun : State := { s with bus := { s.bus with
      queue := { f with state := .contending } :: rest, busFree := false, firstBit := some s.cycle.clock } }
    exec .attemptStart s = .next begun ∧ s.beginAttempt = begun) ∧
  (∀ s : State, s.bus.busFree = true →
    (s.bus.state = .listenOnly ∨ s.bus.queue = [] ∨ (∃ g ∈ s.bus.queue, g.state ≠ .queued) ∨
      s.loader.state = .loading ∨
      (s.loader.state = .imageFault ∧ ∀ g ∈ s.bus.queue, g.payload.header ≠ 222)) →
    exec .attemptStart s = .next { s with bus := { s.bus with busFree := false, firstBit := some s.cycle.clock } } ∧
      s.beginAttempt = s) ∧
  (∀ s : State, s.bus.busFree = false → exec .attemptStart s = .next s ∧ s.beginAttempt = s) ∧
  (∀ s : State, exec .arbitrationWon s = .next { s with bus := { s.bus with
    queue := s.bus.queue.map (fun g => if g.state = .contending then { g with state := .sending } else g) } })

/-- Losing arbitration returns the frame to QUEUED, or removes it when it carries a withdrawal mark, and counts nothing; the
mark of the first bit stays, for it is the winner's too. A failed attempt counts TX_FAILURES and raises the transmit failure
count by 4; below 96 the frame is QUEUED again, a SENSE with its held edges added, or removed when it is marked; at 96 an
ACTIVE station enters LISTEN_ONLY from the state so counted. The bus becoming free ends an ignored frame. On entry to LISTEN_ONLY every frame is
discarded and counted, the item is raised, and the owners are told dropped: the pending-tempo flag clears, the captures of
SENSE frames are ARMED, and the query of an open report ends (R1, R3, R5, R9 to R14, R38, R133, R164). -/
def Obligations.AttemptsThatDoNotComplete : Prop :=
  (∀ (s : State) (f : TxFrame), s.frameIn .contending = some f →
    (f.withdrawn = false → exec .lostArbitration s = .next { s with bus := { s.bus with
      queue := s.bus.queue.map (fun g => if g.state = .contending then { g with state := .queued } else g) } }) ∧
    (f.withdrawn = true → exec .lostArbitration s = .next { s with
      bus := { s.bus with queue := s.bus.queue.filter (fun g => g.state != AttemptState.contending) },
      cycle := { s.cycle with pendingTempo := s.cycle.pendingTempo && !f.isTempo } })) ∧
  (∀ s : State, exec .busBecomesFree s = .next { s with bus := { s.bus with
    busFree := true, ignoring := false, firstBit := none } }) ∧
  (∀ (s : State) (f : TxFrame), s.attempting = some f →
    let silences := s.bus.state = .active ∧ 96 ≤ min 255 (s.bus.failCount + 4)
    ∃ t, exec .failedAttempt s = .next t ∧
      t.bus.failCount = min 255 (s.bus.failCount + 4) ∧
      t.status.counters.txFailures = counted s.status.counters.txFailures 1 ∧
      (silences → t.bus.state = .listenOnly ∧ t.bus.queue = [] ∧ t.status.exceptions.listenOnly = true ∧
        t.status.counters.framesDropped = counted s.status.counters.framesDropped s.bus.queue.length ∧
        t = ({ s with
          bus := { s.bus with failCount := min 255 (s.bus.failCount + 4) },
          status := { s.status with counters := { s.status.counters with
            txFailures := counted s.status.counters.txFailures 1 } } } : State).enterListenOnly) ∧
      (¬ silences → f.withdrawn = false → t = { s with
        bus := { s.bus with
          failCount := min 255 (s.bus.failCount + 4),
          queue := s.bus.queue.map (fun g =>
            if g.state = f.state then { g.addHeld with state := .queued } else g) },
        status := { s.status with counters := { s.status.counters with
          txFailures := counted s.status.counters.txFailures 1 } } }) ∧
      (¬ silences → f.withdrawn = true → t = { s with
        bus := { s.bus with
          failCount := min 255 (s.bus.failCount + 4),
          queue := s.bus.queue.filter (fun g => g.state != f.state) },
        cycle := { s.cycle with pendingTempo := s.cycle.pendingTempo && !f.isTempo },
        status := { s.status with counters := { s.status.counters with
          txFailures := counted s.status.counters.txFailures 1 } } })) ∧
  (∀ s : State,
    let t := s.enterListenOnly
    t.bus = { s.bus with queue := [], state := .listenOnly } ∧
    t.cycle = { s.cycle with pendingTempo := s.cycle.pendingTempo && !s.bus.queue.any TxFrame.isTempo } ∧
    t.status = { s.status with
      counters := { s.status.counters with
        framesDropped := counted s.status.counters.framesDropped s.bus.queue.length },
      exceptions := { s.status.exceptions with listenOnly := true },
      query := if s.bus.queue.any TxFrame.isOpenReport then none else s.status.query } ∧
    (∀ (line : Nat) (c : Capture), s.mode.captures[line]? = some c → t.mode.captures[line]? = some
      { c with armed := c.armed || s.bus.queue.any (fun g =>
          match g.payload with
          | .sense l _ _ _ => l == line
          | _ => false) }) ∧
    t = { s with bus := t.bus, cycle := t.cycle, status := t.status,
                 mode := { s.mode with captures := t.mode.captures } })

/-- A completed PANEL LOAD leaves the queue and lowers the failure count; a completed SENSE also re-arms its capture, or
requests at once a new SENSE with the edges it did not carry and the latest pair (R12, R13, R114, R133). -/
def Obligations.PanelLoadAndSenseComplete : Prop :=
  ∀ (s : State) (f : TxFrame), s.frameIn .sending = some f →
    let rest := s.bus.queue.filter (fun g => g.state != AttemptState.sending)
    let done : State := { s with bus := { s.bus with
      queue := rest, failCount := s.bus.failCount - 1, firstBit := none } }
    (∀ n level count, f.payload = .panelLoad n level count → exec .attemptCompleted s = .next done) ∧
    (∀ line edges count ct, f.payload = .sense line edges count ct →
      (f.held = 0 → exec .attemptCompleted s = .next { done with mode := { s.mode with
        captures := s.mode.captures.modify line (fun c => { c with armed := true }) } }) ∧
      (∀ c pairCount pairCt, f.held ≠ 0 → s.mode.captures[line]? = some c → c.latest = some (pairCount, pairCt) →
        s.bus.state = .active → s.loader.state = .running →
        (∀ g ∈ rest, g.takes (.sense line f.held pairCount pairCt) = false) → frameCount TxFrame.shared rest < 7 →
        let queue := insertFrame (newFrame (.sense line f.held pairCount pairCt)) rest
        exec .attemptCompleted s = .next { done with
          mode := { s.mode with captures := s.mode.captures.modify line (fun c => { c with armed := false }) },
          bus := { done.bus with queue := queue } }))

/-- A completed EXCEPTIONS report removes from the record what its snapshot still holds, other than held items; a completed
part 1 of COUNTERS with the clear option lowers each of the twelve counters by the value reported; a query goes on to its
next part with the data read then, or ends after its last (R164, R166 to R168). -/
def Obligations.ReportCompletionsClear : Prop :=
  ∀ (s : State) (f : TxFrame) (kind : QueryKind) (part : Nat) (data : List Byte) (effect : ReportEffect),
    s.frameIn .sending = some f → f.payload = .report kind part data effect →
    let rest := s.bus.queue.filter (fun g => g.state != AttemptState.sending)
    let order : List Counter := [.framesBad, .framesDropped, .txFailures, .countDisagree, .skippedMarks, .lateFlips,
      .evictions, .assignIgnored, .unanchoredSteps, .levelDisagree, .fieldRange, .linkRetries]
    let counters := s.status.counters
    ∃ t, exec .attemptCompleted s = .next t ∧ t.bus.failCount = s.bus.failCount - 1 ∧
      (∀ snap, effect = .snapshot snap →
        (f.withdrawn = true ∨ ∃ q, s.status.query = some q ∧ q.kind = .exceptions) →
        (∀ i, t.status.exceptions.has i =
          (s.status.exceptions.has i && (!snap.has i || s.heldItems.has i))) ∧
        t.bus.queue = rest ∧
        t.status.query = (if f.withdrawn then s.status.query else none) ∧ t.status.counters = counters) ∧
      (∀ values : List Nat, effect = .lower values → values.length = 12 →
        (f.withdrawn = true ∨ ∃ q, s.status.query = some q ∧ q.kind = .counters ∧ q.part ≠ 0) →
        (∀ (i : Nat) (k : Counter) (v : Nat), order[i]? = some k → values[i]? = some v →
          t.status.counters.get k = counters.get k - v) ∧
        t.status.exceptions = s.status.exceptions ∧ t.bus.queue = rest ∧
        t.status.query = (if f.withdrawn then s.status.query else none)) ∧
      (∀ q next, effect = .none → f.withdrawn = false → s.status.query = some q → s.nextPart q = some next →
        s.bus.state = .active → frameCount TxFrame.shared rest < 7 →
        let answer := s.reportPart { q with part := next }
        t.status = { s.status with query := some { q with part := next } } ∧
        t.bus.queue = insertFrame (newFrame (.report q.kind next answer.1 answer.2)) rest ∧
        (q.kind = .counters → q.part = 0 ∧ next = 1 ∧
          (let values := [counters.evictions, counters.assignIgnored, counters.unanchoredSteps, counters.levelDisagree,
             counters.fieldRange, counters.linkRetries]
           answer.1 = values.flatMap bytes2 ∧
           answer.2 = (if q.clear then .lower (q.part0 ++ values) else .none))) ∧
        (q.kind = .cars → next = q.part + 1 ∧ next < s.loader.copy.cars.length ∧ answer.2 = .none ∧
          (let r := s.carRec next
           next ≠ 255 → answer.1 = [byte r.tracking.code, byte r.silence, (r.indicated.map byte).getD 255,
             byte r.service.code, if r.anchor then 1 else 0]))) ∧
      (∀ q, effect = .none → f.withdrawn = false → s.status.query = some q → s.nextPart q = none →
        t.status = { s.status with query := none } ∧ t.bus.queue = rest)

/-- A valid STATUS QUERY becomes the query in progress; one that was in progress is superseded, its report in the queue
being removed while QUEUED and marked while on the bus. The first report is requested at once, with the data read at that
moment; in LISTEN_ONLY, or when the shared slots are full, the request is dropped and the query ends (R163, R164, R166 to
R168). While no tempo was heard, bits 5 and 6 of the state byte are a free value (log 9): they are any two bits, bit 7 is clear
and the tempo bytes are 0. The row byte of no fault is the model's reading (log 26). -/
def Obligations.StatusQueryRequestsTheReport : Prop :=
  ∀ (s : State) (rx : Rx) (f : QueryFrame) (kind : QueryKind) (clear : Bool),
    s.receivesFrom rx → s.addressed f.target = true → decodeQueryKind f.kind = some kind →
    decodeClear f.clear = some clear →
    let e := s.status.exceptions
    let counters := s.status.counters
    let part := if kind = .cars ∧ s.loader.copy.cars = [] then 255 else 0
    let values := [counters.framesBad, counters.framesDropped, counters.txFailures, counters.countDisagree,
      counters.skippedMarks, counters.lateFlips]
    let openReport (g : TxFrame) : Prop := g.payload.header = 222 ∧ g.withdrawn = false
    let queue := if s.status.query = none then s.bus.queue else
      (s.bus.queue.filter (fun g => !(g.payload.header == 222 && !g.withdrawn && g.state == AttemptState.queued))).map
        (fun g => if openReport g then { g with withdrawn := true } else g)
    let dropped : Counters := { counters with framesDropped := counted counters.framesDropped 1 }
    (s.bus.state = .listenOnly →
      ∃ t, exec (.statusQuery rx f) s = .next t ∧ t = { s with
        bus := { s.bus with busFree := false, firstBit := none, queue := queue },
        status := { s.status with counters := dropped, query := none }, free := t.free }) ∧
    (s.bus.state = .active → 7 ≤ frameCount TxFrame.shared queue →
      ∃ t, exec (.statusQuery rx f) s = .next t ∧ t = { s with
        bus := { s.bus with busFree := false, firstBit := none, queue := queue.map (TxFrame.dropItem .queueOverflow) },
        status := { s.status with
          counters := dropped, query := none, exceptions := { e with queueOverflow := true } }, free := t.free }) ∧
    (s.bus.state = .active → frameCount TxFrame.shared queue < 7 →
      ∃ t data effect q, exec (.statusQuery rx f) s = .next t ∧
        t.bus.queue = insertFrame (newFrame (.report kind part data effect)) queue ∧
        t.status.query = some q ∧
        q = { kind := kind, clear := clear, part := part, part0 := if kind = .counters then values else [] } ∧
        t = { s with
          bus := { s.bus with busFree := false, firstBit := none, queue := t.bus.queue },
          status := { s.status with query := some q }, free := t.free } ∧
        (kind = .exceptions → effect = .snapshot e ∧ data.length = 14 ∧
          (∀ i : Fin 8, (data[0]?.map (fun b => b.getLsbD i)) = some
            ([e.powerUp, e.pinReset, e.restarted, e.imageFault, e.imageClamped, e.stationClash, e.listenOnly,
              e.queueOverflow][i]!)) ∧
          data[1]? = some e.showListFault ∧
          data[2]? = some (hiByte e.positionRange) ∧ data[3]? = some (loByte e.positionRange) ∧
          data[4]? = some (hiByte e.carLost) ∧ data[5]? = some (loByte e.carLost) ∧
          data[6]? = some e.linkFault ∧ data[7]? = some e.moduleFault ∧
          (∀ last, s.cycle.lastTempo = some last →
            data[8]? = some (byte (s.status.cause.code + 4 * s.cycle.sync.code
              + (if s.bus.state = .listenOnly then 16 else 0) + 32 * last.sync.code + 128)) ∧
            data[10]? = some last.source ∧ data[11]? = some (last.count.setWidth 8)) ∧
          (s.cycle.lastTempo = none →
            (∃ x < 4, data[8]? = some (byte (s.status.cause.code + 4 * s.cycle.sync.code
              + (if s.bus.state = .listenOnly then 16 else 0) + 32 * x))) ∧
            data[10]? = some 0 ∧ data[11]? = some 0) ∧
          data[9]? = some (byte s.status.restarts) ∧
          (s.loader.fault = none → data[12]? = some 0 ∧ data[13]? = some 255) ∧
          (∀ reason row, s.loader.fault = some (reason, row) →
            data[12]? = some (byte reason.code) ∧ data[13]? = some (byte row))) ∧
        (kind = .counters → effect = .none ∧ data = values.flatMap bytes2) ∧
        (kind = .cars → effect = .none ∧
          (s.loader.copy.cars = [] → data = []) ∧
          (s.loader.copy.cars ≠ [] → data =
            [byte (s.carRec 0).tracking.code, byte (s.carRec 0).silence,
              ((s.carRec 0).indicated.map byte).getD 255, byte (s.carRec 0).service.code,
              if (s.carRec 0).anchor then 1 else 0])))

/-! ### The cycle -/

/-- A tempo heard from another station sets base and count from the frame's arrival mark and count and raises the cycle
start event with the CT held when the tempo is taken, also where the mark lies before the base; it moves the sync state by
R40 and is recorded; while the part's own TEMPO is pending, a QUEUED one is removed and one on the bus is marked withdrawn;
every car's silence is evaluated and skipped entries are counted, and the next state is that of the cycle start and nothing
else; in LISTEN_ONLY it lowers the failure count, also in IMAGE_FAULT, where it is not routed (R3, R10, R13, R15, R34, R39, R40, R46, R47, R59 to R62, R137). That a frame whose first
bit was not brought takes the clock at its end as its mark is the model's choice (log 5). -/
def Obligations.TempoHeardStartsACycle : Prop :=
  ∀ (s : State) (rx : Rx) (count sync : Byte),
    let heardSilent := s.bus.state = .listenOnly ∧ s.validStation = true
    let fails := if heardSilent then s.bus.failCount - 1 else s.bus.failCount
    let station := if heardSilent ∧ s.bus.failCount - 1 = 0 then .active else s.bus.state
    let own := s.cycle.count + 1
    let mark := s.bus.firstBit.getD s.cycle.clock
    (s.receivesFrom rx → s.loader.state = .imageFault → exec (.tempo rx count sync) s = .next { s with
      bus := { s.bus with busFree := false, firstBit := none, failCount := fails, state := station } }) ∧
    let withdrawn : List TxFrame :=
      if s.cycle.pendingTempo then
        (s.bus.queue.filter (fun g => !(g.isTempo && g.state == AttemptState.queued))).map
          (fun g => if g.isTempo then { g with withdrawn := true } else g)
      else s.bus.queue
    (s.hears rx → ∃ t, exec (.tempo rx count sync) s = .next t ∧
      t = ({ s with
        cycle := { s.cycle with sync := t.cycle.sync, pendingTempo := t.cycle.pendingTempo, lastTempo := t.cycle.lastTempo },
        bus := { s.bus with busFree := false, firstBit := none, failCount := fails, state := station, queue := withdrawn },
        status := { s.status with counters := { s.status.counters with
          countDisagree := if s.cycle.sync = SyncState.inStep ∧ count.setWidth 6 ≠ own
            then counted s.status.counters.countDisagree 1 else s.status.counters.countDisagree } } } : State).cycleStart
        .heard mark (count.setWidth 6) ∧
      t.cycle = { s.cycle with
        base := mark, count := count.setWidth 6, crossed := false,
        event := some { cause := .heard, base := mark, count := count.setWidth 6, endedCt := some s.ct },
        sync := if s.cycle.sync = .alone then SyncState.joining else if count.setWidth 6 = own then .inStep else .joining,
        pendingTempo := s.cycle.pendingTempo && !s.bus.queue.any (fun g => g.isTempo && g.state == AttemptState.queued),
        lastTempo := some { source := rx.source, count := count.setWidth 6,
                            sync := if sync = 0 then .alone else if sync = 1 then .joining
                              else if sync = 2 then .inStep else .free } } ∧
      t = { s with
        cycle := t.cycle,
        bus := { s.bus with busFree := false, firstBit := none, failCount := fails, state := station },
        status := { s.status with counters := { s.status.counters with
          countDisagree := if s.cycle.sync = SyncState.inStep ∧ count.setWidth 6 ≠ own
            then counted s.status.counters.countDisagree 1 else s.status.counters.countDisagree } } }.cycleMoved t ∧
      s.tempoWithdrawn t ∧ s.cycleTaken t)

/-- The part's own completed TEMPO is heard with the mark of its attempt: it leaves the queue, in which no frame is SENDING
then and no TEMPO stands (the slot holds one), the flag clears, base, count, sync state and last tempo record are set from it,
the cycle start event carries the CT held, every car's silence is evaluated and skipped entries are counted, and the next
state is that of the cycle start and nothing else (R3, R6, R12, R34,
R38, R39 to R41, R59 to R62, R137). That a frame whose first bit was not brought takes the clock at its end as its mark is the
model's choice (log 5). -/
def Obligations.OwnTempoIsHeard : Prop :=
  ∀ (s : State) (f : TxFrame) (count : BitVec 6) (sync : SyncState),
    s.loader.state = .running → s.frameIn .sending = some f → f.payload = .tempo count sync →
    let own := s.cycle.count + 1
    let mark := s.bus.firstBit.getD s.cycle.clock
    ∃ t, exec .attemptCompleted s = .next t ∧
      t = ({ s with
        cycle := { s.cycle with sync := t.cycle.sync, pendingTempo := false, lastTempo := t.cycle.lastTempo },
        bus := { s.bus with
          queue := s.bus.queue.filter (fun g => g.state != AttemptState.sending), failCount := s.bus.failCount - 1,
          firstBit := none },
        status := { s.status with counters := { s.status.counters with
          countDisagree := if s.cycle.sync = SyncState.inStep ∧ count ≠ own
            then counted s.status.counters.countDisagree 1 else s.status.counters.countDisagree } } } : State).cycleStart
        .heard mark count ∧
      t.cycle = { s.cycle with
        base := mark, count := count, crossed := false, pendingTempo := false,
        event := some { cause := .heard, base := mark, count := count, endedCt := some s.ct },
        sync := if s.cycle.sync = .alone then SyncState.joining else if count = own then .inStep else .joining,
        lastTempo := some { source := s.bus.station, count := count, sync := sync } } ∧
      t = { s with
        cycle := t.cycle,
        bus := { s.bus with
          queue := s.bus.queue.filter (fun g => g.state != AttemptState.sending), failCount := s.bus.failCount - 1,
          firstBit := none },
        status := { s.status with counters := { s.status.counters with
          countDisagree := if s.cycle.sync = SyncState.inStep ∧ count ≠ own
            then counted s.status.counters.countDisagree 1 else s.status.counters.countDisagree } } }.cycleMoved t ∧
      (∀ g ∈ t.bus.queue, g.state ≠ .sending) ∧
      (frameCount TxFrame.isTempo s.bus.queue = 1 → ∀ g ∈ t.bus.queue, g.isTempo = false) ∧
      timedFrames t.bus.queue = timedFrames (s.bus.queue.filter (fun g => g.state != AttemptState.sending)) ∧
      s.cycleTaken t

/-- At the tempo threshold an eligible part in ACTIVE queues its TEMPO with the next count and its sync state, and the flag
is set; a part that is not eligible, or in LISTEN_ONLY, queues nothing and counts nothing (R32, R37, R38). -/
def Obligations.TempoThresholdQueuesTheTempo : Prop :=
  ∀ s : State, s.loader.state = .running → s.loader.copy.lc ≤ s.ct → s.cycle.crossed = false →
    (s.loader.copy.tempoEligible = false ∨ s.bus.state = .listenOnly →
      exec .tempoThreshold s = .next { s with cycle := { s.cycle with crossed := true } }) ∧
    (s.loader.copy.tempoEligible = true → s.bus.state = .active → (∀ g ∈ s.bus.queue, g.isTempo = false) →
      let queue := insertFrame (newFrame (.tempo (s.cycle.count + 1) s.cycle.sync)) s.bus.queue
      exec .tempoThreshold s = .next { s with
        cycle := { s.cycle with crossed := true, pendingTempo := true },
        bus := { s.bus with queue := queue } })

/-- At the watch threshold the part starts a cycle of its own: base and count move, the event carries Lw as the CT of the
cycle that ended, JOINING and IN_STEP become FREE; while the part's own TEMPO is pending, a QUEUED one is removed and one on
the bus is marked withdrawn; every car's silence is evaluated, the entries of a car that becomes LOST convert, and skipped
entries are counted, and the next state is that of the cycle start and nothing else (R10, R34, R40, R42, R59 to R62, R111, R137). -/
def Obligations.LocalRestartEvaluatesSilence : Prop :=
  ∀ s : State, s.loader.state = .running → s.loader.copy.lc + s.loader.copy.lc / 4 ≤ s.ct →
    let withdrawn : List TxFrame :=
      if s.cycle.pendingTempo then
        (s.bus.queue.filter (fun g => !(g.isTempo && g.state == AttemptState.queued))).map
          (fun g => if g.isTempo then { g with withdrawn := true } else g)
      else s.bus.queue
    ∃ t, exec .localRestart s = .next t ∧
      t = ({ s with
        cycle := { s.cycle with sync := t.cycle.sync, pendingTempo := t.cycle.pendingTempo },
        bus := { s.bus with queue := withdrawn } } : State).cycleStart .localStart s.cycle.clock (s.cycle.count + 1) ∧
      t.cycle = { s.cycle with
        base := s.cycle.clock, count := s.cycle.count + 1, crossed := false,
        event := some { cause := .localStart, base := s.cycle.clock, count := s.cycle.count + 1,
                        endedCt := some (s.loader.copy.lc + s.loader.copy.lc / 4) },
        sync := if s.cycle.sync = .alone then .alone else .free,
        pendingTempo := s.cycle.pendingTempo && !s.bus.queue.any (fun g => g.isTempo && g.state == AttemptState.queued) } ∧
      t = { s with cycle := t.cycle }.cycleMoved t ∧ s.tempoWithdrawn t ∧ s.cycleTaken t

/-- A cycle start event is taken by the show scheduler panel by panel and then by the car tracker, with its four items (the
order is the model's choice, log 12). At a HEARD or LOCAL one, each entry at or beyond the pointer that matched the old count
is skipped and counted, none of a suspended list, and the preload is abandoned, the LOAD of a LOADING one being cancelled;
at a START nothing is counted. The waiting entries are emptied, the pointer moves to the first entry that matches the new
count, and the instants and then the marks that CT has reached are taken. The car tracker evaluates each car's silence, in
ascending slot order (log 12): the record is stored, CAR_LOST is raised at an entry to LOST, and one car state change event of
the old and new records is taken when an item of R64 changed (R34, R59 to R62, R64, R136, R137; the order of instants and marks
is the model's choice, log 16). -/
def Obligations.CycleStartSkipsMarks : Prop :=
  (∀ (s : State) (cause : CycleCause) (base : Clock) (count : BitVec 6),
    let event : CycleStart := { cause := cause, base := base, count := count, endedCt :=
      match cause with
      | .start => none
      | .heard => some s.ct
      | .localStart => some (s.loader.copy.lc + s.loader.copy.lc / 4) }
    let begun : State := { s with cycle := { s.cycle with
      base := base, count := count, crossed := false, event := some event } }
    let shown := s.panelIds.foldl (fun t n => t.schedCycleStart event s.cycle.count n) begun
    s.cycleStart cause base count = if cause = .start then shown else shown.evaluateSilences) ∧
  (∀ (s : State) (event : CycleStart) (old : BitVec 6) (n : Nat) (row : PanelRow) (sc : Schedule),
    s.row n = some row → s.schedules[n]? = some sc →
    let skipped : Nat :=
      if s.suspended row then 0
      else match sc.pointer with
        | some p => ((row.list.drop p).filter (fun e => old.toNat % e.period == e.phase)).length
        | none => 0
    let cancelled : List LinkRec :=
      match sc.preload with
      | some p => if p.state = .loading then
          s.links.modify n (fun l => if l.state = .up then
            { l with queue := l.queue.filter (fun m => !m.isLoadOf p.load) } else l)
        else s.links
      | none => s.links
    let moved : Schedule := { sc with
      waiting := [], instants := 0,
      pointer := findPlace (fun e => s.cycle.count.toNat % e.period == e.phase) row.list }
    s.skippedOf n old = skipped ∧
    (event.cause = .start →
      s.schedCycleStart event old n = ((s.withSched n moved).takeInstants n).takeMarks n) ∧
    (event.cause ≠ .start → s.schedCycleStart event old n =
      ((({ s with
        links := cancelled,
        status := { s.status with counters := { s.status.counters with
          skippedMarks := counted s.status.counters.skippedMarks skipped } } } : State).withSched n
        { moved with preload := none }).takeInstants n).takeMarks n)) ∧
  (∀ s : State, s.evaluateSilences =
    (List.range s.loader.copy.cars.length).foldl (fun (u : State) slot => u.evaluateSilence slot) s) ∧
  (∀ (s : State) (slot : Nat) (row : CarRow) (r : CarRec),
    s.loader.copy.cars[slot]? = some row → s.cars[slot]? = some r →
    let new := s.silencedRec slot row r
    let moved : State := { s with cars := s.cars.set slot new }
    let stored : State :=
      if r.tracking ≠ .lost ∧ new.tracking = .lost then moved.raise (.carLost slot) else moved
    stored.eventTaken slot row (s.decksOf slot).upper.intent r new (s.evaluateSilence slot))

/-! ### Timers of the records -/

/-- At an expiry of a car's indication timer the car is evaluated at the age of its last frame, capped at Amax, and the
next expiry is 100 ms after this one; no level report acts, no stop is removed and no prompt changes. The next state is that
of one car state change event of the old and new records, taken when an item of R64 changed, and else differs in the record
alone (R63, R64, R69). -/
def Obligations.IndicationTimerExpires : Prop :=
  ∀ (s : State) (slot : Nat) (row : CarRow) (r : CarRec) (e : Clock), s.loader.state = .running →
    s.loader.copy.cars[slot]? = some row → s.cars[slot]? = some r → r.timer = some e →
    reached e s.cycle.clock = true → r.tracking = .tracked → r.anchor = true →
    let age := min s.loader.copy.amax (s.cycle.clock - r.mark).toNat
    let new : CarRec :=
      { r.evaluated s.loader.copy row (s.decksOf slot).lower.intent age none with timer := some (e + 100) }
    ∃ t, exec (.indicationTimerExpiry slot) s = .next t ∧ t.cars = s.cars.set slot new ∧
      t.stops.decks = s.stops.decks ∧ t.prompts.pool = s.prompts.pool ∧
      (let moved : State := { s with cars := t.cars }
       moved.eventTaken slot row (s.decksOf slot).upper.intent r new t ∧ t = moved.carMoved t)

/-- At an expiry of a lantern's linger timer its record is DARK with a content change for its panel, whose link is handed at
most the LOAD and FLIP of that change, or the LOAD of a preload composed again, and no chime; no other record moves (R92,
R97; direction and serving deck of the DARK record are the model's choice, log 30; so is that the record may be announced at a
departure taken after the expiry, log 39). A move of a record is carried out as the
record, then the wake event, the chime of one stroke for UP and two for DOWN, suppressed by the night latch below level 3,
and the content change (R94 to R98; the wake before other work on the link is R125's, the chime before the content change
the model's choice, log 14). -/
def Obligations.LingerExpiryDarkensTheRecord : Prop :=
  (∀ (s : State) (panel slot place : Nat) (r : Lantern) (e : Clock), s.loader.state = .running →
    s.stops.lanterns[place]? = some r → r.panel = panel → r.slot = slot → r.state = .linger → r.linger = some e →
    reached e s.cycle.clock = true →
    (∀ (other : Nat) (q : Lantern), s.stops.lanterns[other]? = some q → q.panel = panel → q.slot = slot →
      other = place) →
    let dark : Lantern := { panel := panel, slot := slot, state := .dark, dir := .none, deck := none, linger := none }
    let darkened : State := { s with stops := { s.stops with lanterns := s.stops.lanterns.set place dark } }
    let handed (work : List LinkMsg) : List LinkRec :=
      s.links.modify panel (fun l => work.foldl (fun l m => l.hand m s.cycle.clock) l)
    ∃ t, exec (.lingerExpiry panel slot) s = .next t ∧ t = darkened.contentChange panel ∧ t = darkened.showMoved t ∧
      (t.links = s.links ∨ (∃ content work, t.links = handed [.load content work, .flip (work + 1) false]) ∨
        ∃ content work, t.links = handed [.load content work])) ∧
  (∀ (s : State) (place : Nat) (m : LanternMove),
    let n := m.record.panel
    let moved : State := { s with stops := { s.stops with lanterns := s.stops.lanterns.set place m.record } }
    let woken : State := if m.wake then moved.wake n else moved
    let stroke (k : Nat) : State :=
      { woken with links := woken.links.modify n (fun l => l.hand (.chime k) s.cycle.clock) }
    let suppressed := s.mode.night = true ∧ s.mode.level ≠ .evacuate
    let chimed : State :=
      if m.chime = false ∨ suppressed ∨ m.record.dir = .none then woken
      else if m.record.dir = .up then stroke 1 else stroke 2
    s.applyMove place m = if m.changed then chimed.contentChange n else chimed)

/-- A service level change that is held is taken panel by panel, and the pool is emptied on a change to 3. To level 3 a panel
becomes AWAKE with its timer stopped, a DIM one handed BRIGHT, a DARK one relit, and its lamp test ends with TEST off; from
level 3 its timer starts; to level 2 it is woken; from 1 to 0 a DARK panel is relit DIM; else the quiet handling changes
nothing, from 2 to 0 too, which R127 does not name (the model's choice, log 35). The show scheduler abandons the preload and empties the waiting entries of a suspended list, starts a resumed one at
index 0, and takes a content change. The quiet handling is first, but at a DARK panel on a change to 3 the show scheduler is
(the order is the model's choice, log 13). The watch expiry of a claim removes that claim; the level held is then the highest
that applies, its change being taken so; without one, a notice text that is another than before brings a content change for
every panel (R112, R120, R121, R127, R131, R149). -/
def Obligations.LevelChangesReachEveryPanel : Prop :=
  (∀ (s : State) (old new : Level),
    let held : State := { s with mode := { s.mode with level := new } }
    let shown := s.panelIds.foldl (fun t n => t.panelLevelChange old new n) held
    s.levelChanged old new = if new = .evacuate then shown.removePrompts (fun _ => true) else shown) ∧
  (∀ (s : State) (old new : Level) (n : Nat), s.panelLevelChange old new n =
    if new = .evacuate ∧ s.isDark n = true then (s.schedLevelChange old new n).quietLevelChange old new n
    else (s.quietLevelChange old new n).schedLevelChange old new n) ∧
  (∀ (s : State) (old new : Level) (n : Nat) (row : PanelRow) (q : QuietRec) (lamp : Option Clock),
    old ≠ new → s.mode.level = new → s.row n = some row → s.mode.quiet[n]? = some q → s.mode.lamps[n]? = some lamp →
    let ahead : Clock := s.cycle.clock + BitVec.ofNat 32 ((s.timing row).quiet * 1000)
    let put (state : Quiet) (timer : Option Clock) : State :=
      { s with mode := { s.mode with quiet := s.mode.quiet.set n { state := state, timer := timer } } }
    let bright (u : State) : State :=
      { u with links := u.links.modify n (fun l => l.hand (.bright row.awake) s.cycle.clock) }
    let awake (timer : Option Clock) : State :=
      if q.state = .awake then put .awake timer
      else if q.state = .dim then bright (put .awake timer)
      else (put .awake timer).relight n row.awake
    let tested (u : State) : State :=
      if lamp = none then u
      else { u with mode := { u.mode with lamps := u.mode.lamps.set n none },
                    links := u.links.modify n (fun l => l.hand (.test false) s.cycle.clock) }
    s.quietLevelChange old new n =
      if new = .evacuate then tested (awake none)
      else if old = .evacuate then put q.state (some ahead)
      else if new = .notice then awake (some ahead)
      else if old = .night ∧ new = .normal ∧ q.state = .dark then (put .dim (some ahead)).relight n row.dim
      else s) ∧
  (∀ (s : State) (old new : Level) (n : Nat) (row : PanelRow) (sc : Schedule),
    s.row n = some row → s.schedules[n]? = some sc →
    let cancelled : List LinkRec :=
      match sc.preload with
      | some p => if p.state = .loading then
          s.links.modify n (fun l => if l.state = .up then
            { l with queue := l.queue.filter (fun m => !m.isLoadOf p.load) } else l)
        else s.links
      | none => s.links
    s.schedLevelChange old new n =
      if row.kind = .lantern then s.contentChange n
      else if new = .evacuate then
        (({ s with links := cancelled } : State).withSched n { sc with preload := none, waiting := [] }).contentChange n
      else if old = .evacuate then (s.withSched n { sc with index := 0 }).contentChange n
      else s.contentChange n) ∧
  (∀ (s : State) (c : Claim), s.loader.state = .running → c ∈ s.mode.claims → reached c.expiry s.cycle.clock = true →
    ∃ t, exec (.claimWatchExpiry c.source) s = .next t ∧
      t.mode.claims = s.mode.claims.filter (fun x => x.source != c.source) ∧
      t.mode.level = (if s.mode.evacuation then .evacuate else if t.mode.claims ≠ [] then .notice
        else if s.mode.night then .night else .normal) ∧
      s.levelTaken t ∧
      (t.mode.level ≠ .evacuate ∨ s.mode.level = .evacuate → t.prompts.pool = s.prompts.pool) ∧
      (let removed : State := { s with mode := { s.mode with claims := t.mode.claims } }
       let text := t.mode.claims.getLast?.map (·.text) = s.mode.claims.getLast?.map (·.text)
       (t.mode.level ≠ s.mode.level → t = removed.levelChanged s.mode.level t.mode.level) ∧
       (t.mode.level = s.mode.level → ¬ text → t = removed.contentChanges s.panelIds) ∧
       (t.mode.level = s.mode.level → text → t = removed) ∧
       t = { removed with mode := { removed.mode with level := t.mode.level } }.promptsMoved t))

/-- When a panel's quiet timer expires, the panel goes DARK at service level 1 with the may-go-dark flag set, with its timer
stopped and BRIGHT 0 handed; in any other case an AWAKE panel goes DIM with its dim brightness handed, a DIM panel stays
DIM, and the timer restarts (R126). That the command changes nothing while the timer is not reached is the model's choice
(log 2). -/
def Obligations.QuietTimerExpires : Prop :=
  ∀ (s : State) (n : Nat) (row : PanelRow) (q : QuietRec) (e : Clock), s.loader.state = .running →
    s.row n = some row → s.mode.quiet[n]? = some q → q.state ≠ .dark → q.timer = some e →
    let quiet (state : Quiet) (timer : Option Clock) : ModeUnit :=
      { s.mode with quiet := s.mode.quiet.set n { state := state, timer := timer } }
    let bright (level : Nat) : List LinkRec := s.links.modify n (fun l => l.hand (.bright level) s.cycle.clock)
    let restarted : Option Clock := some (s.cycle.clock + BitVec.ofNat 32 ((s.timing row).quiet * 1000))
    let goesDark := s.mode.level = .night ∧ row.mayDark = true
    (reached e s.cycle.clock = false → exec (.quietTimerExpiry n) s = .next s) ∧
    (reached e s.cycle.clock = true →
      (goesDark → exec (.quietTimerExpiry n) s = .next { s with mode := quiet .dark none, links := bright 0 }) ∧
      (¬ goesDark → q.state = .awake →
        exec (.quietTimerExpiry n) s = .next { s with mode := quiet .dim restarted, links := bright row.dim }) ∧
      (¬ goesDark → q.state = .dim → exec (.quietTimerExpiry n) s = .next { s with mode := quiet .dim restarted }))

/-- A content change settles page index and scroll timer and composes the current page; with the panel AWAKE or DIM and its
link UP a page that differs from the last content handed is handed as LOAD and FLIP and displaces the preload, an equal one
hands nothing but the LOAD of a preload that is composed again and differs; else nothing is handed. A relight hands LOAD,
FLIP and BRIGHT whether or not the page differs. A scroll expiry advances the page index of a paged page, or returns it to 0
from the last view, restarts the timer one scroll step ahead, and is a content change (R147, R148, R150). -/
def Obligations.ContentChangesHandThePage : Prop :=
  (∀ (s : State) (n : Nat) (row : PanelRow) (sc : Schedule), s.row n = some row → s.schedules[n]? = some sc →
    let settled := s.settledSched n row sc
    let content := s.compose n sc.page settled.index
    let t := s.contentChange n
    let handed (work : List LinkMsg) : List LinkRec :=
      s.links.modify n (fun l => work.foldl (fun l m => l.hand m s.cycle.clock) l)
    let page : List LinkMsg := [.load content (sc.works + 1), .flip (sc.works + 2) false]
    let given : Schedule := { settled with
      works := sc.works + 2, last := some content, flip := some (sc.works + 2),
      preload := sc.preload.map (fun p => { p with state := .waiting }) }
    let reachable := s.isDark n = false ∧ s.linkUp n = true
    s.settlePaging n = s.withSched n settled ∧ s.settledContent n = content ∧
    (¬ reachable → t = s.withSched n settled) ∧
    (reachable → sc.last ≠ some content → t = ({ s with links := handed page } : State).withSched n given) ∧
    (reachable → sc.last = some content →
      (sc.preload = none → t = s.withSched n settled) ∧
      (∀ p, sc.preload = some p →
        let again := s.compose n p.page 0
        (p.state = .waiting ∨ p.content = some again → t = s.withSched n settled) ∧
        (p.state ≠ .waiting → p.content ≠ some again →
          t = ({ s with links := handed [.load again (sc.works + 1)] } : State).withSched n { settled with
            works := sc.works + 1,
            preload := some { p with content := some again, state := .loading, load := sc.works + 1 } }))) ∧
    (∀ level, s.relight n level = ({ s with links := handed (page ++ [.bright level]) } : State).withSched n given)) ∧
  (∀ (s : State) (n : Nat) (row : PanelRow) (sc : Schedule) (e : Clock), s.loader.state = .running →
    s.row n = some row → s.schedules[n]? = some sc → sc.scroll = some e → reached e s.cycle.clock = true →
    s.suspended row = false → 1 ≤ s.itemLines row → s.itemLines row < s.itemCount n row sc.page →
    let views := (s.itemCount n row sc.page + (s.itemLines row - 1)) / s.itemLines row
    let scrolled : Schedule := { sc with
      index := if sc.index + 1 < views then sc.index + 1 else 0,
      scroll := some (s.cycle.clock + BitVec.ofNat 32 (s.timing row).scroll) }
    ∃ t sc', exec (.scrollExpiry n) s = .next t ∧ t = (s.withSched n scrolled).contentChange n ∧
      t.schedules[n]? = some sc' ∧ sc'.index = scrolled.index ∧ sc'.scroll = scrolled.scroll ∧
      sc'.page = sc.page ∧ sc'.pointer = sc.pointer ∧ sc'.lang = sc.lang ∧ t = s.showMoved t)

/-! ### Sense lines -/

/-- A falling edge on a WAKE line wakes every panel of its mask: AWAKE with the timer restarted, BRIGHT handed to a DIM
panel, and the page, its FLIP and BRIGHT, in that order, to a DARK one; at level 3 it changes nothing (R125, R130, R150). -/
def Obligations.WakeLineWakesItsPanels : Prop :=
  ∀ (s : State) (line : Nat) (sense : SenseRow), s.loader.state = .running →
    s.loader.copy.senses[line]? = some sense → sense.function = .wake →
    (s.mode.level = .evacuate → exec (.senseLineEdge line) s = .next s) ∧
    (s.mode.level ≠ .evacuate → ∃ t, exec (.senseLineEdge line) s = .next t ∧ t = s.quietMoved t ∧
      t.mode.lamps = s.mode.lamps ∧
      (∀ (n : Nat) (row : PanelRow) (q : QuietRec), s.row n = some row → sense.mask.getLsbD n = true →
        s.mode.quiet[n]? = some q →
        (let timer : Clock := s.cycle.clock + BitVec.ofNat 32 ((s.timing row).quiet * 1000)
         t.mode.quiet[n]? = some { state := .awake, timer := some timer }) ∧
        (q.state = .awake → t.links[n]? = s.links[n]? ∧ t.schedules[n]? = s.schedules[n]?) ∧
        (q.state = .dim → t.schedules[n]? = s.schedules[n]? ∧
          t.links[n]? = (s.links[n]?).map (fun l => l.hand (.bright row.awake) s.cycle.clock)) ∧
        (∀ l sc, q.state = .dark → s.links[n]? = some l → s.schedules[n]? = some sc →
          t.lastContent n = some (s.settledContent n) ∧ t.links[n]? = some
            (((l.hand (.load (s.settledContent n) (sc.works + 1)) s.cycle.clock).hand
              (.flip (sc.works + 2) false) s.cycle.clock).hand (.bright row.awake) s.cycle.clock))) ∧
      (∀ n : Nat, (s.row n = none ∨ sense.mask.getLsbD n = false) →
        t.mode.quiet[n]? = s.mode.quiet[n]? ∧ t.links[n]? = s.links[n]? ∧ t.schedules[n]? = s.schedules[n]?))

/-- A falling edge on a TEST line below level 3 starts a lamp test of 5,000 ms on each panel of its mask, or sets the expiry
of a running one; at level 3 it is ignored; at the expiry the test ends and TEST off is handed (R131). -/
def Obligations.LampTestsRunAndEnd : Prop :=
  (∀ (s : State) (line : Nat) (sense : SenseRow), s.loader.state = .running →
    s.loader.copy.senses[line]? = some sense → sense.function = .test →
    (s.mode.level = .evacuate → exec (.senseLineEdge line) s = .next s) ∧
    (s.mode.level ≠ .evacuate → ∃ t, exec (.senseLineEdge line) s = .next t ∧ t = s.quietMoved t ∧
      (∀ (n : Nat) (row : PanelRow) (lamp : Option Clock) (q : QuietRec), s.row n = some row →
        sense.mask.getLsbD n = true → s.mode.lamps[n]? = some lamp → s.mode.quiet[n]? = some q →
        t.mode.lamps[n]? = some (some (s.cycle.clock + 5000)) ∧
        (let timer : Clock := s.cycle.clock + BitVec.ofNat 32 ((s.timing row).quiet * 1000)
         t.mode.quiet[n]? = some { state := .awake, timer := some timer }) ∧
        (let tested (l : LinkRec) : LinkRec := if lamp = none then l.hand (.test true) s.cycle.clock else l
         (q.state = .awake → t.links[n]? = (s.links[n]?).map tested) ∧
         (q.state = .dim →
           t.links[n]? = (s.links[n]?).map (fun l => tested (l.hand (.bright row.awake) s.cycle.clock))) ∧
         (∀ l sc, q.state = .dark → s.links[n]? = some l → s.schedules[n]? = some sc →
           t.lastContent n = some (s.settledContent n) ∧ t.links[n]? = some
             (tested (((l.hand (.load (s.settledContent n) (sc.works + 1)) s.cycle.clock).hand
               (.flip (sc.works + 2) false) s.cycle.clock).hand (.bright row.awake) s.cycle.clock))))) ∧
      (∀ n : Nat, (s.row n = none ∨ sense.mask.getLsbD n = false) →
        t.mode.lamps[n]? = s.mode.lamps[n]? ∧ t.mode.quiet[n]? = s.mode.quiet[n]? ∧ t.links[n]? = s.links[n]? ∧
          t.schedules[n]? = s.schedules[n]?))) ∧
  (∀ (s : State) (n : Nat) (e : Clock), s.loader.state = .running → s.mode.lamps[n]? = some (some e) →
    reached e s.cycle.clock = true →
    exec (.lampTestExpiry n) s = .next { s with
      mode := { s.mode with lamps := s.mode.lamps.set n none },
      links := s.links.modify n (fun l => l.hand (.test false) s.cycle.clock) })

/-- A falling edge on a LANGUAGE line toggles the pin of each panel of its mask, at every level, and no other pin, with a
content change for each of those panels. One on a REPORT line is captured with the cycle count and CT of the instant; with no
SENSE of the line in the queue and room, a SENSE frame with edge count 1 is queued and the capture is WAITING; a request that
LISTEN_ONLY drops leaves it ARMED, and so does one that finds the seven shared slots taken, which counts FRAMES_DROPPED and
raises QUEUE_OVERFLOW (R7, R14, R128, R129, R132). -/
def Obligations.LanguageAndReportLines : Prop :=
  (∀ (s : State) (line : Nat) (sense : SenseRow), s.loader.state = .running →
    s.loader.copy.senses[line]? = some sense → sense.function = .language →
    ∃ t pins, exec (.senseLineEdge line) s = .next t ∧
      (∀ (n : Nat) (pin : Bool), s.mode.pins[n]? = some pin →
        t.mode.pins[n]? = some (if (s.row n).isSome ∧ sense.mask.getLsbD n = true then !pin else pin)) ∧
      t = ({ s with mode := { s.mode with pins := pins } } : State).contentChanges
        (s.panelIds.filter (fun n => sense.mask.getLsbD n)) ∧
      t = { s with mode := { s.mode with pins := t.mode.pins } }.showMoved t) ∧
  (∀ (s : State) (line : Nat) (sense : SenseRow), s.loader.state = .running →
    s.loader.copy.senses[line]? = some sense → sense.function = .report →
    let captured (armed : Bool) : ModeUnit := { s.mode with
      captures := s.mode.captures.modify line (fun _ => { armed := armed, latest := some (s.cycle.count, s.ct) }) }
    (s.bus.state = .listenOnly → exec (.senseLineEdge line) s = .next
      { s.count .framesDropped with mode := captured true }) ∧
    (s.bus.state = .active → (∀ g ∈ s.bus.queue, g.takes (.sense line 1 s.cycle.count s.ct) = false) →
      frameCount TxFrame.shared s.bus.queue < 7 →
      let queue := insertFrame (newFrame (.sense line 1 s.cycle.count s.ct)) s.bus.queue
      exec (.senseLineEdge line) s = .next
        { s with mode := captured false, bus := { s.bus with queue := queue } }) ∧
    (s.bus.state = .active → (∀ g ∈ s.bus.queue, g.takes (.sense line 1 s.cycle.count s.ct) = false) →
      7 ≤ frameCount TxFrame.shared s.bus.queue →
      exec (.senseLineEdge line) s = .next
        { s with
          mode := captured true,
          bus := { s.bus with queue := s.bus.queue.map (TxFrame.dropItem .queueOverflow) },
          status := { s.status with
            counters := { s.status.counters with framesDropped := counted s.status.counters.framesDropped 1 },
            exceptions := { s.status.exceptions with queueOverflow := true } } }) ∧
    (s.bus.state = .active → (∃ g ∈ s.bus.queue, g.takes (.sense line 1 s.cycle.count s.ct) = true) →
      let queue := s.bus.queue.map (fun g =>
        if g.takes (.sense line 1 s.cycle.count s.ct) then g.coalesce (.sense line 1 s.cycle.count s.ct) else g)
      exec (.senseLineEdge line) s = .next
        { s with mode := captured false, bus := { s.bus with queue := queue } }))

/-! ### The show -/

/-- At its preload instant an entry that matches and has not acted takes its preload by the state of the panel: with none
pending and no FLIP outstanding its page is composed at index 0 and the LOAD handed (LOADING); with a FLIP outstanding it is
WAITING; behind a pending preload the entry joins the waiting list; a continuing entry, a LANGUAGE entry, and an entry of a
DARK panel, of a link not UP or of a suspended list take none. When no preload is pending the waiting entries leave the list
in order until one begins (R136, R138, R139, R150). That a continuing entry is judged here against the current page, when no
preload is pending, is the rule's own page in prospect. -/
def Obligations.PreloadInstantLoadsThePage : Prop :=
  (∀ (s : State) (n i : Nat) (row : PanelRow) (sc : Schedule) (e : ShowEntry),
    s.loader.state = .running → s.row n = some row → s.schedules[n]? = some sc →
    sc.instants = i → row.list[i]? = some e → e.mark - (s.timing row).lead ≤ s.ct →
    (∀ later, row.list[i + 1]? = some later → s.ct < later.mark - (s.timing row).lead) →
    let takes := s.cycle.count.toNat % e.period = e.phase ∧ ∃ p, sc.pointer = some p ∧ p ≤ i
    let may := s.isDark n = false ∧ s.linkUp n = true ∧ s.suspended row = false
    let passed : Schedule := { sc with instants := i + 1 }
    let x := exec (.preloadInstant n) s
    (¬ takes ∨ ¬ may ∨ (∃ lang, e.action = .language lang) → x = .next (s.withSched n passed)) ∧
    (∀ page, takes → may → e.action = .page page →
      (∀ pre, sc.preload = some pre → x = .next (s.withSched n { passed with waiting := sc.waiting ++ [i] })) ∧
      (sc.preload = none → page = sc.page → x = .next (s.withSched n passed)) ∧
      (∀ work, sc.preload = none → page ≠ sc.page → sc.flip = some work → x = .next (s.withSched n { passed with
        preload := some { entry := i, page := page, content := none, state := .waiting, load := 0 } })) ∧
      (sc.preload = none → page ≠ sc.page → sc.flip = none →
        let content := s.compose n page 0
        let links := s.links.modify n (fun l => l.hand (.load content (sc.works + 1)) s.cycle.clock)
        x = .next (({ s with links := links } : State).withSched n { passed with
          works := sc.works + 1,
          preload := some { entry := i, page := page, content := some content, state := .loading,
                            load := sc.works + 1 } })))) ∧
  (∀ (s : State) (n : Nat) (sc : Schedule), s.schedules[n]? = some sc →
    (sc.waiting = [] → s.startWaiting n = s) ∧
    (∀ i rest, sc.waiting = i :: rest →
      (sc.preload ≠ none → s.startWaiting n = s) ∧
      (sc.preload = none →
        let begun := (s.withSched n { sc with waiting := rest }).beginPreload n i
        s.startWaiting n = begun.startWaiting n))) ∧
  (∀ (s : State) (n i : Nat) (row : PanelRow) (sc : Schedule) (e : ShowEntry) (page : Page),
    s.row n = some row → s.schedules[n]? = some sc → row.list[i]? = some e → e.action = .page page →
    let may := s.isDark n = false ∧ s.linkUp n = true ∧ s.suspended row = false
    let content := s.compose n page 0
    let links := s.links.modify n (fun l => l.hand (.load content (sc.works + 1)) s.cycle.clock)
    (¬ may ∨ page = sc.page → s.beginPreload n i = s) ∧
    (∀ work, may → page ≠ sc.page → sc.flip = some work → s.beginPreload n i = s.withSched n { sc with
      preload := some { entry := i, page := page, content := none, state := .waiting, load := 0 } }) ∧
    (may → page ≠ sc.page → sc.flip = none → s.beginPreload n i =
      ({ s with links := links } : State).withSched n { sc with
        works := sc.works + 1,
        preload := some { entry := i, page := page, content := some content, state := .loading,
                          load := sc.works + 1 } }))

/-- At its mark an entry acts alone and the pointer moves on to the next matching entry. An entry of a suspended list takes no
action. A LANGUAGE action changes the current language with a content change, unless the pin is set or the language stands.
The entry's own preload makes its page current at index 0: when LOADING or LOADED its FLIP is handed and its content becomes
the last content handed, when WAITING the page is composed and LOAD and FLIP handed, on a DARK panel nothing is handed; the
waiting entries then begin. Without a preload of its own, an entry whose page is the current page moves the pointer alone,
and any other page becomes current with a content change (R136, R138, R139, R150). That an entry without a preload of its own
is judged continuing at its mark against the current page, another entry's preload pending or not, is the model's choice (log
15). -/
def Obligations.MarkMakesThePageCurrent : Prop :=
  ∀ (s : State) (n i : Nat) (row : PanelRow) (sc : Schedule) (e : ShowEntry),
    s.loader.state = .running → s.row n = some row → s.schedules[n]? = some sc →
    sc.pointer = some i → row.list[i]? = some e →
    s.cycle.count.toNat % e.period = e.phase → e.mark ≤ s.ct →
    let next := nextMatch s.cycle.count (row.list.drop (i + 1)) (i + 1)
    (∀ j later, next = some j → row.list[j]? = some later → s.ct < later.mark) →
    let x := exec (.showMark n) s
    let moved : Schedule := { sc with pointer := next }
    let shows (page : Page) : Schedule :=
      s.settledSched n row { moved with page := page, index := 0, scroll := none }
    (s.suspended row = true → x = .next (s.withSched n moved)) ∧
    (∀ lang, s.suspended row = false → e.action = .language lang →
      (s.pin n = true ∨ sc.lang = lang → x = .next (s.withSched n moved)) ∧
      (s.pin n = false → sc.lang ≠ lang → x = .next ((s.withSched n { moved with lang := lang }).contentChange n))) ∧
    (∀ page, s.suspended row = false → e.action = .page page →
      ((∀ pre, sc.preload = some pre → pre.entry ≠ i) →
        (page = sc.page → x = .next (s.withSched n moved)) ∧
        (page ≠ sc.page → x = .next ((s.withSched n (shows page)).contentChange n) ∧
          ∃ t sc', x = .next t ∧ t = s.showMoved t ∧ t.schedules[n]? = some sc' ∧
            sc'.page = page ∧ sc'.index = 0 ∧ sc'.pointer = next ∧ sc'.lang = sc.lang)) ∧
      (∀ pre, sc.preload = some pre → pre.entry = i → pre.page = page →
        let bare : Schedule := { shows page with preload := none }
        let fresh := s.compose n page 0
        let handed (work : List LinkMsg) : List LinkRec :=
          s.links.modify n (fun l => work.foldl (fun l m => l.hand m s.cycle.clock) l)
        let flipped (content : Content) (works : Nat) (work : List LinkMsg) : State :=
          ({ s with links := handed work } : State).withSched n
            { bare with works := works, last := some content, flip := some works }
        (s.isDark n = true → x = .next ((s.withSched n bare).startWaiting n)) ∧
        (s.isDark n = false → pre.state = .waiting → x = .next ((flipped fresh (sc.works + 2)
          [.load fresh (sc.works + 1), .flip (sc.works + 2) true]).startWaiting n)) ∧
        (∀ content, s.isDark n = false → pre.state ≠ .waiting → pre.content = some content →
          x = .next ((flipped content (sc.works + 1) [.flip (sc.works + 1) true]).startWaiting n))))

/-! ### The links -/

/-- Work handed to a link that is not UP is discarded; to an idle UP link it is sent at once; else it waits. A LOAD takes the
place of a queued LOAD. A FLIP is taken into a queued FLIP with no LOAD behind it, and is late when either is: a FLIP handed
at a mark is late when a LOAD is queued or in flight. A BRIGHT or TEST takes out a queued one. What does not go so joins the
tail; where three messages wait, the oldest BRIGHT goes and leaves brightness stale, or else the LOAD with every FLIP behind
it, the new one too, and leaves the page stale, or else the oldest CHIME. Three messages wait at most (R151, R152, R156 to
R160). That a FLIP is late behind an older LOAD in flight, where the LOAD handed last was dropped, is the model's choice (log
38). -/
def Obligations.LinksTakeWork : Prop :=
  (∀ (l : LinkRec) (m : LinkMsg) (now : Clock), l.state ≠ .up → l.hand m now = l) ∧
  (∀ (l : LinkRec) (m : LinkMsg) (now : Clock), l.state = .up → l.inFlight = none → l.queue = [] →
    m.isFlip = false → l.hand m now = sending l m now) ∧
  (∀ (l : LinkRec) (work : Nat) (atMark : Bool) (now : Clock), l.state = .up → l.inFlight = none → l.queue = [] →
    l.hand (.flip work atMark) now = sending l (.flip work false) now) ∧
  (∀ (l : LinkRec) (f : InFlight) (now : Clock), l.state = .up → l.inFlight = some f → l.queue.length ≤ 3 →
    let late (atMark : Bool) : Bool := atMark && (l.queue.any LinkMsg.isLoad || f.msg.isLoad)
    let joins (q : List LinkMsg) (m : LinkMsg) (l' : LinkRec) : Prop :=
      (q.length < 3 → l' = { l with queue := q ++ [m] }) ∧
      (∀ first x rest, q.length = 3 → q = first ++ x :: rest → x.isBright = true → first.any LinkMsg.isBright = false →
        l' = { l with queue := first ++ rest ++ [m], brightStale := true }) ∧
      (∀ first x rest, q.length = 3 → q.any LinkMsg.isBright = false → q = first ++ x :: rest → x.isLoad = true →
        first.any LinkMsg.isLoad = false →
        l' = { l with queue := first ++ rest.filter (fun y => !y.isFlip) ++ (if m.isFlip then [] else [m]),
                      pageStale := true }) ∧
      (∀ first x rest, q.length = 3 → q.any LinkMsg.isBright = false → q.any LinkMsg.isLoad = false →
        q = first ++ x :: rest → x.isChime = true → first.any LinkMsg.isChime = false →
        l' = { l with queue := first ++ rest ++ [m] })
    (∀ content work, l.queue.any LinkMsg.isLoad = true → l.hand (.load content work) now =
      { l with queue := l.queue.map (fun x => if x.isLoad then .load content work else x) }) ∧
    (∀ content work, l.queue.any LinkMsg.isLoad = false →
      joins l.queue (.load content work) (l.hand (.load content work) now)) ∧
    (∀ first w wasLate rest work atMark, l.queue = first ++ .flip w wasLate :: rest → rest.any LinkMsg.isFlip = false →
      rest.any LinkMsg.isLoad = false →
      l.hand (.flip work atMark) now = { l with queue := first ++ .flip work (wasLate || late atMark) :: rest }) ∧
    (∀ work atMark, (∀ first w wasLate rest, l.queue = first ++ .flip w wasLate :: rest → rest.any LinkMsg.isLoad = true) →
      joins l.queue (.flip work (late atMark)) (l.hand (.flip work atMark) now)) ∧
    (∀ level, joins (l.queue.filter (fun x => !x.isBright)) (.bright level) (l.hand (.bright level) now)) ∧
    (∀ on, joins (l.queue.filter (fun x => !x.isTest)) (.test on) (l.hand (.test on) now)) ∧
    (∀ strokes, joins l.queue (.chime strokes) (l.hand (.chime strokes) now)) ∧
    (∀ m, (l.hand m now).queue.length ≤ 3))

/-- A matching ACK of a BRIGHT, TEST, CHIME or LOAD ends the transaction; load complete makes LOADED the preload that the
LOAD was handed for last; the next message of the queue is sent, a late FLIP being counted; a drained link with a stale flag
restores its module; a module state other than OK raises MODULE_FAULT for the panel (R139, R152, R158, R161). That the
refresh of a drained link empties the waiting entries is the model's choice (log 37). -/
def Obligations.AckSendsTheNextMessage : Prop :=
  ∀ (s : State) (n : Nat) (l : LinkRec) (f : InFlight) (moduleState : Byte), n < 8 →
    s.links[n]? = some l → l.state = .up → l.inFlight = some f →
    f.msg.isFlip = false → (∀ width lines, f.msg ≠ .probe width lines) →
    let loaded (work : Nat) : List Schedule := s.schedules.modify n (fun sc => { sc with
      preload := sc.preload.map (fun p =>
        if p.state = .loading ∧ p.load = work then { p with state := .loaded } else p) })
    let told : List Schedule :=
      match f.msg with
      | .load _ work => if s.loader.state = .running then loaded work else s.schedules
      | _ => s.schedules
    ∃ t, exec (.linkAck n f.tag moduleState) s = .next t ∧
      (∀ m rest, l.queue = m :: rest →
        t.links[n]? = some { sending l m s.cycle.clock with queue := rest } ∧ t.schedules = told ∧
        t.status.counters.lateFlips =
          (if m.isLateFlip then counted s.status.counters.lateFlips 1 else s.status.counters.lateFlips)) ∧
      (l.queue = [] → l.pageStale = false → l.brightStale = false →
        t.links[n]? = some { l with inFlight := none } ∧ t.schedules = told ∧ t.status.counters = s.status.counters) ∧
      (l.queue = [] → s.refreshed n l told t) ∧
      (∀ j, t.status.exceptions.has j =
        (s.status.exceptions.has j || (decide (j = .moduleFault n) && moduleState != 0))) ∧
      (∀ k, k ≠ n → t.links[k]? = s.links[k]?) ∧
      t.cars = s.cars ∧ t.prompts = s.prompts ∧ t.mode = s.mode ∧ t.stops = s.stops ∧ t.cycle = s.cycle ∧
      t.loader = s.loader

/-- A matching ACK of a FLIP ends the transaction; flip complete clears the flip outstanding when it answers the FLIP handed
last, and a WAITING preload of a panel that is not DARK is then composed and its LOAD handed; then the next message is sent,
or a drained link with a stale flag restores its module (R139, R150, R152, R158, R161; that the completion is reported before
the next message is sent, and that a refresh empties the waiting entries, are the model's choices, log 14 and log 37). -/
def Obligations.AckOfAFlipFreesTheModule : Prop :=
  ∀ (s : State) (n : Nat) (l : LinkRec) (f : InFlight) (work : Nat) (late : Bool) (moduleState : Byte), n < 8 →
    s.links[n]? = some l → l.state = .up → l.inFlight = some f → f.msg = .flip work late →
    let idle : LinkRec := { l with inFlight := none }
    let goesOn (t : State) (told : List Schedule) : Prop :=
      (∀ m rest, l.queue = m :: rest →
        t.links[n]? = some { sending idle m s.cycle.clock with queue := rest } ∧ t.schedules = told ∧
        t.status.counters.lateFlips =
          (if m.isLateFlip then counted s.status.counters.lateFlips 1 else s.status.counters.lateFlips)) ∧
      (l.queue = [] → l.pageStale = false → l.brightStale = false →
        t.links[n]? = some idle ∧ t.schedules = told ∧ t.status.counters = s.status.counters) ∧
      (l.queue = [] → s.refreshed n l told t)
    ∃ t, exec (.linkAck n f.tag moduleState) s = .next t ∧
      (s.loader.state ≠ .running → goesOn t s.schedules) ∧
      (∀ sc, s.loader.state = .running → s.schedules[n]? = some sc →
        (sc.flip ≠ some work → goesOn t s.schedules) ∧
        (sc.flip = some work → (∀ p, sc.preload = some p → p.state ≠ .waiting ∨ s.isDark n = true) →
          goesOn t (s.schedules.set n { sc with flip := none })) ∧
        (∀ p, sc.flip = some work → sc.preload = some p → p.state = .waiting → s.isDark n = false →
          let content := s.compose n p.page 0
          let given := idle.hand (.load content (sc.works + 1)) s.cycle.clock
          t.schedules = s.schedules.set n { sc with
            flip := none, works := sc.works + 1,
            preload := some { p with content := some content, state := .loading, load := sc.works + 1 } } ∧
          (l.queue = [] → t.links[n]? = some (sending idle (.load content (sc.works + 1)) s.cycle.clock)) ∧
          (∀ m rest, l.queue ≠ [] → given.queue = m :: rest →
            t.links[n]? = some { sending given m s.cycle.clock with queue := rest }))) ∧
      (∀ j, t.status.exceptions.has j =
        (s.status.exceptions.has j || (decide (j = .moduleFault n) && moduleState != 0))) ∧
      (∀ k, k ≠ n → t.links[k]? = s.links[k]?) ∧
      t.cars = s.cars ∧ t.prompts = s.prompts ∧ t.mode = s.mode ∧ t.stops = s.stops ∧ t.cycle = s.cycle ∧
      t.loader = s.loader

/-- A PROBE answered with ACK, whatever module state it carries, makes the link UP, raises MODULE_FAULT for the panel when
that state is not OK, and restores its module: in RUNNING the current page as it is composed then,
its FLIP and BRIGHT at the display brightness, or BRIGHT 0 alone when the panel is DARK; in IMAGE_FAULT the service page, its
FLIP and BRIGHT 8. At a reprobe expiry a FAULTED link sends one PROBE with the panel row's width and lines, or 8 and 1
without a row, and the timer restarts 5,000 ms after this expiry (R27, R150, R152, R154, R155). -/
def Obligations.ProbesRestoreTheModule : Prop :=
  (∀ (s : State) (n width lines : Nat) (l : LinkRec) (f : InFlight),
    s.links[n]? = some l → (l.state = .probing ∨ l.state = .faulted) → l.inFlight = some f →
    f.msg = .probe width lines → ∀ moduleState : Byte,
    let up : LinkRec := { l with state := .up, inFlight := none, queue := [], pageStale := false, brightStale := false,
                                 reprobe := none }
    let told : State := if moduleState = 0 then s else s.raise (.moduleFault n)
    ∃ t, exec (.linkAck n f.tag moduleState) s = .next t ∧
      (∀ j, t.status.exceptions.has j =
        (s.status.exceptions.has j || (decide (j = .moduleFault n ∧ n < 8) && moduleState != 0))) ∧
      (let page : LinkRec := sending up (.load [List.replicate 8 0x2D#8] 0) s.cycle.clock
       let served : LinkRec := { page with queue := [.flip 0 false, .bright 8] }
       s.loader.state = .imageFault → t = { told with links := s.links.set n served }) ∧
      (∀ row sc, s.loader.state = .running → s.row n = some row → s.schedules[n]? = some sc → s.isDark n = false →
        t = told.showMoved t ∧ t.lastContent n = some (s.settledContent n) ∧ t.links = s.links.set n
          { sending up (.load (s.settledContent n) (sc.works + 1)) s.cycle.clock with
            queue := [.flip (sc.works + 2) false, .bright (s.displayBrightness n)] }) ∧
      (∀ row, s.loader.state = .running → s.row n = some row → s.isDark n = true →
        t = told.showMoved t ∧ t.links = s.links.set n (sending up (.bright 0) s.cycle.clock))) ∧
  (∀ (s : State) (n : Nat) (l : LinkRec) (e : Clock), s.links[n]? = some l → l.state = .faulted →
    l.reprobe = some e → reached e s.cycle.clock = true →
    let probed (width lines : Nat) : LinkRec :=
      { sending l (.probe width lines) s.cycle.clock with reprobe := some (e + 5000) }
    (∀ row : PanelRow, s.row n = some row →
      exec (.reprobeExpiry n) s = .next { s with links := s.links.set n (probed row.width row.lines) }) ∧
    (s.row n = none → exec (.reprobeExpiry n) s = .next { s with links := s.links.set n (probed 8 1) }))

/-- An attempt that ends by a matching NAK or at its timeout is repeated with a new tag and counted in LINK_RETRIES; after the
third the link is FAULTED with nothing queued, LINK_FAULT is raised and the reprobe timer runs 5,000 ms; the single attempt
of a reprobe is not repeated (R153, R154). -/
def Obligations.FailedLinkAttemptIsRetried : Prop :=
  ∀ (s : State) (n : Nat) (l : LinkRec) (f : InFlight) (c : Instr), n < 8 →
    s.links[n]? = some l → l.inFlight = some f →
    (c = .linkNak n f.tag ∨ (c = .linkTimeout n ∧ reached f.expiry s.cycle.clock = true)) →
    ∃ t, exec c s = .next t ∧
      (l.state ≠ .faulted → f.attempt < 3 → t = { s with
        links := s.links.set n { l with
          tag := l.tag + 1,
          inFlight := some { f with tag := l.tag + 1, attempt := f.attempt + 1, expiry := s.cycle.clock + 40 } },
        status := { s.status with counters := { s.status.counters with
          linkRetries := counted s.status.counters.linkRetries 1 } } }) ∧
      (l.state ≠ .faulted → 3 ≤ f.attempt →
        t.links = s.links.set n { l with
          state := .faulted, inFlight := none, queue := [], pageStale := false, brightStale := false,
          reprobe := some (s.cycle.clock + 5000) } ∧
        t.status.exceptions = { s.status.exceptions with
          linkFault := s.status.exceptions.linkFault ||| BitVec.ofNat 8 (2 ^ n) } ∧
        t.status.counters = s.status.counters ∧
        t.schedules = (if l.state = .up ∧ s.loader.state = .running then
          s.schedules.modify n (fun sc => { sc with preload := none, waiting := [], flip := none, last := none })
          else s.schedules) ∧
        t.cars = s.cars ∧ t.prompts = s.prompts ∧ t.mode = s.mode ∧ t.stops = s.stops ∧ t.cycle = s.cycle ∧
        t.loader = s.loader) ∧
      (l.state = .faulted → t = { s with links := s.links.set n { l with inFlight := none } })

/-- A reply passes the link's check exactly when its type is ACK with length 1 or NAK with length 0 and its check is the CRC
over it; one that fails the check or matches no tag is discarded without counting; and the event of a timer that does not
run, or of an attempt that is not there, changes nothing (R152, R171; the last part is the model's choice, log 2). -/
def Obligations.EventsWithoutACauseChangeNothing : Prop :=
  (∀ (bytes : List Byte) (tag moduleState : Byte), parseReply bytes = some (.ack tag moduleState) ↔
    ∃ c1 c2 : Byte, bytes = [128, tag, 1, moduleState, c1, c2] ∧ c1 ++ c2 = crc [128, tag, 1, moduleState]) ∧
  (∀ (bytes : List Byte) (tag : Byte), parseReply bytes = some (.nak tag) ↔
    ∃ c1 c2 : Byte, bytes = [129, tag, 0, c1, c2] ∧ c1 ++ c2 = crc [129, tag, 0]) ∧
  ∀ s : State,
    (∀ n bytes, parseReply bytes = none → exec (.linkReplyBad n bytes) s = .next s) ∧
    (∀ n bytes tag moduleState, parseReply bytes = some (.ack tag moduleState) →
      exec (.linkReplyBad n bytes) s = exec (.linkAck n tag moduleState) s) ∧
    (∀ n bytes tag, parseReply bytes = some (.nak tag) → exec (.linkReplyBad n bytes) s = exec (.linkNak n tag) s) ∧
    (∀ n tag moduleState, (∀ l f, s.links[n]? = some l → l.inFlight = some f → f.tag ≠ tag) →
      exec (.linkAck n tag moduleState) s = .next s ∧ exec (.linkNak n tag) s = .next s ∧
      (∀ bytes, parseReply bytes = some (.ack tag moduleState) ∨ parseReply bytes = some (.nak tag) →
        exec (.linkReplyBad n bytes) s = .next s)) ∧
    (∀ n, (∀ l, s.links[n]? = some l → l.inFlight = none) → exec (.linkTimeout n) s = .next s) ∧
    (∀ n, (∀ l, s.links[n]? = some l → l.reprobe = none) → exec (.reprobeExpiry n) s = .next s) ∧
    (∀ slot r, s.cars[slot]? = some r → r.timer = none → exec (.indicationTimerExpiry slot) s = .next s) ∧
    (∀ n q, s.mode.quiet[n]? = some q → q.timer = none → exec (.quietTimerExpiry n) s = .next s) ∧
    (∀ n, s.mode.lamps[n]? = some none → exec (.lampTestExpiry n) s = .next s) ∧
    (∀ n sc, s.schedules[n]? = some sc → sc.scroll = none → exec (.scrollExpiry n) s = .next s) ∧
    (∀ ticket, (∀ p ∈ s.prompts.pool, p.ticket ≠ ticket) → exec (.holdExpiry ticket) s = .next s) ∧
    (∀ source, (∀ c ∈ s.mode.claims, c.source ≠ source) → exec (.claimWatchExpiry source) s = .next s) ∧
    (s.ct < s.loader.copy.lc → exec .tempoThreshold s = .next s ∧ exec .localRestart s = .next s) ∧
    ((∀ g ∈ s.bus.queue, g.state = .queued) →
      exec .lostArbitration s = .next s ∧ exec .failedAttempt s = .next s ∧ exec .attemptCompleted s = .next s) ∧
    (∀ memory, s.loader.state ≠ .loading → exec (.endOfLoading memory) s = .next s)

/-! ### Invariants of every step -/

/-- Every step keeps the transmit queue ordered, within its eight slots, with one frame on the bus at most, empty in
LISTEN_ONLY and LOADING, in agreement with the pending-tempo flag, and the failure count within 0..255 (R6, R11, R13, R14,
R17, R38). -/
def Obligations.EveryStepKeepsTheTransmitQueue : Prop :=
  ∀ s t : State, s.txOk → step s = .next t → t.txOk

/-- Every step keeps eight link records within the rules of chapter 10 (R151, R154, R156, R157, R159). -/
def Obligations.EveryStepKeepsTheLinks : Prop :=
  ∀ s t : State, s.linksOk → step s = .next t → t.linksOk

/-- Every step keeps the prompt pool within its capacities, without a ticket twice and without two entries of a panel that share
destination, car and deck, empty while the evacuation latch is set, and the service level as the zone mode record derives it;
and it keeps the car of every SHOWN or BOARDING entry TRACKED or STALE and in NORMAL service (R99, R102 to R104, R111, R112,
R121). -/
def Obligations.EveryStepKeepsThePool : Prop :=
  ∀ s t : State, s.poolOk → s.promptsFit → step s = .next t → t.poolOk ∧ t.promptsFit

/-- Every step keeps each car record's ranges, its silence count within those of its tracking state, and its timer running
exactly for a TRACKED, anchored, running car (R52, R53, R59 to R63). -/
def Obligations.EveryStepKeepsTheCarRecords : Prop :=
  ∀ s t : State, s.carsOk → step s = .next t → t.carsOk
end

