-- ==== Sys2Proof/Laws/Frames.lean ====
section
/-! SUPPORT. What each shared operation leaves alone: an eraser hides the fields that a layer of operations may change, and
one lemma per operation says that everything else stays. -/

namespace Sys2Proof.Machine

/-! ### Erasers -/

/-- All but what the show scheduler and the links change: schedules and links. -/
def State.forShow (s : State) : State := { s with links := [], schedules := [] }

/-- All but schedules, links, and the counters SKIPPED_MARKS and LATE_FLIPS. -/
def State.forCount (s : State) : State :=
  { s.forShow with status := { s.status with
      counters := { s.status.counters with skippedMarks := 0, lateFlips := 0 } } }

/-- All but what quiet handling changes as well: quiet records and lamp tests. -/
def State.forQuiet (s : State) : State :=
  { s.forShow with mode := { s.mode with quiet := [], lamps := [] } }

/-- All but what the prompt manager changes as well: pool, levels, transmit queue, three counters and QUEUE_OVERFLOW. -/
def State.forPrompts (s : State) : State :=
  let t := s.forQuiet
  { t with
    prompts := { pool := [], levels := [] }, bus := { t.bus with queue := [] },
    status := { t.status with
      counters := { t.status.counters with framesDropped := 0, evictions := 0, assignIgnored := 0 },
      exceptions := { t.status.exceptions with queueOverflow := false } } }

/-- All but what the stops and lantern unit changes beyond quiet handling: stop sets, lanterns and the free-value
counter. -/
def State.forLanterns (s : State) : State :=
  { s.forQuiet with stops := { decks := [], lanterns := [] }, free := 0 }

/-- All but what a car state change event changes as well: stop sets, lanterns and the free-value counter. -/
def State.forCar (s : State) : State :=
  { s.forPrompts with stops := { decks := [], lanterns := [] }, free := 0 }

/-- All but what the car tracker changes as well: the car records, its three counters and its two items. -/
def State.forTracker (s : State) : State :=
  let t := s.forCar
  { t with
    cars := [],
    status := { t.status with
      counters := { t.status.counters with fieldRange := 0, levelDisagree := 0, unanchoredSteps := 0 },
      exceptions := { t.status.exceptions with positionRange := 0, carLost := 0 } } }

/-- All but what a cycle start changes as well: the counters SKIPPED_MARKS and LATE_FLIPS. -/
def State.forCycle (s : State) : State :=
  let t := s.forTracker
  { t with status := { t.status with counters := { t.status.counters with skippedMarks := 0, lateFlips := 0 } } }

/-- A layer includes the one below it. -/
theorem forCount_of_forShow {s t : State} (h : t.forShow = s.forShow) : t.forCount = s.forCount :=
  congrArg (fun u : State => { u with status := { u.status with
    counters := { u.status.counters with skippedMarks := 0, lateFlips := 0 } } }) h

/-- A layer includes the one below it. -/
theorem forQuiet_of_forShow {s t : State} (h : t.forShow = s.forShow) : t.forQuiet = s.forQuiet :=
  congrArg (fun u : State => { u with mode := { u.mode with quiet := [], lamps := [] } }) h

/-- A layer includes the one below it. -/
theorem forPrompts_of_forQuiet {s t : State} (h : t.forQuiet = s.forQuiet) : t.forPrompts = s.forPrompts :=
  congrArg (fun u : State => { u with
    prompts := { pool := [], levels := [] }, bus := { u.bus with queue := [] },
    status := { u.status with
      counters := { u.status.counters with framesDropped := 0, evictions := 0, assignIgnored := 0 },
      exceptions := { u.status.exceptions with queueOverflow := false } } }) h

/-- A layer includes the one below it. -/
theorem forLanterns_of_forQuiet {s t : State} (h : t.forQuiet = s.forQuiet) : t.forLanterns = s.forLanterns :=
  congrArg (fun u : State => { u with stops := { decks := [], lanterns := [] }, free := 0 }) h

/-- A layer includes the one below it. -/
theorem forCar_of_forPrompts {s t : State} (h : t.forPrompts = s.forPrompts) : t.forCar = s.forCar :=
  congrArg (fun u : State => { u with stops := { decks := [], lanterns := [] }, free := 0 }) h

/-- A layer includes the one below it. -/
theorem forCar_of_forLanterns {s t : State} (h : t.forLanterns = s.forLanterns) : t.forCar = s.forCar :=
  congrArg (fun u : State => { u with
    prompts := { pool := [], levels := [] }, bus := { u.bus with queue := [] },
    status := { u.status with
      counters := { u.status.counters with framesDropped := 0, evictions := 0, assignIgnored := 0 },
      exceptions := { u.status.exceptions with queueOverflow := false } } }) h

/-- A layer includes the one below it. -/
theorem forTracker_of_forCar {s t : State} (h : t.forCar = s.forCar) : t.forTracker = s.forTracker :=
  congrArg (fun u : State => { u with
    cars := [],
    status := { u.status with
      counters := { u.status.counters with fieldRange := 0, levelDisagree := 0, unanchoredSteps := 0 },
      exceptions := { u.status.exceptions with positionRange := 0, carLost := 0 } } }) h

/-- A layer includes the one below it. -/
theorem forCycle_of_forTracker {s t : State} (h : t.forTracker = s.forTracker) : t.forCycle = s.forCycle :=
  congrArg (fun u : State => { u with status := { u.status with
    counters := { u.status.counters with skippedMarks := 0, lateFlips := 0 } } }) h

/-- A layer includes the one below it. -/
theorem forCycle_of_forCount {s t : State} (h : t.forCount = s.forCount) : t.forCycle = s.forCycle :=
  congrArg (fun u : State => { u with
    mode := { u.mode with quiet := [], lamps := [] }, prompts := { pool := [], levels := [] },
    bus := { u.bus with queue := [] }, stops := { decks := [], lanterns := [] }, free := 0, cars := [],
    status := { u.status with
      counters := { u.status.counters with
        framesDropped := 0, evictions := 0, assignIgnored := 0, fieldRange := 0, levelDisagree := 0,
        unanchoredSteps := 0 },
      exceptions := { u.status.exceptions with queueOverflow := false, positionRange := 0, carLost := 0 } } }) h

/-! ### What an eraser's equation says, written out -/

/-- What the show scheduler and the link controller may have changed. -/
theorem eq_of_forShow {s t : State} (h : t.forShow = s.forShow) : t = s.showMoved t := by
  cases s; cases t
  simp_all [State.forShow, State.showMoved]

/-- What quiet handling may have changed as well. -/
theorem eq_of_forQuiet {s t : State} (h : t.forQuiet = s.forQuiet) : t = s.quietMoved t := by
  obtain ⟨_, _, _, _, _, _, ⟨_, _, _, _, _, _, _, _, _⟩, _, _, _, _, _⟩ := s
  obtain ⟨_, _, _, _, _, _, ⟨_, _, _, _, _, _, _, _, _⟩, _, _, _, _, _⟩ := t
  simp_all [State.forShow, State.forQuiet, State.showMoved, State.quietMoved]

/-- What the prompt manager may have changed as well. -/
theorem eq_of_forPrompts {s t : State} (h : t.forPrompts = s.forPrompts) : t = s.promptsMoved t := by
  obtain ⟨_, ⟨_, _, _, _, _, _, _⟩, _, _, _, _, ⟨_, _, _, _, _, _, _, _, _⟩, _, _, ⟨e, c, _, _, _⟩, _, _⟩ := s
  obtain ⟨_, ⟨_, _, _, _, _, _, _⟩, _, _, _, _, ⟨_, _, _, _, _, _, _, _, _⟩, _, _, ⟨e', c', _, _, _⟩, _, _⟩ := t
  cases e; cases c; cases e'; cases c'
  simp_all [State.forShow, State.forQuiet, State.forPrompts, State.showMoved, State.quietMoved, State.promptsMoved]

/-- What a car state change event may have changed as well. -/
theorem eq_of_forCar {s t : State} (h : t.forCar = s.forCar) : t = s.carMoved t := by
  obtain ⟨_, ⟨_, _, _, _, _, _, _⟩, _, _, _, _, ⟨_, _, _, _, _, _, _, _, _⟩, _, _, ⟨e, c, _, _, _⟩, _, _⟩ := s
  obtain ⟨_, ⟨_, _, _, _, _, _, _⟩, _, _, _, _, ⟨_, _, _, _, _, _, _, _, _⟩, _, _, ⟨e', c', _, _, _⟩, _, _⟩ := t
  cases e; cases c; cases e'; cases c'
  simp_all [State.forShow, State.forQuiet, State.forPrompts, State.forCar, State.showMoved, State.quietMoved,
    State.promptsMoved, State.carMoved]

/-- What the stops and lantern unit may have changed beyond quiet handling. -/
theorem eq_of_forLanterns {s t : State} (h : t.forLanterns = s.forLanterns) : t = s.lanternsMoved t := by
  obtain ⟨_, _, _, _, _, _, ⟨_, _, _, _, _, _, _, _, _⟩, _, _, _, _, _⟩ := s
  obtain ⟨_, _, _, _, _, _, ⟨_, _, _, _, _, _, _, _, _⟩, _, _, _, _, _⟩ := t
  simp_all [State.forShow, State.forQuiet, State.forLanterns, State.showMoved, State.quietMoved, State.lanternsMoved]

/-- What the car tracker may have changed as well. -/
theorem eq_of_forTracker {s t : State} (h : t.forTracker = s.forTracker) : t = s.trackerMoved t := by
  obtain ⟨_, ⟨_, _, _, _, _, _, _⟩, _, _, _, _, ⟨_, _, _, _, _, _, _, _, _⟩, _, _, ⟨e, c, _, _, _⟩, _, _⟩ := s
  obtain ⟨_, ⟨_, _, _, _, _, _, _⟩, _, _, _, _, ⟨_, _, _, _, _, _, _, _, _⟩, _, _, ⟨e', c', _, _, _⟩, _, _⟩ := t
  cases e; cases c; cases e'; cases c'
  simp_all [State.forShow, State.forQuiet, State.forPrompts, State.forCar, State.forTracker, State.showMoved,
    State.quietMoved, State.promptsMoved, State.carMoved, State.trackerMoved]

/-- What a cycle start may have changed as well. -/
theorem eq_of_forCycle {s t : State} (h : t.forCycle = s.forCycle) : t = s.cycleMoved t := by
  obtain ⟨_, ⟨_, _, _, _, _, _, _⟩, _, _, _, _, ⟨_, _, _, _, _, _, _, _, _⟩, _, _, ⟨e, c, _, _, _⟩, _, _⟩ := s
  obtain ⟨_, ⟨_, _, _, _, _, _, _⟩, _, _, _, _, ⟨_, _, _, _, _, _, _, _, _⟩, _, _, ⟨e', c', _, _, _⟩, _, _⟩ := t
  cases e; cases c; cases e'; cases c'
  simp_all [State.forShow, State.forQuiet, State.forPrompts, State.forCar, State.forTracker, State.forCycle,
    State.showMoved, State.quietMoved, State.promptsMoved, State.carMoved, State.trackerMoved, State.cycleMoved]

/-! ### Repetition -/

/-- What every single application keeps, a repetition keeps. -/
theorem forEach_keeps {α : Type} (k : State → α) (f : Nat → State → State) (h : ∀ n s, k (f n s) = k s) (l : List Nat)
    (s : State) : k (forEach l f s) = k s := by
  unfold forEach
  induction l generalizing s with
  | nil => rfl
  | cons n l ih => rw [List.foldl_cons, ih, h]

/-- The same for a fold over any list. -/
theorem foldl_keeps {α β : Type} (k : State → α) (f : State → β → State) (h : ∀ s b, k (f s b) = k s) (l : List β)
    (s : State) : k (l.foldl f s) = k s := by
  induction l generalizing s with
  | nil => rfl
  | cons n l ih => rw [List.foldl_cons, ih, h]

/-- What every single application preserves, a repetition preserves. -/
theorem forEach_preserves (P : State → Prop) (f : Nat → State → State) (h : ∀ n s, P s → P (f n s)) (l : List Nat)
    (s : State) (hs : P s) : P (forEach l f s) := by
  unfold forEach
  induction l generalizing s with
  | nil => exact hs
  | cons n l ih => exact ih _ (h n s hs)

/-- The same for a fold over any list. -/
theorem foldl_preserves {β : Type} (P : State → Prop) (f : State → β → State) (h : ∀ s b, P s → P (f s b)) (l : List β)
    (s : State) (hs : P s) : P (l.foldl f s) := by
  induction l generalizing s with
  | nil => exact hs
  | cons n l ih => exact ih _ (h s n hs)

/-! ### Links and show scheduler: forShow -/

@[simp] theorem setSched_forShow (n : Nat) (f : Schedule → Schedule) (s : State) :
    (s.setSched n f).forShow = s.forShow := rfl
@[simp] theorem setLink_forShow (n : Nat) (f : LinkRec → LinkRec) (s : State) :
    (s.setLink n f).forShow = s.forShow := rfl
@[simp] theorem hand_forShow (n : Nat) (m : LinkMsg) (s : State) : (s.hand n m).forShow = s.forShow := rfl
@[simp] theorem cancelLoad_forShow (n w : Nat) (s : State) : (s.cancelLoad n w).forShow = s.forShow := rfl
@[simp] theorem startProbing_forShow (n : Nat) (s : State) : (s.startProbing n).forShow = s.forShow := rfl
@[simp] theorem setPointer_forShow (n : Nat) (p : Option Nat) (s : State) : (s.setPointer n p).forShow = s.forShow := rfl
@[simp] theorem schedLinkDown_forShow (n : Nat) (s : State) : (s.schedLinkDown n).forShow = s.forShow := rfl
@[simp] theorem loadComplete_forShow (n w : Nat) (s : State) : (s.loadComplete n w).forShow = s.forShow := rfl
@[simp] theorem clearStale_forShow (n : Nat) (s : State) : (s.clearStale n).forShow = s.forShow := rfl
@[simp] theorem sendServicePage_forShow (n : Nat) (s : State) : (s.sendServicePage n).forShow = s.forShow := rfl

@[simp] theorem sendNext_forCount (n : Nat) (s : State) : (s.sendNext n).forCount = s.forCount := by
  unfold State.sendNext
  repeat' split
  all_goals rfl

@[simp] theorem settlePaging_forShow (n : Nat) (s : State) : (s.settlePaging n).forShow = s.forShow := by
  unfold State.settlePaging
  split <;> rfl

@[simp] theorem handPage_forShow (n : Nat) (c : Content) (b : Bool) (s : State) :
    (s.handPage n c b).forShow = s.forShow := by
  unfold State.handPage
  split <;> simp

@[simp] theorem handPreload_forShow (n : Nat) (p : Preload) (s : State) : (s.handPreload n p).forShow = s.forShow := by
  unfold State.handPreload
  split <;> simp

@[simp] theorem recomposePreload_forShow (n : Nat) (s : State) : (s.recomposePreload n).forShow = s.forShow := by
  unfold State.recomposePreload
  repeat' split
  all_goals simp

@[simp] theorem contentChange_forShow (n : Nat) (s : State) : (s.contentChange n).forShow = s.forShow := by
  unfold State.contentChange
  dsimp only
  repeat' split
  all_goals simp

@[simp] theorem contentChanges_forShow (l : List Nat) (s : State) : (s.contentChanges l).forShow = s.forShow :=
  forEach_keeps _ _ contentChange_forShow l s

@[simp] theorem relight_forShow (n level : Nat) (s : State) : (s.relight n level).forShow = s.forShow := by
  unfold State.relight
  simp

@[simp] theorem schedLinkUp_forShow (n : Nat) (s : State) : (s.schedLinkUp n).forShow = s.forShow := by
  unfold State.schedLinkUp
  dsimp only
  repeat' split
  all_goals simp

@[simp] theorem beginPreload_forShow (n e : Nat) (s : State) : (s.beginPreload n e).forShow = s.forShow := by
  unfold State.beginPreload
  repeat' split
  all_goals simp

@[simp] theorem startWaitingFrom_forShow (n : Nat) (l : List Nat) (s : State) :
    (startWaitingFrom n l s).forShow = s.forShow := by
  induction l generalizing s with
  | nil => rfl
  | cons e l ih =>
    unfold startWaitingFrom
    split
    · rfl
    · rw [ih]
      simp

@[simp] theorem startWaiting_forShow (n : Nat) (s : State) : (s.startWaiting n).forShow = s.forShow := by
  unfold State.startWaiting
  split <;> simp

@[simp] theorem instantReached_forShow (n i : Nat) (e : ShowEntry) (s : State) :
    (s.instantReached n i e).forShow = s.forShow := by
  unfold State.instantReached
  repeat' split
  all_goals simp

@[simp] theorem walkInstants_forShow (n : Nat) (l : List ShowEntry) (i : Nat) (s : State) :
    (walkInstants n l i s).forShow = s.forShow := by
  induction l generalizing s i with
  | nil => rfl
  | cons e l ih =>
    unfold walkInstants
    split
    · rfl
    · rw [ih]
      split <;> simp

@[simp] theorem takeInstants_forShow (n : Nat) (s : State) : (s.takeInstants n).forShow = s.forShow := by
  unfold State.takeInstants
  split <;> simp

@[simp] theorem setPage_forShow (n : Nat) (p : Page) (s : State) : (s.setPage n p).forShow = s.forShow := by
  unfold State.setPage
  simp

@[simp] theorem flipPreload_forShow (n : Nat) (p : Preload) (s : State) : (s.flipPreload n p).forShow = s.forShow := by
  unfold State.flipPreload
  dsimp only
  repeat' split
  all_goals simp

@[simp] theorem actLanguage_forShow (n : Nat) (l : Lang) (s : State) : (s.actLanguage n l).forShow = s.forShow := by
  unfold State.actLanguage
  repeat' split
  all_goals simp

@[simp] theorem actPage_forShow (n e : Nat) (p : Page) (s : State) : (s.actPage n e p).forShow = s.forShow := by
  unfold State.actPage
  repeat' split
  all_goals simp

@[simp] theorem act_forShow (n i : Nat) (e : ShowEntry) (s : State) : (s.act n i e).forShow = s.forShow := by
  unfold State.act
  repeat' split
  all_goals simp

@[simp] theorem walkMarks_forShow (n : Nat) (l : List ShowEntry) (i : Nat) (s : State) :
    (walkMarks n l i s).forShow = s.forShow := by
  induction l generalizing s i with
  | nil => rfl
  | cons e l ih =>
    unfold walkMarks
    repeat' split
    · rw [ih]
      simp
    · rfl
    · rw [ih]

@[simp] theorem takeMarks_forShow (n : Nat) (s : State) : (s.takeMarks n).forShow = s.forShow := by
  unfold State.takeMarks
  repeat' split
  all_goals simp

@[simp] theorem abandonPreload_forShow (n : Nat) (s : State) : (s.abandonPreload n).forShow = s.forShow := by
  unfold State.abandonPreload
  repeat' split
  all_goals simp

/-- A cycle start moves schedules and links, and at a HEARD or LOCAL start counts skipped marks. -/
theorem schedCycleStart_forShow (c : CycleStart) (old : BitVec 6) (n : Nat) (s : State) :
    (s.schedCycleStart c old n).forShow =
      (if c.cause = .start then s else s.countN .skippedMarks (s.skippedOf n old)).forShow := by
  unfold State.schedCycleStart
  simp only [takeMarks_forShow, takeInstants_forShow, setSched_forShow]
  split <;> simp

@[simp] theorem schedCycleStart_forCount (c : CycleStart) (old : BitVec 6) (n : Nat) (s : State) :
    (s.schedCycleStart c old n).forCount = s.forCount := by
  have h := congrArg (fun u : State => { u with status := { u.status with
    counters := { u.status.counters with skippedMarks := 0, lateFlips := 0 } } })
    (schedCycleStart_forShow c old n s)
  refine Eq.trans h ?_
  split <;> rfl

@[simp] theorem flipComplete_forShow (n w : Nat) (s : State) : (s.flipComplete n w).forShow = s.forShow := by
  unfold State.flipComplete
  dsimp only
  repeat' split
  all_goals try dsimp only
  all_goals simp

@[simp] theorem schedLevelChange_forShow (old new : Level) (n : Nat) (s : State) :
    (s.schedLevelChange old new n).forShow = s.forShow := by
  unfold State.schedLevelChange
  repeat' split
  all_goals simp

@[simp] theorem linkRestored_forShow (n : Nat) (s : State) : (s.linkRestored n).forShow = s.forShow := by
  unfold State.linkRestored
  simp only
  split <;> simp

@[simp] theorem drained_forShow (n : Nat) (s : State) : (s.drained n).forShow = s.forShow := by
  unfold State.drained
  simp only
  repeat' split
  all_goals simp

@[simp] theorem messageDone_forShow (n : Nat) (m : LinkMsg) (s : State) : (s.messageDone n m).forShow = s.forShow := by
  unfold State.messageDone
  repeat' split
  all_goals simp

@[simp] theorem reprobe_forShow (n : Nat) (s : State) : (s.reprobe n).forShow = s.forShow := rfl

@[simp] theorem scrollExpiry_forShow (n : Nat) (s : State) : (s.scrollExpiry n).forShow = s.forShow := by
  unfold State.scrollExpiry
  split <;> simp

/-! ### Quiet handling: forQuiet -/

@[simp] theorem setQuiet_forQuiet (n : Nat) (q : QuietRec) (s : State) : (s.setQuiet n q).forQuiet = s.forQuiet := rfl
@[simp] theorem setLamp_forQuiet (n : Nat) (e : Option Clock) (s : State) : (s.setLamp n e).forQuiet = s.forQuiet := rfl
@[simp] theorem hand_forQuiet (n : Nat) (m : LinkMsg) (s : State) : (s.hand n m).forQuiet = s.forQuiet := rfl
@[simp] theorem relight_forQuiet (n level : Nat) (s : State) : (s.relight n level).forQuiet = s.forQuiet :=
  forQuiet_of_forShow (by simp)
@[simp] theorem contentChange_forQuiet (n : Nat) (s : State) : (s.contentChange n).forQuiet = s.forQuiet :=
  forQuiet_of_forShow (by simp)
@[simp] theorem contentChanges_forQuiet (l : List Nat) (s : State) : (s.contentChanges l).forQuiet = s.forQuiet :=
  forQuiet_of_forShow (by simp)
@[simp] theorem schedLevelChange_forQuiet (old new : Level) (n : Nat) (s : State) :
    (s.schedLevelChange old new n).forQuiet = s.forQuiet := forQuiet_of_forShow (by simp)

@[simp] theorem awaken_forQuiet (n : Nat) (t : Option Clock) (s : State) : (s.awaken n t).forQuiet = s.forQuiet := by
  unfold State.awaken
  simp only
  repeat' split
  all_goals simp

@[simp] theorem wake_forQuiet (n : Nat) (s : State) : (s.wake n).forQuiet = s.forQuiet := by
  unfold State.wake
  repeat' split
  all_goals simp

@[simp] theorem wakes_forQuiet (l : List Nat) (s : State) : (s.wakes l).forQuiet = s.forQuiet :=
  forEach_keeps _ _ wake_forQuiet l s

@[simp] theorem quietExpiry_forQuiet (n : Nat) (s : State) : (s.quietExpiry n).forQuiet = s.forQuiet := by
  unfold State.quietExpiry
  simp only
  repeat' split
  all_goals simp

@[simp] theorem lampStart_forQuiet (n : Nat) (s : State) : (s.lampStart n).forQuiet = s.forQuiet := by
  unfold State.lampStart
  simp only
  repeat' split
  all_goals simp

@[simp] theorem lampEnd_forQuiet (n : Nat) (s : State) : (s.lampEnd n).forQuiet = s.forQuiet := by
  unfold State.lampEnd
  split <;> simp

@[simp] theorem quietLevelChange_forQuiet (old new : Level) (n : Nat) (s : State) :
    (s.quietLevelChange old new n).forQuiet = s.forQuiet := by
  unfold State.quietLevelChange
  repeat' split
  all_goals simp

@[simp] theorem panelLevelChange_forQuiet (old new : Level) (n : Nat) (s : State) :
    (s.panelLevelChange old new n).forQuiet = s.forQuiet := by
  unfold State.panelLevelChange
  split <;> simp

/-! ### Requests and the prompt manager: forPrompts -/

@[simp] theorem setPool_forPrompts (p : List Prompt) (s : State) : (s.setPool p).forPrompts = s.forPrompts := rfl
@[simp] theorem countEvictions_forPrompts (s : State) : (s.count .evictions).forPrompts = s.forPrompts := rfl
@[simp] theorem countIgnored_forPrompts (s : State) : (s.count .assignIgnored).forPrompts = s.forPrompts := rfl
@[simp] theorem wake_forPrompts (n : Nat) (s : State) : (s.wake n).forPrompts = s.forPrompts :=
  forPrompts_of_forQuiet (by simp)
@[simp] theorem wakes_forPrompts (l : List Nat) (s : State) : (s.wakes l).forPrompts = s.forPrompts :=
  forPrompts_of_forQuiet (by simp)
@[simp] theorem contentChange_forPrompts (n : Nat) (s : State) : (s.contentChange n).forPrompts = s.forPrompts :=
  forPrompts_of_forQuiet (by simp)
@[simp] theorem contentChanges_forPrompts (l : List Nat) (s : State) :
    (s.contentChanges l).forPrompts = s.forPrompts := forPrompts_of_forQuiet (by simp)

@[simp] theorem request_forPrompts (p : TxPayload) (s : State) : (s.request p).2.forPrompts = s.forPrompts := by
  unfold State.request
  repeat' split
  all_goals rfl

@[simp] theorem relevel_forPrompts (n : Nat) (s : State) : (s.relevel n).forPrompts = s.forPrompts := by
  unfold State.relevel
  simp only
  repeat' split
  · rfl
  · rfl
  · rw [request_forPrompts]
    rfl

@[simp] theorem reportList_forPrompts (p : Option Nat) (n : Nat) (s : State) :
    (s.reportList p n).forPrompts = s.forPrompts := by
  unfold State.reportList
  simp only
  split <;> simp

@[simp] theorem reportLists_forPrompts (p : Option Nat) (c : Nat → Bool) (s : State) :
    (s.reportLists p c).forPrompts = s.forPrompts := forEach_keeps _ _ (reportList_forPrompts p) _ s

@[simp] theorem place_forPrompts (a : Placed) (s : State) : (s.place a).forPrompts = s.forPrompts := by
  unfold State.place
  simp only
  repeat' split
  all_goals simp

@[simp] theorem assignTaken_forPrompts (f : AssignFrame) (s : State) :
    (s.assignTaken f).forPrompts = s.forPrompts := by
  unfold State.assignTaken
  split <;> simp

@[simp] theorem removePrompts_forPrompts (p : Prompt → Bool) (s : State) :
    (s.removePrompts p).forPrompts = s.forPrompts := by
  unfold State.removePrompts
  simp

@[simp] theorem promptsCarEvent_forPrompts (car : CarRow) (slot : Nat) (old new : CarRec) (s : State) :
    (s.promptsCarEvent car slot old new).forPrompts = s.forPrompts := by
  unfold State.promptsCarEvent
  simp

@[simp] theorem levelChanged_forPrompts (old new : Level) (s : State) :
    (s.levelChanged old new).forPrompts = ({ s with mode := { s.mode with level := new } }).forPrompts := by
  unfold State.levelChanged
  simp only
  split
  · rw [removePrompts_forPrompts]
    exact forPrompts_of_forQuiet (forEach_keeps _ _ (fun n s => panelLevelChange_forQuiet old new n s) _ _)
  · exact forPrompts_of_forQuiet (forEach_keeps _ _ (fun n s => panelLevelChange_forQuiet old new n s) _ _)

/-! ### Lanterns and stop sets: forLanterns -/

@[simp] theorem setDecks_forLanterns (n : Nat) (f : CarDecks → CarDecks) (s : State) :
    (s.setDecks n f).forLanterns = s.forLanterns := rfl
@[simp] theorem wake_forLanterns (n : Nat) (s : State) : (s.wake n).forLanterns = s.forLanterns :=
  forLanterns_of_forQuiet (by simp)
@[simp] theorem contentChange_forLanterns (n : Nat) (s : State) : (s.contentChange n).forLanterns = s.forLanterns :=
  forLanterns_of_forQuiet (by simp)
@[simp] theorem contentChanges_forLanterns (l : List Nat) (s : State) :
    (s.contentChanges l).forLanterns = s.forLanterns := forLanterns_of_forQuiet (by simp)

@[simp] theorem chime_forShow (n : Nat) (d : Dir) (s : State) : (s.chime n d).forShow = s.forShow := by
  unfold State.chime
  repeat' split
  all_goals simp

@[simp] theorem chime_forLanterns (n : Nat) (d : Dir) (s : State) : (s.chime n d).forLanterns = s.forLanterns :=
  forLanterns_of_forQuiet (forQuiet_of_forShow (by simp))

/-- A move of a lantern record changes lanterns, links, schedules and quiet records only. -/
@[simp] theorem applyMove_forLanterns (p : Nat) (m : LanternMove) (s : State) :
    (s.applyMove p m).forLanterns = s.forLanterns := by
  unfold State.applyMove
  dsimp only
  repeat' split
  all_goals try simp only [contentChange_forLanterns, chime_forLanterns, wake_forLanterns]
  all_goals rfl

@[simp] theorem evaluateLantern_forLanterns (car : CarRow) (slot : Nat) (a : List (Deck × Nat)) (p : Nat) (s : State) :
    (s.evaluateLantern car slot a p).forLanterns = s.forLanterns := by
  unfold State.evaluateLantern
  simp only
  repeat' split
  all_goals simp
  all_goals rfl

@[simp] theorem evaluateLanterns_forLanterns (slot : Nat) (a : List (Deck × Nat)) (s : State) :
    (s.evaluateLanterns slot a).forLanterns = s.forLanterns := by
  unfold State.evaluateLanterns
  split
  · rfl
  · exact forEach_keeps _ _ (fun p s => evaluateLantern_forLanterns _ slot a p s) _ s

@[simp] theorem removeStop_forLanterns (slot : Nat) (d : Deck) (l : Nat) (s : State) :
    (s.removeStop slot d l).forLanterns = s.forLanterns := by
  unfold State.removeStop
  split <;> simp

@[simp] theorem stopsCarEvent_forLanterns (slot : Nat) (a : List (Deck × Nat)) (s : State) :
    (s.stopsCarEvent slot a).forLanterns = s.forLanterns := by
  unfold State.stopsCarEvent
  rw [evaluateLanterns_forLanterns]
  exact foldl_keeps _ _ (fun s a => removeStop_forLanterns slot a.1 a.2 s) a s

/-! ### Car state change events: forCar -/

@[simp] theorem wakes_forCar (l : List Nat) (s : State) : (s.wakes l).forCar = s.forCar :=
  forCar_of_forPrompts (by simp)
@[simp] theorem contentChanges_forCar (l : List Nat) (s : State) : (s.contentChanges l).forCar = s.forCar :=
  forCar_of_forPrompts (by simp)
@[simp] theorem promptsCarEvent_forCar (car : CarRow) (slot : Nat) (old new : CarRec) (s : State) :
    (s.promptsCarEvent car slot old new).forCar = s.forCar := forCar_of_forPrompts (by simp)
@[simp] theorem evaluateLanterns_forCar (slot : Nat) (a : List (Deck × Nat)) (s : State) :
    (s.evaluateLanterns slot a).forCar = s.forCar := forCar_of_forLanterns (by simp)
@[simp] theorem stopsCarEvent_forCar (slot : Nat) (a : List (Deck × Nat)) (s : State) :
    (s.stopsCarEvent slot a).forCar = s.forCar := forCar_of_forLanterns (by simp)
@[simp] theorem setDecks_forCar (n : Nat) (f : CarDecks → CarDecks) (s : State) :
    (s.setDecks n f).forCar = s.forCar := rfl

@[simp] theorem raiseCarEvent_forCar (slot : Nat) (old new : CarRec) (b : Bool) (s : State) :
    (s.raiseCarEvent slot old new b).forCar = s.forCar := by
  unfold State.raiseCarEvent
  simp only
  repeat' split
  all_goals simp

/-- Storing a new car record changes that record, and what the car state change event changes. -/
theorem updateCar_forCar (slot : Nat) (car : CarRow) (new : CarRec) (s : State) :
    (s.updateCar slot car new).forCar = (s.setCar slot new).forCar := by
  unfold State.updateCar
  simp only
  split <;> simp

/-! ### The car tracker: forTracker -/

@[simp] theorem updateCar_forTracker (slot : Nat) (car : CarRow) (new : CarRec) (s : State) :
    (s.updateCar slot car new).forTracker = s.forTracker :=
  congrArg (fun u : State => { u with
    cars := [],
    status := { u.status with
      counters := { u.status.counters with fieldRange := 0, levelDisagree := 0, unanchoredSteps := 0 },
      exceptions := { u.status.exceptions with positionRange := 0, carLost := 0 } } })
    (updateCar_forCar slot car new s)
@[simp] theorem setCar_forTracker (slot : Nat) (r : CarRec) (s : State) :
    (s.setCar slot r).forTracker = s.forTracker := rfl
@[simp] theorem countRange_forTracker (s : State) : (s.count .fieldRange).forTracker = s.forTracker := rfl
@[simp] theorem countNRange_forTracker (n : Nat) (s : State) : (s.countN .fieldRange n).forTracker = s.forTracker := rfl
@[simp] theorem countLevel_forTracker (s : State) : (s.count .levelDisagree).forTracker = s.forTracker := rfl
@[simp] theorem countSteps_forTracker (s : State) : (s.count .unanchoredSteps).forTracker = s.forTracker := rfl
@[simp] theorem raiseRange_forTracker (n : Nat) (s : State) : (s.raise (.positionRange n)).forTracker = s.forTracker := rfl
@[simp] theorem raiseLost_forTracker (n : Nat) (s : State) : (s.raise (.carLost n)).forTracker = s.forTracker := rfl
@[simp] theorem setDecks_forTracker (n : Nat) (f : CarDecks → CarDecks) (s : State) :
    (s.setDecks n f).forTracker = s.forTracker := rfl
@[simp] theorem raiseCarEvent_forTracker (slot : Nat) (old new : CarRec) (b : Bool) (s : State) :
    (s.raiseCarEvent slot old new b).forTracker = s.forTracker := forTracker_of_forCar (by simp)
@[simp] theorem contentChanges_forTracker (l : List Nat) (s : State) :
    (s.contentChanges l).forTracker = s.forTracker := forTracker_of_forCar (by simp)
@[simp] theorem evaluateLanterns_forTracker (slot : Nat) (a : List (Deck × Nat)) (s : State) :
    (s.evaluateLanterns slot a).forTracker = s.forTracker := forTracker_of_forCar (by simp)

@[simp] theorem raiseIfLost_forTracker (c : Bool) (n : Nat) (s : State) :
    (s.raiseIf c (.carLost n)).forTracker = s.forTracker := by
  unfold State.raiseIf
  split <;> rfl

@[simp] theorem carMotionTaken_forTracker (slot : Nat) (m : Clock) (f : MotionFrame) (s : State) :
    (s.carMotionTaken slot m f).forTracker = s.forTracker := by
  unfold State.carMotionTaken
  simp only
  repeat' split
  all_goals simp

@[simp] theorem carStepTaken_forTracker (slot : Nat) (m : Clock) (f : StepFrame) (s : State) :
    (s.carStepTaken slot m f).forTracker = s.forTracker := by
  unfold State.carStepTaken
  simp only
  repeat' split
  all_goals simp

@[simp] theorem carServiceTaken_forTracker (slot : Nat) (c : Byte) (s : State) :
    (s.carServiceTaken slot c).forTracker = s.forTracker := by
  unfold State.carServiceTaken
  repeat' split
  all_goals simp

@[simp] theorem evaluateSilence_forTracker (slot : Nat) (s : State) :
    (s.evaluateSilence slot).forTracker = s.forTracker := by
  unfold State.evaluateSilence
  simp only
  split <;> simp

@[simp] theorem evaluateSilences_forTracker (s : State) : s.evaluateSilences.forTracker = s.forTracker :=
  forEach_keeps _ _ evaluateSilence_forTracker _ s

@[simp] theorem indicationExpiry_forTracker (slot : Nat) (s : State) :
    (s.indicationExpiry slot).forTracker = s.forTracker := by
  unfold State.indicationExpiry
  split <;> simp

@[simp] theorem intentChanged_forTracker (slot : Nat) (car : CarRow) (b : CarDecks) (s : State) :
    (s.intentChanged slot car b).forTracker = s.forTracker := by
  unfold State.intentChanged
  simp only
  repeat' split
  all_goals simp

@[simp] theorem carCallsTaken_forTracker (slot : Nat) (f : CallsFrame) (s : State) :
    (s.carCallsTaken slot f).forTracker = s.forTracker := by
  unfold State.carCallsTaken
  simp only
  repeat' split
  all_goals simp

/-- A cycle start sets the cycle fields, and changes otherwise what the car tracker's events and skipped marks change. -/
theorem cycleStart_forCycle (c : CycleCause) (b : Clock) (n : BitVec 6) (s : State) :
    (s.cycleStart c b n).forCycle =
      ({ s with cycle := { s.cycle with
          base := b, count := n, crossed := false, event := some (s.cycleEvent c b n) } }).forCycle := by
  unfold State.cycleStart State.carsCycleStart
  simp only
  have h : ∀ (e : CycleStart) (u : State),
      (forEach s.panelIds (fun n t => t.schedCycleStart e s.cycle.count n) u).forCycle = u.forCycle :=
    fun e u => forCycle_of_forCount (forEach_keeps _ _ (fun n t => schedCycleStart_forCount e _ n t) _ u)
  split
  · exact h _ _
  · rw [forCycle_of_forTracker (evaluateSilences_forTracker _)]
    exact h _ _

end Sys2Proof.Machine
end

