-- ==== Sys2Proof/Laws/Panels.lean ====
section
/-! SUPPORT. What an operation keeps, said once for every property, for the operations of one panel: a property that the
primitive changes of a panel's schedule, link and quiet record keep is kept by every operation on that panel. -/

namespace Sys2Proof.Machine

/-! ### Show scheduler and link of one panel -/

/-- A property kept by the changes of the show scheduler for a panel: its schedule, work handed to its link, a cancelled
LOAD. -/
structure ShowAt (n : Nat) (P : State → Prop) : Prop where
  sched : ∀ f s, P s → P (s.setSched n f)
  hand : ∀ m s, P s → P (s.hand n m)
  cancel : ∀ w s, P s → P (s.cancelLoad n w)

section show_scheduler
variable {n : Nat} {P : State → Prop} (C : ShowAt n P)
include C

theorem settlePaging_at (s : State) (h : P s) : P (s.settlePaging n) := by
  unfold State.settlePaging
  split
  · exact h
  · exact C.sched _ _ h

theorem handPage_at (c : Content) (b : Bool) (s : State) (h : P s) : P (s.handPage n c b) := by
  unfold State.handPage
  split
  · exact h
  · exact C.sched _ _ (C.hand _ _ (C.hand _ _ h))

theorem handPreload_at (p : Preload) (s : State) (h : P s) : P (s.handPreload n p) := by
  unfold State.handPreload
  split
  · exact h
  · exact C.sched _ _ (C.hand _ _ h)

theorem recomposePreload_at (s : State) (h : P s) : P (s.recomposePreload n) := by
  unfold State.recomposePreload
  repeat' split
  all_goals first | exact h | exact handPreload_at C _ _ h

theorem contentChange_at (s : State) (h : P s) : P (s.contentChange n) := by
  have h1 := settlePaging_at C s h
  unfold State.contentChange
  dsimp only
  repeat' split
  · exact recomposePreload_at C _ h1
  · exact handPage_at C _ _ _ h1
  · exact h1

theorem relight_at (level : Nat) (s : State) (h : P s) : P (s.relight n level) := by
  unfold State.relight
  exact C.hand _ _ (handPage_at C _ _ _ (settlePaging_at C _ h))

theorem schedLinkDown_at (s : State) (h : P s) : P (s.schedLinkDown n) := C.sched _ _ h

theorem schedLinkUp_at (s : State) (h : P s) : P (s.schedLinkUp n) := by
  have h1 := settlePaging_at C s h
  unfold State.schedLinkUp
  dsimp only
  split
  · exact h1
  · exact handPage_at C _ _ _ h1

theorem beginPreload_at (e : Nat) (s : State) (h : P s) : P (s.beginPreload n e) := by
  unfold State.beginPreload
  repeat' split
  all_goals first | exact h | exact C.sched _ _ h | exact handPreload_at C _ _ h

theorem startWaitingFrom_at (l : List Nat) (s : State) (h : P s) : P (startWaitingFrom n l s) := by
  induction l generalizing s with
  | nil => exact h
  | cons e l ih =>
    unfold startWaitingFrom
    split
    · exact h
    · exact ih _ (beginPreload_at C _ _ (C.sched _ _ h))

theorem startWaiting_at (s : State) (h : P s) : P (s.startWaiting n) := by
  unfold State.startWaiting
  split
  · exact startWaitingFrom_at C _ _ h
  · exact h

theorem instantReached_at (i : Nat) (e : ShowEntry) (s : State) (h : P s) : P (s.instantReached n i e) := by
  unfold State.instantReached
  repeat' split
  all_goals first | exact h | exact C.sched _ _ h | exact beginPreload_at C _ _ h

theorem walkInstants_at (l : List ShowEntry) (i : Nat) (s : State) (h : P s) :
    P (walkInstants n l i s) := by
  induction l generalizing s i with
  | nil => exact C.sched _ _ h
  | cons e l ih =>
    unfold walkInstants
    split
    · exact C.sched _ _ h
    · apply ih
      split
      · exact instantReached_at C _ _ _ h
      · exact h

theorem takeInstants_at (s : State) (h : P s) : P (s.takeInstants n) := by
  unfold State.takeInstants
  split
  · exact walkInstants_at C _ _ _ h
  · exact h

theorem setPage_at (p : Page) (s : State) (h : P s) : P (s.setPage n p) :=
  settlePaging_at C _ (C.sched _ _ h)

theorem flipPreload_at (p : Preload) (s : State) (h : P s) : P (s.flipPreload n p) := by
  have h1 := setPage_at C p.page _ (C.sched (fun sc => { sc with preload := none }) _ h)
  unfold State.flipPreload
  dsimp only
  repeat' split
  · exact h1
  · exact handPage_at C _ _ _ h1
  · exact C.sched _ _ (C.hand _ _ h1)
  · exact h1

theorem actLanguage_at (l : Lang) (s : State) (h : P s) : P (s.actLanguage n l) := by
  unfold State.actLanguage
  repeat' split
  all_goals first | exact h | exact contentChange_at C _ (C.sched _ _ h)

theorem actPage_at (e : Nat) (p : Page) (s : State) (h : P s) : P (s.actPage n e p) := by
  unfold State.actPage
  repeat' split
  all_goals first
    | exact h
    | exact contentChange_at C _ (setPage_at C _ _ h)
    | exact startWaiting_at C _ (flipPreload_at C _ _ h)

theorem act_at (i : Nat) (e : ShowEntry) (s : State) (h : P s) : P (s.act n i e) := by
  unfold State.act
  repeat' split
  all_goals first | exact h | exact actLanguage_at C _ _ h | exact actPage_at C _ _ _ h

theorem walkMarks_at (l : List ShowEntry) (i : Nat) (s : State) (h : P s) : P (walkMarks n l i s) := by
  induction l generalizing s i with
  | nil => exact C.sched _ _ h
  | cons e l ih =>
    unfold walkMarks
    repeat' split
    · exact ih _ _ (act_at C _ _ _ (C.sched _ _ h))
    · exact C.sched _ _ h
    · exact ih _ _ h

theorem takeMarks_at (s : State) (h : P s) : P (s.takeMarks n) := by
  unfold State.takeMarks
  repeat' split
  all_goals first | exact h | exact walkMarks_at C _ _ _ h

theorem abandonPreload_at (s : State) (h : P s) : P (s.abandonPreload n) := by
  unfold State.abandonPreload
  repeat' split
  all_goals first | exact h | exact C.sched _ _ (C.cancel _ _ h) | exact C.sched _ _ h

/-- A cycle start also counts skipped marks. -/
theorem schedCycleStart_at (K : ∀ k s, P s → P (s.countN .skippedMarks k)) (c : CycleStart) (old : BitVec 6)
    (s : State) (h : P s) : P (s.schedCycleStart c old n) := by
  unfold State.schedCycleStart
  apply takeMarks_at C
  apply takeInstants_at C
  apply C.sched
  split
  · exact h
  · exact abandonPreload_at C _ (K _ _ h)

theorem loadComplete_at (w : Nat) (s : State) (h : P s) : P (s.loadComplete n w) := C.sched _ _ h

theorem flipComplete_at (w : Nat) (s : State) (h : P s) : P (s.flipComplete n w) := by
  unfold State.flipComplete
  dsimp only
  repeat' split
  all_goals first | exact h | exact handPreload_at C _ _ (C.sched _ _ h) | exact C.sched _ _ h

theorem schedLevelChange_at (old new : Level) (s : State) (h : P s) :
    P (s.schedLevelChange old new n) := by
  unfold State.schedLevelChange
  repeat' split
  · exact h
  · exact contentChange_at C _ h
  · exact contentChange_at C _ (C.sched _ _ (abandonPreload_at C _ h))
  · exact contentChange_at C _ (C.sched _ _ h)
  · exact contentChange_at C _ h

theorem scrollExpiry_at (s : State) (h : P s) : P (s.scrollExpiry n) := by
  unfold State.scrollExpiry
  split
  · exact h
  · exact contentChange_at C _ (C.sched _ _ h)

theorem chime_at (d : Dir) (s : State) (h : P s) : P (s.chime n d) := by
  unfold State.chime
  repeat' split
  all_goals first | exact h | exact C.hand _ _ h

theorem sendServicePage_at (s : State) (h : P s) : P (s.sendServicePage n) :=
  C.hand _ _ (C.hand _ _ (C.hand _ _ h))

end show_scheduler

/-! ### Quiet handling of one panel -/

/-- A property kept by the changes of quiet handling for a panel too: its quiet record and its lamp test. -/
structure QuietAt (n : Nat) (P : State → Prop) : Prop extends ShowAt n P where
  quiet : ∀ q s, P s → P (s.setQuiet n q)
  lamp : ∀ e s, P s → P (s.setLamp n e)

section quiet_handling
variable {n : Nat} {P : State → Prop} (C : QuietAt n P)
include C

theorem awaken_at (t : Option Clock) (s : State) (h : P s) : P (s.awaken n t) := by
  unfold State.awaken
  split
  · exact h
  · rename_i row _
    have h1 := C.quiet { state := .awake, timer := t } s h
    dsimp only
    split
    · exact h1
    · exact C.hand _ _ h1
    · exact relight_at C.toShowAt _ _ h1

theorem wake_at (s : State) (h : P s) : P (s.wake n) := by
  unfold State.wake
  repeat' split
  all_goals first | exact h | exact awaken_at C _ _ h

theorem quietExpiry_at (s : State) (h : P s) : P (s.quietExpiry n) := by
  unfold State.quietExpiry
  dsimp only
  repeat' split
  all_goals first | exact h | exact C.hand _ _ (C.quiet _ _ h) | exact C.quiet _ _ h

theorem lampStart_at (s : State) (h : P s) : P (s.lampStart n) := by
  have h1 := C.lamp (some (after (s.wake n).now Config.lampTest)) _ (wake_at C s h)
  unfold State.lampStart
  dsimp only
  repeat' split
  · exact h
  · exact h1
  · exact C.hand _ _ h1

theorem lampEnd_at (s : State) (h : P s) : P (s.lampEnd n) := by
  unfold State.lampEnd
  split
  · exact C.hand _ _ (C.lamp _ _ h)
  · exact h

theorem quietLevelChange_at (old new : Level) (s : State) (h : P s) :
    P (s.quietLevelChange old new n) := by
  unfold State.quietLevelChange
  repeat' split
  · exact h
  · exact lampEnd_at C _ (awaken_at C _ _ h)
  · exact C.quiet _ _ h
  · exact wake_at C _ h
  · exact relight_at C.toShowAt _ _ (C.quiet _ _ h)
  · exact h

theorem panelLevelChange_at (old new : Level) (s : State) (h : P s) :
    P (s.panelLevelChange old new n) := by
  unfold State.panelLevelChange
  split
  · exact quietLevelChange_at C _ _ _ (schedLevelChange_at C.toShowAt _ _ _ h)
  · exact schedLevelChange_at C.toShowAt _ _ _ (quietLevelChange_at C _ _ _ h)

end quiet_handling

end Sys2Proof.Machine
end

