-- ==== Sys2Proof/Laws/Closures.lean ====
section
/-! SUPPORT. What an operation keeps, said once for every property: a property that the primitive changes of a layer keep is
kept by every operation of that layer. An invariant is then shown for the primitives alone. -/

namespace Sys2Proof.Machine

/-! ### Show scheduler and links -/

/-- A property kept by the changes of the show scheduler: a schedule, work handed to a link, a cancelled LOAD. -/
structure ShowClosed (P : State → Prop) : Prop where
  sched : ∀ n f s, P s → P (s.setSched n f)
  hand : ∀ n m s, P s → P (s.hand n m)
  cancel : ∀ n w s, P s → P (s.cancelLoad n w)

section show_scheduler
variable {P : State → Prop} (C : ShowClosed P)
include C

theorem ShowClosed.at (n : Nat) : ShowAt n P := ⟨C.sched n, C.hand n, C.cancel n⟩

theorem settlePaging_preserves (n : Nat) (s : State) (h : P s) : P (s.settlePaging n) :=
  settlePaging_at (C.at n) s h

theorem handPage_preserves (n : Nat) (c : Content) (b : Bool) (s : State) (h : P s) : P (s.handPage n c b) :=
  handPage_at (C.at n) c b s h

theorem handPreload_preserves (n : Nat) (p : Preload) (s : State) (h : P s) : P (s.handPreload n p) :=
  handPreload_at (C.at n) p s h

theorem recomposePreload_preserves (n : Nat) (s : State) (h : P s) : P (s.recomposePreload n) :=
  recomposePreload_at (C.at n) s h

theorem contentChange_preserves (n : Nat) (s : State) (h : P s) : P (s.contentChange n) :=
  contentChange_at (C.at n) s h

theorem contentChanges_preserves (l : List Nat) (s : State) (h : P s) : P (s.contentChanges l) :=
  forEach_preserves P _ (fun n s => contentChange_preserves C n s) l s h

theorem relight_preserves (n level : Nat) (s : State) (h : P s) : P (s.relight n level) :=
  relight_at (C.at n) level s h

theorem schedLinkDown_preserves (n : Nat) (s : State) (h : P s) : P (s.schedLinkDown n) :=
  schedLinkDown_at (C.at n) s h

theorem schedLinkUp_preserves (n : Nat) (s : State) (h : P s) : P (s.schedLinkUp n) :=
  schedLinkUp_at (C.at n) s h

theorem beginPreload_preserves (n e : Nat) (s : State) (h : P s) : P (s.beginPreload n e) :=
  beginPreload_at (C.at n) e s h

theorem startWaitingFrom_preserves (n : Nat) (l : List Nat) (s : State) (h : P s) : P (startWaitingFrom n l s) :=
  startWaitingFrom_at (C.at n) l s h

theorem startWaiting_preserves (n : Nat) (s : State) (h : P s) : P (s.startWaiting n) :=
  startWaiting_at (C.at n) s h

theorem instantReached_preserves (n i : Nat) (e : ShowEntry) (s : State) (h : P s) : P (s.instantReached n i e) :=
  instantReached_at (C.at n) i e s h

theorem walkInstants_preserves (n : Nat) (l : List ShowEntry) (i : Nat) (s : State) (h : P s) :
    P (walkInstants n l i s) :=
  walkInstants_at (C.at n) l i s h

theorem takeInstants_preserves (n : Nat) (s : State) (h : P s) : P (s.takeInstants n) :=
  takeInstants_at (C.at n) s h

theorem setPage_preserves (n : Nat) (p : Page) (s : State) (h : P s) : P (s.setPage n p) :=
  setPage_at (C.at n) p s h

theorem flipPreload_preserves (n : Nat) (p : Preload) (s : State) (h : P s) : P (s.flipPreload n p) :=
  flipPreload_at (C.at n) p s h

theorem actLanguage_preserves (n : Nat) (l : Lang) (s : State) (h : P s) : P (s.actLanguage n l) :=
  actLanguage_at (C.at n) l s h

theorem actPage_preserves (n e : Nat) (p : Page) (s : State) (h : P s) : P (s.actPage n e p) :=
  actPage_at (C.at n) e p s h

theorem act_preserves (n i : Nat) (e : ShowEntry) (s : State) (h : P s) : P (s.act n i e) :=
  act_at (C.at n) i e s h

theorem walkMarks_preserves (n : Nat) (l : List ShowEntry) (i : Nat) (s : State) (h : P s) : P (walkMarks n l i s) :=
  walkMarks_at (C.at n) l i s h

theorem takeMarks_preserves (n : Nat) (s : State) (h : P s) : P (s.takeMarks n) :=
  takeMarks_at (C.at n) s h

theorem abandonPreload_preserves (n : Nat) (s : State) (h : P s) : P (s.abandonPreload n) :=
  abandonPreload_at (C.at n) s h

/-- A cycle start also counts skipped marks. -/
theorem schedCycleStart_preserves (K : ∀ k s, P s → P (s.countN .skippedMarks k)) (c : CycleStart) (old : BitVec 6)
    (n : Nat) (s : State) (h : P s) : P (s.schedCycleStart c old n) :=
  schedCycleStart_at (C.at n) K c old s h

theorem loadComplete_preserves (n w : Nat) (s : State) (h : P s) : P (s.loadComplete n w) :=
  loadComplete_at (C.at n) w s h

theorem flipComplete_preserves (n w : Nat) (s : State) (h : P s) : P (s.flipComplete n w) :=
  flipComplete_at (C.at n) w s h

theorem schedLevelChange_preserves (old new : Level) (n : Nat) (s : State) (h : P s) :
    P (s.schedLevelChange old new n) :=
  schedLevelChange_at (C.at n) old new s h

theorem scrollExpiry_preserves (n : Nat) (s : State) (h : P s) : P (s.scrollExpiry n) :=
  scrollExpiry_at (C.at n) s h

theorem chime_preserves (n : Nat) (d : Dir) (s : State) (h : P s) : P (s.chime n d) :=
  chime_at (C.at n) d s h

theorem sendServicePage_preserves (n : Nat) (s : State) (h : P s) : P (s.sendServicePage n) :=
  sendServicePage_at (C.at n) s h

end show_scheduler

/-! ### Quiet handling -/

/-- A property kept by the changes of quiet handling too: a quiet record and a lamp test. -/
structure QuietClosed (P : State → Prop) : Prop extends ShowClosed P where
  quiet : ∀ n q s, P s → P (s.setQuiet n q)
  lamp : ∀ n e s, P s → P (s.setLamp n e)

section quiet_handling
variable {P : State → Prop} (C : QuietClosed P)
include C

theorem QuietClosed.at (n : Nat) : QuietAt n P := ⟨C.toShowClosed.at n, C.quiet n, C.lamp n⟩

theorem awaken_preserves (n : Nat) (t : Option Clock) (s : State) (h : P s) : P (s.awaken n t) :=
  awaken_at (C.at n) t s h

theorem wake_preserves (n : Nat) (s : State) (h : P s) : P (s.wake n) :=
  wake_at (C.at n) s h

theorem wakes_preserves (l : List Nat) (s : State) (h : P s) : P (s.wakes l) :=
  forEach_preserves P _ (fun n s => wake_preserves C n s) l s h

theorem quietExpiry_preserves (n : Nat) (s : State) (h : P s) : P (s.quietExpiry n) :=
  quietExpiry_at (C.at n) s h

theorem lampStart_preserves (n : Nat) (s : State) (h : P s) : P (s.lampStart n) :=
  lampStart_at (C.at n) s h

theorem lampEnd_preserves (n : Nat) (s : State) (h : P s) : P (s.lampEnd n) :=
  lampEnd_at (C.at n) s h

theorem quietLevelChange_preserves (old new : Level) (n : Nat) (s : State) (h : P s) :
    P (s.quietLevelChange old new n) :=
  quietLevelChange_at (C.at n) old new s h

theorem panelLevelChange_preserves (old new : Level) (n : Nat) (s : State) (h : P s) :
    P (s.panelLevelChange old new n) :=
  panelLevelChange_at (C.at n) old new s h

end quiet_handling

/-! ### Prompt manager -/

/-- A property kept by the reports of the prompt manager too: a load level and a PANEL LOAD request. -/
structure ReportClosed (P : State → Prop) : Prop extends QuietClosed P where
  levels : ∀ l s, P s → P { s with prompts := { s.prompts with levels := l } }
  panelLoad : ∀ n l k s, P s → P (s.request (.panelLoad n l k)).2

section prompt_reports
variable {P : State → Prop} (C : ReportClosed P)
include C

theorem relevel_preserves (n : Nat) (s : State) (h : P s) : P (s.relevel n) := by
  unfold State.relevel
  dsimp only
  repeat' split
  · exact h
  · exact h
  · exact C.panelLoad _ _ _ _ (C.levels _ _ h)

theorem reportList_preserves (p : Option Nat) (n : Nat) (s : State) (h : P s) : P (s.reportList p n) := by
  unfold State.reportList
  apply relevel_preserves C
  apply contentChange_preserves C.toShowClosed
  split
  · exact wake_preserves C.toQuietClosed _ _ h
  · exact h

theorem reportLists_preserves (p : Option Nat) (c : Nat → Bool) (s : State) (h : P s) : P (s.reportLists p c) :=
  forEach_preserves P _ (fun n s => reportList_preserves C p n s) _ s h

theorem startReports_preserves (s : State) (h : P s) : P s.startReports :=
  forEach_preserves P _ (fun n s hs => C.panelLoad n .open_ 0 s hs) _ s h

/-- A removal of prompts keeps what the changed pool has. -/
theorem removePrompts_preserves (p : Prompt → Bool) (s : State)
    (h : P (s.setPool (s.prompts.pool.filter (fun x => !p x)))) : P (s.removePrompts p) :=
  reportLists_preserves C _ _ _ h

/-- A car state change taken by the prompt manager keeps what the changed pool has. -/
theorem promptsCarEvent_preserves (car : CarRow) (slot : Nat) (old new : CarRec) (s : State)
    (h : P (s.setPool (s.prompts.pool.filterMap (s.promptAfter car slot old new)))) :
    P (s.promptsCarEvent car slot old new) := reportLists_preserves C _ _ _ h

end prompt_reports

/-! ### Stops and lantern unit -/

/-- A property kept by the changes of the stops and lantern unit too: lantern records, deck records, free values. -/
structure LanternClosed (P : State → Prop) : Prop extends QuietClosed P where
  lanterns : ∀ l s, P s → P { s with stops := { s.stops with lanterns := l } }
  decks : ∀ slot f s, P s → P (s.setDecks slot f)
  free : ∀ k s, P s → P { s with free := k }

section lanterns
variable {P : State → Prop} (C : LanternClosed P)
include C

theorem applyMove_preserves (p : Nat) (m : LanternMove) (s : State) (h : P s) : P (s.applyMove p m) := by
  have h1 := C.lanterns (s.stops.lanterns.set p m.record) s h
  unfold State.applyMove
  dsimp only
  have h2 := wake_preserves C.toQuietClosed m.record.panel _ h1
  repeat' split
  all_goals first
    | exact h1
    | exact h2
    | exact contentChange_preserves C.toShowClosed _ _ h1
    | exact contentChange_preserves C.toShowClosed _ _ h2
    | exact chime_preserves C.toShowClosed _ _ _ h1
    | exact chime_preserves C.toShowClosed _ _ _ h2
    | exact contentChange_preserves C.toShowClosed _ _ (chime_preserves C.toShowClosed _ _ _ h1)
    | exact contentChange_preserves C.toShowClosed _ _ (chime_preserves C.toShowClosed _ _ _ h2)

theorem evaluateLantern_preserves (car : CarRow) (slot : Nat) (a : List (Deck × Nat)) (p : Nat) (s : State) (h : P s) :
    P (s.evaluateLantern car slot a p) := by
  unfold State.evaluateLantern
  dsimp only
  repeat' split
  all_goals first
    | exact h
    | exact applyMove_preserves C _ _ _ (C.free _ _ h)

theorem evaluateLanterns_preserves (slot : Nat) (a : List (Deck × Nat)) (s : State) (h : P s) :
    P (s.evaluateLanterns slot a) := by
  unfold State.evaluateLanterns
  split
  · exact h
  · exact forEach_preserves P _ (fun p s => evaluateLantern_preserves C _ slot a p s) _ s h

theorem removeStop_preserves (slot : Nat) (d : Deck) (l : Nat) (s : State) (h : P s) : P (s.removeStop slot d l) := by
  unfold State.removeStop
  split
  · exact contentChanges_preserves C.toShowClosed _ _ (C.decks _ _ _ h)
  · exact h

theorem stopsCarEvent_preserves (slot : Nat) (a : List (Deck × Nat)) (s : State) (h : P s) :
    P (s.stopsCarEvent slot a) :=
  evaluateLanterns_preserves C _ _ _
    (foldl_preserves P _ (fun s a => removeStop_preserves C slot a.1 a.2 s) a s h)

theorem lingerExpiry_preserves (panel slot : Nat) (s : State) (h : P s) : P (s.lingerExpiry panel slot) := by
  unfold State.lingerExpiry
  repeat' split
  all_goals first | exact h | exact applyMove_preserves C _ _ _ h

end lanterns

/-! ### Car tracker -/

/-- A property kept by a car state change event: the changes of its consumers, and what it does to the pool. -/
structure CarClosed (P : State → Prop) : Prop extends LanternClosed P where
  levels : ∀ l s, P s → P { s with prompts := { s.prompts with levels := l } }
  panelLoad : ∀ n l k s, P s → P (s.request (.panelLoad n l k)).2
  poolAfter : ∀ car slot old new s, P s → P (s.setPool (s.prompts.pool.filterMap (s.promptAfter car slot old new)))

section car_events
variable {P : State → Prop} (C : CarClosed P)
include C

theorem CarClosed.toReportClosed : ReportClosed P :=
  { toQuietClosed := C.toQuietClosed, levels := C.levels, panelLoad := C.panelLoad }

theorem raiseCarEvent_preserves (slot : Nat) (old new : CarRec) (b : Bool) (s : State) (h : P s) :
    P (s.raiseCarEvent slot old new b) := by
  unfold State.raiseCarEvent
  split
  · exact h
  · rename_i car _
    have h1 := promptsCarEvent_preserves C.toReportClosed car slot old new _
      (C.poolAfter car slot old new _ (stopsCarEvent_preserves C.toLanternClosed slot (arrivalsOf car old new) _
        (wakes_preserves C.toQuietClosed (s.panelsWhere (wokenBy car slot old new)) s h)))
    dsimp only
    split
    · exact contentChanges_preserves C.toShowClosed _ _ h1
    · exact h1

/-- Storing a record keeps what storing it alone keeps. -/
theorem updateCar_preserves (slot : Nat) (car : CarRow) (new : CarRec) (s : State) (h : P (s.setCar slot new)) :
    P (s.updateCar slot car new) := by
  unfold State.updateCar
  dsimp only
  split
  · exact h
  · exact raiseCarEvent_preserves C _ _ _ _ _ h

end car_events

/-- A property kept by the car tracker and by a cycle start: counts, items, stored records, and the cycle fields. -/
structure TrackerClosed (P : State → Prop) : Prop extends CarClosed P where
  count : ∀ k n s, P s → P (s.countN k n)
  raise : ∀ i s, P s → P (s.raise i)
  store : ∀ slot r s, P s → P (s.setCar slot r)
  base : ∀ b c e s, P s → P { s with cycle := { s.cycle with base := b, count := c, crossed := false, event := e } }

section tracker
variable {P : State → Prop} (C : TrackerClosed P)
include C

theorem raiseIf_preserves (b : Bool) (i : ExcItem) (s : State) (h : P s) : P (s.raiseIf b i) := by
  unfold State.raiseIf
  split
  · exact C.raise _ _ h
  · exact h

theorem carMotionTaken_preserves (slot : Nat) (m : Clock) (f : MotionFrame) (s : State) (h : P s) :
    P (s.carMotionTaken slot m f) := by
  unfold State.carMotionTaken
  split
  · exact h
  · split
    · exact C.count _ _ _ h
    · dsimp only
      apply updateCar_preserves C.toCarClosed
      apply C.store
      split
      · exact C.count _ _ _ (C.count _ _ _ h)
      · exact C.count _ _ _ h

theorem carStepTaken_preserves (slot : Nat) (m : Clock) (f : StepFrame) (s : State) (h : P s) :
    P (s.carStepTaken slot m f) := by
  unfold State.carStepTaken
  split
  · exact h
  · split
    · exact C.count _ _ _ h
    · dsimp only
      split
      · exact C.store _ _ _ (C.count _ _ _ h)
      · split
        · exact updateCar_preserves C.toCarClosed _ _ _ _ (C.store _ _ _ h)
        · exact updateCar_preserves C.toCarClosed _ _ _ _ (C.store _ _ _ (C.raise _ _ h))

theorem carServiceTaken_preserves (slot : Nat) (c : Byte) (s : State) (h : P s) : P (s.carServiceTaken slot c) := by
  unfold State.carServiceTaken
  split
  · exact h
  · split
    · exact C.count _ _ _ h
    · exact updateCar_preserves C.toCarClosed _ _ _ _ (C.store _ _ _ h)

theorem evaluateSilence_preserves (slot : Nat) (s : State) (h : P s) : P (s.evaluateSilence slot) := by
  unfold State.evaluateSilence
  split
  · exact h
  · exact updateCar_preserves C.toCarClosed _ _ _ _ (C.store _ _ _ (raiseIf_preserves C _ _ _ h))

theorem evaluateSilences_preserves (s : State) (h : P s) : P s.evaluateSilences :=
  forEach_preserves P _ (fun n s => evaluateSilence_preserves C n s) _ s h

theorem indicationExpiry_preserves (slot : Nat) (s : State) (h : P s) : P (s.indicationExpiry slot) := by
  unfold State.indicationExpiry
  split
  · exact updateCar_preserves C.toCarClosed _ _ _ _ (C.store _ _ _ h)
  · exact h

theorem intentChanged_preserves (slot : Nat) (car : CarRow) (b : CarDecks) (s : State) (h : P s) :
    P (s.intentChanged slot car b) := by
  unfold State.intentChanged
  extract_lets old
  split
  · split
    · exact raiseCarEvent_preserves C.toCarClosed _ _ _ _ _ (C.store _ _ _ h)
    · exact C.store _ _ _ h
  · exact h

theorem carCallsTaken_preserves (slot : Nat) (f : CallsFrame) (s : State) (h : P s) : P (s.carCallsTaken slot f) := by
  unfold State.carCallsTaken
  split
  · exact h
  · rename_i car _
    split
    · rename_i d intent _ _
      split
      · exact C.count _ _ _ h
      · extract_lets before old newer new t
        have h1 : P t := C.decks slot _ _ (C.count .fieldRange (stopsOutside car d f.stops) s h)
        split
        · have h2 : P (if old.intent = new.intent then t else t.intentChanged slot car before) := by
            split
            · exact h1
            · exact intentChanged_preserves C slot car before t h1
          split
          · exact h2
          · exact evaluateLanterns_preserves C.toLanternClosed _ _ _ (contentChanges_preserves C.toShowClosed _ _ h2)
        · exact h
    · exact C.count _ _ _ h

theorem cycleStart_preserves (c : CycleCause) (b : Clock) (n : BitVec 6) (s : State) (h : P s) :
    P (s.cycleStart c b n) := by
  unfold State.cycleStart State.carsCycleStart
  dsimp only
  have h1 := forEach_preserves P _ (fun m t => schedCycleStart_preserves C.toShowClosed (fun k => C.count .skippedMarks k)
    (s.cycleEvent c b n) s.cycle.count m t) s.panelIds _ (C.base b n (some (s.cycleEvent c b n)) s h)
  split
  · exact h1
  · exact evaluateSilences_preserves C _ h1

end tracker

end Sys2Proof.Machine
end

