-- ==== Sys2Proof/Laws/Events.lean ====
section
/-! SUPPORT. From the operations to a step: what a property needs so that every step keeps it, for properties that say
nothing of the bus station unit, the cycle unit and the status unit. -/

namespace Sys2Proof.Machine

/-- A property that every event keeps: it says nothing of the bus, cycle and status units, of pins and captures, and the
operations that change what it speaks of keep it. -/
structure EventClosed (P : State → Prop) : Prop extends CarClosed P where
  bus : ∀ b s, P s → P { s with bus := b }
  cycle : ∀ c s, P s → P { s with cycle := c }
  status : ∀ x s, P s → P { s with status := x }
  pins : ∀ x s, P s → P { s with mode := { s.mode with pins := x } }
  captures : ∀ x s, P s → P { s with mode := { s.mode with captures := x } }
  reset : ∀ c b s, P s → P (s.resetBy c b)
  loaded : ∀ l s, P s → P (s.loadEnded l)
  restart : ∀ s, P s → P s.restartTaken
  cycleStart : ∀ c b n s, P s → P (s.cycleStart c b n)
  motion : ∀ n m f s, P s → P (s.carMotionTaken n m f)
  step : ∀ n m f s, P s → P (s.carStepTaken n m f)
  service : ∀ n c s, P s → P (s.carServiceTaken n c)
  calls : ∀ n f s, P s → P (s.carCallsTaken n f)
  indication : ∀ n s, P s → P (s.indicationExpiry n)
  assign : ∀ f s, P s → P (s.assignTaken f)
  removal : ∀ p s, P s → P (s.removePrompts p)
  modes : ∀ a f s, P s → P (s.buildingModeTaken a f)
  claim : ∀ a s, P s → P (s.claimExpiry a)
  ack : ∀ n tag m s, P s → P (s.ackTaken n tag m)
  fails : ∀ n s, P s → P (s.attemptFails n)
  reprobe : ∀ n (s : State), s.reprobeDue n = true → P s → P (s.reprobe n)

section events
variable {P : State → Prop} (C : EventClosed P)
include C

/-! ### Counters and items -/

theorem countN_preserves (k : Counter) (n : Nat) (s : State) (h : P s) : P (s.countN k n) := C.status _ _ h

theorem raise_preserves (i : ExcItem) (s : State) (h : P s) : P (s.raise i) :=
  C.bus { s.bus with queue := s.bus.queue.map (TxFrame.dropItem i) } _
    (C.status { s.status with exceptions := s.status.exceptions.add i } s h)

/-! ### The transmit queue -/

theorem request_preserves (p : TxPayload) (s : State) (h : P s) : P (s.request p).2 := by
  unfold State.request
  repeat' split
  all_goals first
    | exact h
    | exact C.status _ _ h
    | exact C.bus _ _ h
    | exact raise_preserves C _ _ (countN_preserves C _ _ _ h)

theorem tellWithdrawn_preserves (f : TxFrame) (s : State) (h : P s) : P (s.tellWithdrawn f) := by
  unfold State.tellWithdrawn
  split <;> first | exact h | exact C.cycle _ _ h

theorem tellDropped_preserves (f : TxFrame) (s : State) (h : P s) : P (s.tellDropped f) := by
  unfold State.tellDropped
  repeat' split
  all_goals first | exact h | exact C.cycle _ _ h | exact C.captures _ _ h | exact C.status _ _ h

theorem withdrawFrames_preserves (p : TxFrame → Bool) (s : State) (h : P s) : P (s.withdrawFrames p) := by
  unfold State.withdrawFrames
  exact foldl_preserves P _ (fun s f => tellWithdrawn_preserves C f s) _ _ (C.bus _ _ h)

theorem enterListenOnly_preserves (s : State) (h : P s) : P s.enterListenOnly :=
  raise_preserves C _ _
    (foldl_preserves P _ (fun s f => tellDropped_preserves C f s) s.bus.queue _ (countN_preserves C _ _ _ (C.bus _ _ h)))

theorem clash_preserves (s : State) (h : P s) : P s.clash := by
  unfold State.clash
  extract_lets t b u
  have hu : P u := C.bus _ t (raise_preserves C _ _ h)
  split
  · exact enterListenOnly_preserves C _ hu
  · exact hu

theorem returnFrame_preserves (f : TxFrame) (s : State) (h : P s) : P (s.returnFrame f) := by
  unfold State.returnFrame
  split
  · exact tellWithdrawn_preserves C _ _ (C.bus _ _ h)
  · exact C.bus _ _ h

theorem ownAttempt_preserves (s : State) (h : P s) : P s.ownAttempt :=
  C.bus _ _ (C.bus { s.bus with queue := startHead s.bus.queue } _ h)

theorem beginAttempt_preserves (s : State) (h : P s) : P s.beginAttempt := by
  unfold State.beginAttempt
  split
  · exact ownAttempt_preserves C _ h
  · exact h

theorem attemptStart_preserves (s : State) (h : P s) : P s.attemptStart := by
  unfold State.attemptStart
  repeat' split
  · exact ownAttempt_preserves C _ h
  · exact C.bus _ _ h
  · exact h

theorem failedAttempt_preserves (s : State) (h : P s) : P s.failedAttempt := by
  unfold State.failedAttempt
  split
  · exact h
  · extract_lets t b u v
    have hv : P v := C.bus _ u (C.bus _ t (countN_preserves C _ _ s h))
    split
    · exact enterListenOnly_preserves C _ hv
    · exact returnFrame_preserves C _ _ hv

/-! ### Reports -/

theorem requestPart_preserves (q : Query) (s : State) (h : P s) : P (s.requestPart q) := by
  have h1 : ∀ b, P (s.takeFree b) := fun b => by
    unfold State.takeFree
    split
    · exact C.free _ _ h
    · exact h
  exact C.status _ _ (request_preserves C _ _ (h1 _))

theorem reportCompleted_preserves (w : Bool) (e : ReportEffect) (s : State) (h : P s) : P (s.reportCompleted w e) := by
  have h1 : P (s.reportEffect e) := by
    unfold State.reportEffect
    split <;> first | exact h | exact C.status _ _ h
  unfold State.reportCompleted State.continueQuery
  dsimp only
  repeat' split
  all_goals first | exact h1 | exact requestPart_preserves C _ _ h1 | exact C.status _ _ h1

theorem queryTaken_preserves (f : QueryFrame) (s : State) (h : P s) : P (s.queryTaken f) := by
  unfold State.queryTaken
  split
  · apply requestPart_preserves C
    split
    · exact withdrawFrames_preserves C _ _ h
    · exact h
  · exact C.status _ _ h

/-! ### Captures -/

theorem requestSense_preserves (l e : Nat) (p : BitVec 6 × Nat) (s : State) (h : P s) : P (s.requestSense l e p) :=
  C.captures _ _ (request_preserves C _ _ h)

theorem senseCompleted_preserves (l k : Nat) (s : State) (h : P s) : P (s.senseCompleted l k) := by
  unfold State.senseCompleted
  extract_lets t
  have ht : P t := C.captures _ _ h
  repeat' split
  all_goals first | exact ht | exact requestSense_preserves C _ _ _ _ ht

theorem senseEdge_preserves (l : Nat) (s : State) (h : P s) : P (s.senseEdge l) := by
  unfold State.senseEdge
  repeat' split
  · exact h
  · exact wakes_preserves C.toQuietClosed _ _ h
  · exact h
  · exact forEach_preserves P _ (fun n s => lampStart_preserves C.toQuietClosed n s) _ _ h
  · exact contentChanges_preserves C.toShowClosed _ _
      (forEach_preserves P (fun n s => s.togglePin n) (fun n s => C.pins _ s) _ _ h)
  · exact requestSense_preserves C _ _ _ _ (C.captures _ _ h)

/-! ### The cycle -/

theorem withdrawTempo_preserves (s : State) (h : P s) : P s.withdrawTempo := by
  unfold State.withdrawTempo
  split
  · exact withdrawFrames_preserves C _ _ h
  · exact h

theorem tempoHeard_preserves (own : Bool) (a : Byte) (m : Clock) (c : BitVec 6) (y : SyncState) (s : State) (h : P s) :
    P (s.tempoHeard own a m c y) := by
  unfold State.tempoHeard
  extract_lets t u v
  have ht : P t := C.cycle _ _ (by
    split
    · exact C.status _ _ h
    · exact h)
  have hu : P u := by
    show P (if own then t else t.withdrawTempo)
    split
    · exact ht
    · exact withdrawTempo_preserves C _ ht
  exact C.cycleStart _ _ _ _ (C.cycle _ _ hu)

theorem localRestart_preserves (s : State) (h : P s) : P s.localRestart := by
  unfold State.localRestart
  exact C.cycleStart _ _ _ _ (withdrawTempo_preserves C _ (C.cycle { s.cycle with sync := s.cycle.sync.restarted } s h))

theorem tempoThreshold_preserves (s : State) (h : P s) : P s.tempoThreshold := by
  unfold State.tempoThreshold
  extract_lets cyc u
  have hu : P u := C.cycle _ _ h
  split
  · exact C.cycle _ _ (request_preserves C _ _ hu)
  · exact hu

theorem attemptCompleted_preserves (s : State) (h : P s) : P s.attemptCompleted := by
  unfold State.attemptCompleted
  split
  · exact h
  · rename_i f _
    extract_lets t
    have hu : P { t with bus := { t.bus with failCount := t.bus.failCount - 1, firstBit := none } } := C.bus _ _ (C.bus _ _ h)
    generalize ({ t with bus := { t.bus with failCount := t.bus.failCount - 1, firstBit := none } } : State) = u at hu
    unfold State.tellCompleted
    split
    · extract_lets cyc v
      have hv : P v := C.cycle _ _ hu
      split
      · exact tempoHeard_preserves C _ _ _ _ _ _ hv
      · exact hv
    · exact hu
    · exact senseCompleted_preserves C _ _ _ hu
    · exact reportCompleted_preserves C _ _ _ hu

/-! ### Reception -/

omit C in
theorem routeCar_preserves (c : Byte) (f : Nat → State → State) (hf : ∀ n s, P s → P (f n s)) (s : State) (h : P s) :
    P (s.routeCar c f) := by
  unfold State.routeCar
  repeat' split
  all_goals first | exact h | exact hf _ _ h

theorem route_preserves (rx : Rx) (m : Clock) (g : GoodFrame) (s : State) (h : P s) : P (s.route rx m g) := by
  have ht : P s.tempoLowers := by
    unfold State.tempoLowers
    split
    · exact C.bus _ _ h
    · exact h
  unfold State.route
  split
  · split
    · exact C.modes _ _ _ h
    · exact h
  · exact routeCar_preserves _ _ (fun n s => C.service n _ s) _ h
  · split
    · exact C.restart _ h
    · exact h
  · dsimp only
    split
    · exact tempoHeard_preserves C _ _ _ _ _ _ ht
    · exact ht
  · exact routeCar_preserves _ _ (fun n s => C.motion n _ _ s) _ h
  · exact routeCar_preserves _ _ (fun n s => C.step n _ _ s) _ h
  · exact routeCar_preserves _ _ (fun n s => C.calls n _ s) _ h
  · split
    · exact C.assign _ _ h
    · exact h
  · split
    · exact C.removal _ _ h
    · exact h
  · split
    · exact queryTaken_preserves C _ _ h
    · exact h
  · exact h

theorem takeGood_preserves (rx : Rx) (m : Clock) (g : GoodFrame) (s : State) (h : P s) : P (s.takeGood rx m g) := by
  unfold State.takeGood
  repeat' split
  · exact C.status _ _ h
  · exact clash_preserves C _ h
  · exact route_preserves C _ _ _ _ h

theorem receive_preserves (rx : Rx) (g : GoodFrame) (s : State) (h : P s) : P (s.receive rx g) := by
  have hb : P s.busy := C.bus _ _ h
  unfold State.receive
  split
  · exact takeGood_preserves C _ _ _ _ hb
  · exact hb

theorem receiveRaw_preserves (f : RawFrame) (s : State) (h : P s) : P (s.receiveRaw f) := by
  have hb : P s.busy := C.bus _ _ h
  unfold State.receiveRaw
  split
  · unfold State.takeVerdict
    split
    · exact C.bus _ _ (C.status _ _ hb)
    · exact hb
    · exact takeGood_preserves C _ _ _ _ hb
  · exact hb

/-! ### Commands and steps -/

omit C in
theorem whenRunning_preserves (f : State → State) (hf : ∀ s, P s → P (f s)) (s : State) (h : P s) :
    P (s.whenRunning f) := by
  unfold State.whenRunning
  split
  · exact hf _ h
  · exact h

theorem nakTaken_preserves (n : Nat) (tag : Byte) (s : State) (h : P s) : P (s.nakTaken n tag) := by
  unfold State.nakTaken
  split
  · exact h
  · exact C.fails _ _ h

/-- Every command keeps the property. -/
theorem exec_preserves (c : Instr) (s t : State) (h : P s) (e : exec c s = .next t) : P t := by
  have hif : ∀ (b : Bool) (f : State → State), (b = true → P (f s)) → P (if b = true then f s else s) := fun b f hf => by
    split
    · rename_i hb
      exact hf hb
    · exact h
  have when : ∀ f : State → State, (∀ s, P s → P (f s)) → P (s.whenRunning f) := fun f hf =>
    whenRunning_preserves f hf s h
  have next : ∀ u, P u → (Host.Outcome.next u : Answered) = .next t → P t := fun u hu e => by
    injection e with e
    exact e ▸ hu
  cases c <;> refine next _ ?_ e
  case power => exact C.reset _ _ _ h
  case pinReset => exact C.reset _ _ _ h
  case endOfLoading =>
    split
    · exact C.loaded _ _ h
    · exact h
  case badFrame => exact receiveRaw_preserves C _ _ h
  case stationClash => exact receiveRaw_preserves C _ _ h
  case buildingMode => exact receive_preserves C _ _ _ h
  case carService => exact receive_preserves C _ _ _ h
  case restart => exact receive_preserves C _ _ _ h
  case tempo => exact receive_preserves C _ _ _ h
  case carMotion => exact receive_preserves C _ _ _ h
  case carStep => exact receive_preserves C _ _ _ h
  case carCalls => exact receive_preserves C _ _ _ h
  case assign => exact receive_preserves C _ _ _ h
  case withdraw => exact receive_preserves C _ _ _ h
  case statusQuery => exact receive_preserves C _ _ _ h
  case attemptStart => exact attemptStart_preserves C _ h
  case arbitrationWon => exact C.bus _ _ h
  case lostArbitration =>
    unfold State.lostArbitration
    split
    · exact returnFrame_preserves C _ _ h
    · exact h
  case failedAttempt => exact failedAttempt_preserves C _ h
  case attemptCompleted => exact attemptCompleted_preserves C _ h
  case tempoThreshold => exact hif _ _ (fun _ => tempoThreshold_preserves C _ h)
  case localRestart => exact hif _ _ (fun _ => localRestart_preserves C _ h)
  case indicationTimerExpiry =>
    refine when _ (fun s h => ?_)
    split
    · exact C.indication _ _ h
    · exact h
  case lingerExpiry => exact when _ (fun s h => lingerExpiry_preserves C.toLanternClosed _ _ _ h)
  case holdExpiry => exact when _ (fun s h => C.removal _ _ h)
  case claimWatchExpiry => exact when _ (fun s h => C.claim _ _ h)
  case quietTimerExpiry =>
    refine when _ (fun s h => ?_)
    split
    · exact quietExpiry_preserves C.toQuietClosed _ _ h
    · exact h
  case senseLineEdge => exact when _ (fun s h => senseEdge_preserves C _ _ h)
  case lampTestExpiry =>
    refine when _ (fun s h => ?_)
    split
    · exact lampEnd_preserves C.toQuietClosed _ _ h
    · exact h
  case preloadInstant => exact when _ (fun s h => takeInstants_preserves C.toShowClosed _ _ h)
  case showMark => exact when _ (fun s h => takeMarks_preserves C.toShowClosed _ _ h)
  case scrollExpiry =>
    refine when _ (fun s h => ?_)
    split
    · exact scrollExpiry_preserves C.toShowClosed _ _ h
    · exact h
  case linkAck => exact C.ack _ _ _ _ h
  case linkNak => exact nakTaken_preserves C _ _ _ h
  case linkTimeout n => exact hif _ (fun s => s.attemptFails n) (fun _ => C.fails _ _ h)
  case linkReplyBad =>
    unfold State.replyTaken
    split
    · exact h
    · exact C.ack _ _ _ _ h
    · exact nakTaken_preserves C _ _ _ h
  case reprobeExpiry n => exact hif _ (fun s => s.reprobe n) (fun hd => C.reprobe _ _ hd h)
  case busBecomesFree => exact C.bus _ _ h

end events

end Sys2Proof.Machine
end

