-- ==== Sys2Proof/Laws/Links.lean ====
section
/-! SUPPORT. The links: what the operations of the link controller do to a record, and that they keep it within the rules of
chapter 10. -/

namespace Sys2Proof.Machine

/-! ### Queues -/

/-- The capacities of a queue of waiting messages. -/
structure QueueOk (q : List LinkMsg) : Prop where
  room : q.length ≤ 3
  loads : kindCount LinkMsg.isLoad q ≤ 1
  brights : kindCount LinkMsg.isBright q ≤ 1
  tests : kindCount LinkMsg.isTest q ≤ 1

theorem LinkRec.ok.queueOk {l : LinkRec} (h : l.ok) : QueueOk l.queue := ⟨h.room, h.loads, h.brights, h.tests⟩

theorem kindCount_sublist {p : LinkMsg → Bool} {q r : List LinkMsg} (h : q.Sublist r) :
    kindCount p q ≤ kindCount p r := (h.filter p).length_le

theorem QueueOk.sublist {q r : List LinkMsg} (h : QueueOk r) (hs : q.Sublist r) : QueueOk q :=
  ⟨Nat.le_trans hs.length_le h.room, Nat.le_trans (kindCount_sublist hs) h.loads,
   Nat.le_trans (kindCount_sublist hs) h.brights, Nat.le_trans (kindCount_sublist hs) h.tests⟩

theorem kindCount_append (p : LinkMsg → Bool) (q r : List LinkMsg) :
    kindCount p (q ++ r) = kindCount p q + kindCount p r := by
  unfold kindCount
  rw [List.filter_append, List.length_append]

theorem kindCount_single_le (p : LinkMsg → Bool) (m : LinkMsg) : kindCount p [m] ≤ 1 := by
  unfold kindCount
  exact List.length_filter_le p [m]

/-- A queue takes a message at its tail when there is room and no other of its kind stands in it. -/
theorem QueueOk.push {q : List LinkMsg} (m : LinkMsg) (h : QueueOk q) (hr : q.length < 3)
    (hl : m.isLoad = true → kindCount LinkMsg.isLoad q = 0)
    (hb : m.isBright = true → kindCount LinkMsg.isBright q = 0)
    (ht : m.isTest = true → kindCount LinkMsg.isTest q = 0) : QueueOk (q ++ [m]) := by
  have one : ∀ p : LinkMsg → Bool, (p m = true → kindCount p q = 0) → kindCount p q ≤ 1 →
      kindCount p (q ++ [m]) ≤ 1 := by
    intro p h0 h1
    rw [kindCount_append]
    cases hp : p m
    · have : kindCount p [m] = 0 := by simp [kindCount, hp]
      omega
    · have := kindCount_single_le p m
      have := h0 hp
      omega
  refine ⟨?_, one _ hl h.loads, one _ hb h.brights, one _ ht h.tests⟩
  rw [List.length_append, List.length_singleton]
  omega

theorem eraseFirst_sublist (p : LinkMsg → Bool) (q : List LinkMsg) : (eraseFirst p q).Sublist q := by
  induction q with
  | nil => exact List.Sublist.refl _
  | cons m q ih =>
    unfold eraseFirst
    split
    · exact List.sublist_cons_self _ _
    · exact ih.cons_cons _

theorem eraseFirst_length {p : LinkMsg → Bool} {q : List LinkMsg} (h : q.any p = true) :
    (eraseFirst p q).length + 1 = q.length := by
  induction q with
  | nil => simp at h
  | cons m q ih =>
    unfold eraseFirst
    split
    · rfl
    · rename_i hm
      rw [List.any_cons, Bool.or_eq_true] at h
      rcases h with h | h
      · exact absurd h hm
      · rw [List.length_cons, List.length_cons, ih h]

theorem dropLoad_sublist (q : List LinkMsg) : (dropLoad q).Sublist q := by
  induction q with
  | nil => exact List.Sublist.refl _
  | cons m q ih =>
    unfold dropLoad
    split
    · exact List.filter_sublist.trans (List.sublist_cons_self _ _)
    · exact ih.cons_cons _

theorem dropLoad_length {q : List LinkMsg} (h : q.any LinkMsg.isLoad = true) :
    (dropLoad q).length + 1 ≤ q.length := by
  induction q with
  | nil => simp at h
  | cons m q ih =>
    unfold dropLoad
    split
    · have := List.length_filter_le (fun x => !LinkMsg.isFlip x) q
      rw [List.length_cons]
      omega
    · rename_i hm
      rw [List.any_cons, Bool.or_eq_true] at h
      rcases h with h | h
      · exact absurd h hm
      · have := ih h
        rw [List.length_cons, List.length_cons]
        omega

theorem kindCount_filter_not (p : LinkMsg → Bool) (q : List LinkMsg) : kindCount p (q.filter (fun x => !p x)) = 0 := by
  simp [kindCount]

theorem kindCount_zero_of_any {p : LinkMsg → Bool} {q : List LinkMsg} (h : q.any p = false) : kindCount p q = 0 := by
  simp only [kindCount, List.length_eq_zero_iff, List.filter_eq_nil_iff]
  intro a ha
  have := List.any_eq_false.mp h a ha
  simpa using this

theorem mergeFlip_kinds {work : Nat} {late : Bool} {q r : List LinkMsg} (h : mergeFlip work late q = some r) :
    r.length = q.length ∧ ∀ p : LinkMsg → Bool, (∀ w w' b b', p (.flip w b) = p (.flip w' b')) →
      kindCount p r = kindCount p q := by
  induction q generalizing r with
  | nil => simp [mergeFlip] at h
  | cons m q ih =>
    unfold mergeFlip at h
    split at h
    · rename_i rest' hr
      injection h with h
      subst h
      have := ih hr
      refine ⟨by rw [List.length_cons, List.length_cons, this.1], fun p hp => ?_⟩
      have h2 := this.2 p hp
      unfold kindCount at *
      rw [List.filter_cons, List.filter_cons]
      split
      · rw [List.length_cons, List.length_cons, h2]
      · exact h2
    · split at h
      · split at h
        · cases h
        · injection h with h
          subst h
          refine ⟨rfl, fun p hp => ?_⟩
          unfold kindCount
          rename_i w0 b0 _
          have e : p (.flip work (b0 || late)) = p (.flip w0 b0) := hp _ _ _ _
          rw [List.filter_cons, List.filter_cons, e]
          split <;> rfl
      · cases h

theorem kindCount_map_load (p : LinkMsg → Bool) (c : Content) (w : Nat) (hp : ∀ c c' w w', p (.load c w) = p (.load c' w'))
    (q : List LinkMsg) :
    kindCount p (q.map (fun x => if x.isLoad then .load c w else x)) = kindCount p q := by
  induction q with
  | nil => rfl
  | cons m q ih =>
    unfold kindCount at *
    rw [List.map_cons, List.filter_cons, List.filter_cons]
    have : p (if m.isLoad then .load c w else m) = p m := by
      cases m with
      | load c' w' => exact hp _ _ _ _
      | flip _ _ => rfl
      | bright _ => rfl
      | chime _ => rfl
      | test _ => rfl
      | probe _ _ => rfl
    rw [this]
    split
    · rw [List.length_cons, List.length_cons, ih]
    · exact ih

/-! ### Work placed in a queue (R156 to R160) -/

/-- Placing work changes the queue and the stale flags, and keeps the capacities. -/
theorem LinkRec.append_spec (l : LinkRec) (m : LinkMsg) (h : QueueOk l.queue)
    (hl : m.isLoad = true → kindCount LinkMsg.isLoad l.queue = 0)
    (hb : m.isBright = true → kindCount LinkMsg.isBright l.queue = 0)
    (ht : m.isTest = true → kindCount LinkMsg.isTest l.queue = 0) :
    ∃ q page bright, l.append m = { l with queue := q, pageStale := page, brightStale := bright } ∧ QueueOk q := by
  have le0 : ∀ {p : LinkMsg → Bool} {q : List LinkMsg}, q.Sublist l.queue → kindCount p l.queue = 0 → kindCount p q = 0 :=
    fun hs h0 => Nat.le_zero.mp (Nat.le_trans (kindCount_sublist hs) (Nat.le_of_eq h0))
  have push : ∀ {q : List LinkMsg}, q.Sublist l.queue → q.length < 3 → QueueOk (q ++ [m]) := fun hs hr =>
    (h.sublist hs).push m hr (fun x => le0 hs (hl x)) (fun x => le0 hs (hb x)) (fun x => le0 hs (ht x))
  have room := h.room
  have step : ∀ l' ok, l.makeRoom m = (l', ok) →
      l.append m = if ok then { l' with queue := l'.queue ++ [m] } else l' := fun l' ok e => by
    unfold LinkRec.append
    rw [e]
  unfold LinkRec.makeRoom at step
  by_cases h1 : l.queue.length < Config.linkQueueSize
  · rw [if_pos h1] at step
    rw [step _ _ rfl]
    exact ⟨_, _, _, rfl, push (List.Sublist.refl _) h1⟩
  rw [if_neg h1] at step
  by_cases h2 : l.queue.any LinkMsg.isBright = true
  · rw [if_pos h2] at step
    rw [step _ _ rfl]
    have := eraseFirst_length h2
    exact ⟨_, _, _, rfl, push (eraseFirst_sublist _ _) (Nat.lt_of_succ_le (Nat.le_trans (Nat.le_of_eq this) room))⟩
  rw [if_neg h2] at step
  by_cases h3 : l.queue.any LinkMsg.isLoad = true
  · rw [if_pos h3] at step
    rw [step _ _ rfl]
    have := dropLoad_length h3
    cases m.isFlip
    · exact ⟨_, _, _, rfl, push (dropLoad_sublist _) (Nat.lt_of_succ_le (Nat.le_trans this room))⟩
    · exact ⟨_, _, _, rfl, h.sublist (dropLoad_sublist _)⟩
  rw [if_neg h3] at step
  by_cases h4 : l.queue.any LinkMsg.isChime = true
  · rw [if_pos h4] at step
    rw [step _ _ rfl]
    have := eraseFirst_length h4
    exact ⟨_, _, _, rfl, push (eraseFirst_sublist _ _) (Nat.lt_of_succ_le (Nat.le_trans (Nat.le_of_eq this) room))⟩
  rw [if_neg h4] at step
  rw [step _ _ rfl]
  exact ⟨_, _, _, rfl, h⟩

/-- Placing work on an UP link changes the queue and the stale flags alone, and keeps the capacities. -/
theorem LinkRec.place_spec (l : LinkRec) (m : LinkMsg) (h : QueueOk l.queue) :
    ∃ q page bright, l.place m = { l with queue := q, pageStale := page, brightStale := bright } ∧ QueueOk q := by
  unfold LinkRec.place
  cases m with
  | probe w n => exact ⟨_, _, _, rfl, h⟩
  | load c w =>
    dsimp only
    by_cases ha : l.queue.any LinkMsg.isLoad = true
    · rw [if_pos ha]
      refine ⟨_, _, _, rfl, ⟨by rw [List.length_map]; exact h.room, ?_, ?_, ?_⟩⟩
      all_goals rw [kindCount_map_load _ _ _ (fun _ _ _ _ => rfl)]
      · exact h.loads
      · exact h.brights
      · exact h.tests
    · rw [if_neg ha]
      exact l.append_spec _ h (fun _ => kindCount_zero_of_any (by simpa using ha)) (fun x => Bool.noConfusion x) (fun x => Bool.noConfusion x)
  | flip w b =>
    dsimp only
    cases hm : mergeFlip w b l.queue with
    | some q =>
      have := mergeFlip_kinds hm
      refine ⟨_, _, _, rfl, ⟨by rw [this.1]; exact h.room, ?_, ?_, ?_⟩⟩
      all_goals rw [this.2 _ (fun _ _ _ _ => rfl)]
      · exact h.loads
      · exact h.brights
      · exact h.tests
    | none => exact l.append_spec _ h (fun x => Bool.noConfusion x) (fun x => Bool.noConfusion x) (fun x => Bool.noConfusion x)
  | bright b =>
    obtain ⟨q, p, br, e, hq⟩ := LinkRec.append_spec { l with queue := l.queue.filter (fun x => !x.isBright) } (.bright b)
      (h.sublist List.filter_sublist) (fun x => Bool.noConfusion x) (fun _ => kindCount_filter_not _ _) (fun x => Bool.noConfusion x)
    exact ⟨q, p, br, e, hq⟩
  | test b =>
    obtain ⟨q, p, br, e, hq⟩ := LinkRec.append_spec { l with queue := l.queue.filter (fun x => !x.isTest) } (.test b)
      (h.sublist List.filter_sublist) (fun x => Bool.noConfusion x) (fun x => Bool.noConfusion x) (fun _ => kindCount_filter_not _ _)
    exact ⟨q, p, br, e, hq⟩
  | chime k => exact l.append_spec _ h (fun x => Bool.noConfusion x) (fun x => Bool.noConfusion x) (fun x => Bool.noConfusion x)

/-! ### Link records stay within the rules -/

/-- An UP record may change its queue and stale flags within the capacities. -/
theorem LinkRec.ok.requeue {l : LinkRec} (h : l.ok) (up : l.state = .up) {q : List LinkMsg} (hq : QueueOk q)
    (p b : Bool) : LinkRec.ok { l with queue := q, pageStale := p, brightStale := b } :=
  { room := hq.room, loads := hq.loads, brights := hq.brights, tests := hq.tests,
    idle := fun n => absurd up n,
    down := h.down, attempts := h.attempts, timer := h.timer }

/-- A message is put in flight with an attempt number of 1..3 on a link that is not DOWN. -/
theorem LinkRec.ok.fly {l : LinkRec} (h : l.ok) (nd : l.state ≠ .down) (m : LinkMsg) {a : Nat} (ha : 1 ≤ a) (hb : a ≤ 3)
    (now : Clock) : (l.fly m a now).ok :=
  { room := h.room, loads := h.loads, brights := h.brights, tests := h.tests, idle := h.idle,
    down := fun d => absurd d nd,
    attempts := fun f hf => by
      simp only [LinkRec.fly, Option.some.injEq] at hf
      subst hf
      exact ⟨ha, hb⟩,
    timer := h.timer }

theorem LinkRec.ok.hand {l : LinkRec} (h : l.ok) (m : LinkMsg) (now : Clock) : (l.hand m now).ok := by
  unfold LinkRec.hand
  split
  · rename_i up
    extract_lets m'
    split
    · exact h.fly (fun d => by rw [up] at d; cases d) _ (Nat.le_refl 1) (by omega) _
    · obtain ⟨q, p, b, e, hq⟩ := l.place_spec _ h.queueOk
      rw [e]
      exact h.requeue up hq p b
  · exact h

theorem LinkRec.ok.dequeue {l : LinkRec} (h : l.ok) {q : List LinkMsg} (hs : q.Sublist l.queue) :
    LinkRec.ok { l with queue := q } :=
  { room := Nat.le_trans hs.length_le h.room, loads := Nat.le_trans (kindCount_sublist hs) h.loads,
    brights := Nat.le_trans (kindCount_sublist hs) h.brights, tests := Nat.le_trans (kindCount_sublist hs) h.tests,
    idle := fun n => by
      have hi := h.idle n
      refine ⟨?_, hi.2⟩
      rw [hi.1] at hs
      exact List.sublist_nil.mp hs,
    down := h.down, attempts := h.attempts, timer := h.timer }

/-- A record whose message in flight is gone. -/
theorem LinkRec.ok.landed {l : LinkRec} (h : l.ok) : LinkRec.ok { l with inFlight := none } :=
  { h with down := fun _ => rfl, attempts := fun f hf => absurd hf (by simp) }

/-- A record with nothing queued, no stale flag and no timer in a state other than FAULTED. -/
theorem LinkRec.ok.cleared {l : LinkRec} (st : LinkState) (hs : st ≠ .faulted) (hd : st ≠ .down) (fl : Option InFlight)
    (ha : ∀ f, fl = some f → 1 ≤ f.attempt ∧ f.attempt ≤ 3) :
    LinkRec.ok { l with state := st, inFlight := fl, queue := [], pageStale := false, brightStale := false,
                        reprobe := none } :=
  { room := by simp, loads := by simp [kindCount], brights := by simp [kindCount], tests := by simp [kindCount],
    idle := fun _ => ⟨rfl, rfl, rfl⟩, down := fun d => absurd d hd, attempts := ha,
    timer := ⟨fun x => absurd x (by simp), fun x => absurd x hs⟩ }

/-! ### The eight links -/

theorem setLink_linksOk {s : State} (h : s.linksOk) (n : Nat) (f : LinkRec → LinkRec)
    (hf : ∀ l, s.links[n]? = some l → l.ok → (f l).ok) : (s.setLink n f).linksOk := by
  refine ⟨by simp only [State.setLink, List.length_modify]; exact h.1, ?_⟩
  intro l hl
  obtain ⟨i, hi⟩ := List.mem_iff_getElem?.mp hl
  simp only [State.setLink, List.getElem?_modify] at hi
  cases hg : s.links[i]? with
  | none => simp [hg] at hi
  | some l0 =>
    have ok0 := h.2 l0 (List.mem_iff_getElem?.mpr ⟨i, hg⟩)
    rw [hg] at hi
    by_cases hn : n = i
    · subst hn
      simp only [if_true, Option.map_some, Option.map_eq_map, Option.some.injEq] at hi
      subst hi
      exact hf l0 hg ok0
    · simp only [hn, if_false, Option.map_eq_map, Option.map_some, Option.some.injEq] at hi
      subst hi
      exact ok0

theorem hand_linksOk (n : Nat) (m : LinkMsg) (s : State) (h : s.linksOk) : (s.hand n m).linksOk :=
  setLink_linksOk h n _ (fun _ _ ok => ok.hand m _)

theorem cancelLoad_linksOk (n w : Nat) (s : State) (h : s.linksOk) : (s.cancelLoad n w).linksOk :=
  setLink_linksOk h n _ (fun l _ ok => by
    split
    · exact ok.dequeue List.filter_sublist
    · exact ok)

theorem request_links (p : TxPayload) (s : State) : (s.request p).2.links = s.links := by
  unfold State.request
  repeat' split
  all_goals rfl

/-- Every operation of a car state change event, and of what lies below it, keeps the links. -/
theorem linksOk_closed : CarClosed State.linksOk :=
  { sched := fun _ _ _ h => h, hand := hand_linksOk, cancel := cancelLoad_linksOk, quiet := fun _ _ _ h => h,
    lamp := fun _ _ _ h => h, lanterns := fun _ _ h => h, decks := fun _ _ _ h => h, free := fun _ _ h => h,
    levels := fun _ _ h => h, poolAfter := fun _ _ _ _ _ h => h,
    panelLoad := fun n l k s h => by
      unfold State.linksOk
      rw [request_links]
      exact h }

theorem startProbing_linksOk (n : Nat) (s : State) (h : s.linksOk) : (s.startProbing n).linksOk :=
  setLink_linksOk h n _ (fun l _ _ => by
    unfold LinkRec.fly
    refine LinkRec.ok.cleared (l := { l with tag := l.tag + 1 }) .probing (by decide) (by decide) _ ?_
    intro f hf
    injection hf with hf
    subst hf
    exact ⟨Nat.le_refl 1, Nat.le_of_ble_eq_true rfl⟩)

theorem sendNext_linksOk (n : Nat) (s : State) (h : s.linksOk) : (s.sendNext n).linksOk := by
  unfold State.sendNext
  split
  · rename_i l hl
    split
    · rename_i hu
      split
      · rename_i m rest hq
        refine setLink_linksOk (s := if m.isLateFlip then s.count .lateFlips else s) (by split <;> exact h) n _ ?_
        intro l' hl' ok'
        have : (if m.isLateFlip then s.count .lateFlips else s).links = s.links := by split <;> rfl
        rw [this] at hl'
        have e : l' = l := by
          unfold State.link at hl
          rw [hl] at hl'
          injection hl' with e
          exact e.symm
        subst e
        exact (ok'.dequeue (hq ▸ List.sublist_cons_self m rest)).fly (by
          show l'.state ≠ .down
          rw [hu.1]
          decide) m (Nat.le_refl 1) (Nat.le_of_ble_eq_true rfl) _
      · exact h
    · exact h
  · exact h

theorem linkRestored_linksOk (n : Nat) (s : State) (h : s.linksOk) (hf : ∀ l, s.links[n]? = some l → l.inFlight = none) :
    (s.linkRestored n).linksOk := by
  have h1 : (s.setLink n (fun l =>
      { l with state := .up, queue := [], pageStale := false, brightStale := false, reprobe := none })).linksOk :=
    setLink_linksOk h n _ (fun l hl _ => by
      have e := hf l hl
      have := LinkRec.ok.cleared (l := l) .up (by decide) (by decide) none (fun f x => by cases x)
      rw [← e] at this
      exact this)
  unfold State.linkRestored
  dsimp only
  split
  · exact hand_linksOk _ _ _ (schedLinkUp_preserves linksOk_closed.toShowClosed _ _ h1)
  · exact sendServicePage_preserves linksOk_closed.toShowClosed _ _ h1

theorem clearStale_linksOk (n : Nat) (s : State) (h : s.linksOk) : (s.clearStale n).linksOk :=
  setLink_linksOk h n _ (fun _ _ ok =>
    { ok with idle := fun x => ⟨(ok.idle x).1, rfl, rfl⟩ })

theorem drained_linksOk (n : Nat) (s : State) (h : s.linksOk) : (s.drained n).linksOk := by
  have C := linksOk_closed.toShowClosed
  have h1 := clearStale_linksOk n s h
  unfold State.drained
  split
  · exact h
  · rename_i l _
    split
    · dsimp only
      generalize s.clearStale n = t at h1
      split
      · have h2 : (if l.pageStale then (t.schedLinkDown n).schedLinkUp n else t).linksOk := by
          split
          · exact schedLinkUp_preserves C _ _ (schedLinkDown_preserves C _ _ h1)
          · exact h1
        split
        · exact hand_linksOk _ _ _ h2
        · exact h2
      · exact sendServicePage_preserves C _ _ h1
    · exact h

theorem linkFault_linksOk (n : Nat) (s : State) (h : s.linksOk) : (s.linkFault n).linksOk := by
  have h1 : ((s.setLink n (fun l =>
      { l with state := .faulted, inFlight := none, queue := [], pageStale := false, brightStale := false,
               reprobe := some (after s.now Config.reprobePeriod) })).raise (.linkFault n)).linksOk :=
    setLink_linksOk h n _ (fun l _ _ =>
      { room := by simp, loads := by simp [kindCount], brights := by simp [kindCount], tests := by simp [kindCount],
        idle := fun _ => ⟨rfl, rfl, rfl⟩, down := fun _ => rfl, attempts := fun f x => absurd x (by simp),
        timer := ⟨fun _ => rfl, fun _ => rfl⟩ })
  unfold State.linkFault
  dsimp only
  split
  · exact schedLinkDown_preserves linksOk_closed.toShowClosed _ _ h1
  · exact h1

theorem attemptFails_linksOk (n : Nat) (s : State) (h : s.linksOk) : (s.attemptFails n).linksOk := by
  unfold State.attemptFails
  split
  · exact h
  · rename_i l hl
    split
    · exact h
    · rename_i f hf
      have same : ∀ l', s.links[n]? = some l' → l' = l := fun l' hl' => by
        unfold State.link at hl
        rw [hl] at hl'
        injection hl' with e
        exact e.symm
      split
      · exact setLink_linksOk h n _ (fun _ _ ok => ok.landed)
      · split
        · rename_i ha
          refine setLink_linksOk (s := s.count .linkRetries) h n _ (fun l' hl' ok => ?_)
          have e := same l' hl'
          subst e
          refine ok.fly (fun d => ?_) _ (by omega) ha _
          have := ok.down d
          rw [hf] at this
          cases this
        · exact linkFault_linksOk n s h

theorem messageDone_linksOk (n : Nat) (m : LinkMsg) (s : State) (h : s.linksOk)
    (hf : ∀ l, s.links[n]? = some l → l.inFlight = none) : (s.messageDone n m).linksOk := by
  have C := linksOk_closed.toShowClosed
  unfold State.messageDone
  repeat' split
  all_goals first
    | exact h
    | exact linkRestored_linksOk n s h hf
    | exact loadComplete_preserves C _ _ _ h
    | exact flipComplete_preserves C _ _ _ h

theorem ackTaken_linksOk (n : Nat) (tag m : Byte) (s : State) (h : s.linksOk) : (s.ackTaken n tag m).linksOk := by
  unfold State.ackTaken
  split
  · exact h
  · rename_i f _
    have h1 : (s.setLink n (fun l => { l with inFlight := none })).linksOk :=
      setLink_linksOk h n _ (fun _ _ ok => ok.landed)
    have h2 : ((s.setLink n (fun l => { l with inFlight := none })).raiseIf (m != 0) (.moduleFault n)).linksOk := by
      unfold State.raiseIf
      split <;> exact h1
    apply drained_linksOk
    apply sendNext_linksOk
    refine messageDone_linksOk n f.msg _ h2 ?_
    intro l hl
    have e : ((s.setLink n (fun l => { l with inFlight := none })).raiseIf (m != 0) (.moduleFault n)).links =
        (s.setLink n (fun l => { l with inFlight := none })).links := by
      unfold State.raiseIf
      split <;> rfl
    rw [e] at hl
    simp only [State.setLink, List.getElem?_modify] at hl
    cases hg : s.links[n]? with
    | none => simp [hg] at hl
    | some l0 =>
      simp only [hg, if_true, Option.map_eq_map, Option.map_some, Option.some.injEq] at hl
      subst hl
      rfl

theorem nakTaken_linksOk (n : Nat) (tag : Byte) (s : State) (h : s.linksOk) : (s.nakTaken n tag).linksOk := by
  unfold State.nakTaken
  split
  · exact h
  · exact attemptFails_linksOk n s h

theorem reprobe_linksOk (n : Nat) (s : State) (h : s.linksOk) (hd : s.reprobeDue n = true) : (s.reprobe n).linksOk := by
  refine setLink_linksOk h n _ (fun l hl ok => ?_)
  unfold State.reprobeDue State.link at hd
  rw [hl] at hd
  simp only [Bool.and_eq_true, beq_iff_eq] at hd
  have ok' : LinkRec.ok { l with reprobe := l.reprobe.map (fun e => after e Config.reprobePeriod) } :=
    { ok with timer := by simp only [Option.isSome_map]; exact ok.timer }
  exact ok'.fly (by
    show l.state ≠ .down
    rw [hd.1]
    decide) _ (Nat.le_refl 1) (Nat.le_of_ble_eq_true rfl) _

/-! ### Events of the other blocks -/

theorem linksOk_of_links {s t : State} (e : t.links = s.links) (h : s.linksOk) : t.linksOk := by
  unfold State.linksOk
  rw [e]
  exact h

theorem linksOk_tracker : TrackerClosed State.linksOk :=
  { toCarClosed := linksOk_closed, count := fun _ _ _ h => h, raise := fun _ _ h => h, store := fun _ _ _ h => h,
    base := fun _ _ _ _ h => h }

theorem levelChanged_linksOk (o n : Level) (s : State) (h : s.linksOk) : (s.levelChanged o n).linksOk := by
  unfold State.levelChanged
  have h1 := forEach_preserves State.linksOk _
    (fun m t => panelLevelChange_preserves linksOk_closed.toQuietClosed o n m t) s.panelIds
    { s with mode := { s.mode with level := n } } h
  dsimp only
  split
  · exact removePrompts_preserves linksOk_closed.toReportClosed _ _ h1
  · exact h1

theorem settleMode_linksOk (b : ModeUnit) (s : State) (h : s.linksOk) : (s.settleMode b).linksOk := by
  unfold State.settleMode
  repeat' split
  · exact levelChanged_linksOk _ _ _ h
  · exact contentChanges_preserves linksOk_closed.toShowClosed _ _ h
  · exact h

theorem buildingModeTaken_linksOk (a : Byte) (f : ModeFrame) (s : State) (h : s.linksOk) :
    (s.buildingModeTaken a f).linksOk := by
  have e : ∀ c, (s.applyMode a f.text c).links = s.links := fun c => by
    unfold State.applyMode
    repeat' split
    all_goals rfl
  unfold State.buildingModeTaken
  repeat' split
  · exact h
  · exact h
  · exact h
  · exact settleMode_linksOk _ _ (linksOk_of_links (e _) h)

theorem claimExpiry_linksOk (a : Byte) (s : State) (h : s.linksOk) : (s.claimExpiry a).linksOk := by
  unfold State.claimExpiry
  split
  · exact settleMode_linksOk _ _ h
  · exact h

theorem assignTaken_linksOk (f : AssignFrame) (s : State) (h : s.linksOk) : (s.assignTaken f).linksOk := by
  unfold State.assignTaken State.place
  dsimp only
  repeat' split
  all_goals first | exact h | exact reportLists_preserves linksOk_closed.toReportClosed _ _ _ h

theorem probing_linksOk (l : List Nat) (s : State) (h : s.linksOk) :
    (forEach l (fun n s => s.startProbing n) s).linksOk :=
  forEach_preserves State.linksOk _ (fun n s => startProbing_linksOk n s) _ _ h

theorem starts_linksOk (s : State) (h : s.linksOk) : s.startCycle.startReports.linksOk :=
  startReports_preserves linksOk_closed.toReportClosed _ (cycleStart_preserves linksOk_tracker _ _ _ _ h)

theorem raiseImageItems_links (s : State) : s.raiseImageItems.links = s.links := by
  unfold State.raiseImageItems
  refine (forEach_keeps State.links (fun n s => s.raise (.showListFault n)) (fun n s => rfl) _ _).trans ?_
  unfold State.raiseIf
  split <;> rfl

theorem loadEnded_linksOk (l : Load) (s : State) (h : s.linksOk) : (s.loadEnded l).linksOk := by
  have e1 : ∀ s : State, s.strapCase.links = s.links := fun s => by
    unfold State.strapCase
    split <;> rfl
  have e2 : ∀ s : State, s.raiseReset.links = s.links := fun s => by
    unfold State.raiseReset
    split <;> rfl
  unfold State.loadEnded
  split
  · apply starts_linksOk
    apply probing_linksOk
    refine linksOk_of_links (s := s) ?_ h
    show (State.raiseImageItems _).links = _
    rw [raiseImageItems_links, e2, e1]
  · apply probing_linksOk
    refine linksOk_of_links (s := s) ?_ h
    show (State.raiseReset _).links = _
    rw [e2, e1]

theorem restartTaken_linksOk (s : State) (h : s.linksOk) : s.restartTaken.linksOk := by
  unfold State.restartTaken
  split
  · exact h
  · apply starts_linksOk
    refine linksOk_of_links ?_ (probing_linksOk s.panelIds s.restartBus h)
    show (State.raiseImageItems _).links = _
    rw [raiseImageItems_links]
    rfl
  · exact probing_linksOk (List.range 8) s.restartBus.resetCycle h

theorem LinkRec.start_ok : LinkRec.start.ok := by
  constructor <;> simp [LinkRec.start, kindCount]

theorem resetBy_linksOk (c : ResetCause) (b : Byte) (s : State) : (s.resetBy c b).linksOk :=
  ⟨rfl, fun l hl => by
    have : l = LinkRec.start := List.eq_of_mem_replicate hl
    exact this ▸ LinkRec.start_ok⟩

/-- Every event keeps the links. -/
theorem linksOk_events : EventClosed State.linksOk :=
  { toCarClosed := linksOk_closed,
    bus := fun _ _ h => h, cycle := fun _ _ h => h, status := fun _ _ h => h, pins := fun _ _ h => h,
    captures := fun _ _ h => h,
    reset := fun c b s _ => resetBy_linksOk c b s, loaded := loadEnded_linksOk, restart := restartTaken_linksOk,
    cycleStart := cycleStart_preserves linksOk_tracker,
    motion := carMotionTaken_preserves linksOk_tracker, step := carStepTaken_preserves linksOk_tracker,
    service := carServiceTaken_preserves linksOk_tracker, calls := carCallsTaken_preserves linksOk_tracker,
    indication := indicationExpiry_preserves linksOk_tracker,
    assign := assignTaken_linksOk,
    removal := fun _ _ h => removePrompts_preserves linksOk_closed.toReportClosed _ _ h,
    modes := buildingModeTaken_linksOk, claim := claimExpiry_linksOk,
    ack := ackTaken_linksOk, fails := attemptFails_linksOk, reprobe := fun n s hd h => reprobe_linksOk n s h hd }

end Sys2Proof.Machine
end

