-- ==== Sys2Proof/Laws/Cars.lean ====
section
/-! SUPPORT. The car tracker: what its operations do to a record, and that they keep it within the rules of chapter 4. -/

namespace Sys2Proof.Machine

/-! ### One record -/

theorem CarRec.start_ok : CarRec.start.ok :=
  { pos := by decide, vel := by decide, unknown := fun _ => (by decide), tracked := fun h => (by cases h),
    stale := fun h => (by cases h), lost := fun h => (by cases h), arrow := fun _ => rfl,
    timer := by decide }

theorem CarRec.evaluable_iff (r : CarRec) : r.evaluable = true ↔ r.tracking = .tracked ∧ r.anchor = true := by
  unfold CarRec.evaluable
  rw [Bool.and_eq_true, beq_iff_eq]

theorem CarRec.timerRuns_iff (r : CarRec) :
    r.timerRuns = true ↔ r.tracking = .tracked ∧ r.anchor = true ∧ r.motion.isRunning = true := by
  unfold CarRec.timerRuns
  rw [Bool.and_eq_true, Bool.and_eq_true, beq_iff_eq, and_assoc]

/-- Settling the timer makes it run exactly when it is to. -/
theorem CarRec.settleTimer_isSome (r : CarRec) (start : Clock) :
    (r.settleTimer start).timer.isSome = true ↔ r.timerRuns = true := by
  unfold CarRec.settleTimer
  dsimp only
  split
  · rename_i h
    rw [h]
    split <;> simp
  · rename_i h
    simp [h]

/-- The conditions on a record but that on its timer. -/
structure CarRec.okButTimer (r : CarRec) : Prop where
  pos : r.pos ≤ 1048575
  vel : -16000 ≤ r.vel ∧ r.vel ≤ 16000
  unknown : r.tracking = .unknown → r.silence ≤ 6 ∧ r.anchor = false ∧ r.indicated = none
  tracked : r.tracking = .tracked → r.silence ≤ 2
  stale : r.tracking = .stale → 3 ≤ r.silence ∧ r.silence ≤ 6
  lost : r.tracking = .lost → 1 ≤ r.silence ∧ r.silence ≤ 7 ∧ r.indicated = none
  arrow : r.tracking ≠ .tracked → r.arrow = .none

theorem CarRec.ok.okButTimer {r : CarRec} (h : r.ok) : r.okButTimer :=
  { pos := h.pos, vel := h.vel, unknown := h.unknown, tracked := h.tracked, stale := h.stale, lost := h.lost,
    arrow := h.arrow }

theorem CarRec.okButTimer.settle {r : CarRec} (h : r.okButTimer) (start : Clock) : (r.settleTimer start).ok :=
  { pos := h.pos, vel := h.vel, unknown := h.unknown, tracked := h.tracked, stale := h.stale, lost := h.lost,
    arrow := h.arrow, timer := (r.settleTimer_isSome start).trans r.timerRuns_iff }

/-- An evaluation of a TRACKED record changes its indication, Q, arrow and labels. -/
theorem CarRec.okButTimer.evaluated {r : CarRec} (h : r.okButTimer) (ht : r.tracking = .tracked) (c : Image) (row : CarRow)
    (intent : Dir) (age : Nat) (report : Option Nat) : (r.evaluated c row intent age report).okButTimer :=
  { pos := h.pos, vel := h.vel, tracked := h.tracked, stale := h.stale,
    unknown := fun x => absurd (ht.symm.trans x) (by decide),
    lost := fun x => absurd (ht.symm.trans x) (by decide),
    arrow := fun x => absurd ht x }

theorem CarRec.okButTimer.frameEvaluated {r : CarRec} (h : r.okButTimer) (s : State) (slot : Nat) (car : CarRow)
    (report : Option Nat) : (s.frameEvaluated slot car report r).okButTimer := by
  unfold State.frameEvaluated
  split
  · rename_i e
    exact h.evaluated ((r.evaluable_iff.mp e).1) _ _ _ _ _
  · exact h

theorem CarRec.okButTimer.timedEvaluated {r : CarRec} (h : r.okButTimer) (s : State) (slot : Nat) (car : CarRow) :
    (s.timedEvaluated slot car r).okButTimer := by
  unfold State.timedEvaluated
  split
  · rename_i e
    exact h.evaluated ((r.evaluable_iff.mp e).1) _ _ _ _ _
  · exact h

theorem decodeVelocity_range (w : Word16) : -16000 ≤ decodeVelocity w ∧ decodeVelocity w ≤ 16000 := by
  unfold decodeVelocity
  have : Config.maxVelocity = 16000 := rfl
  omega

/-- The fields of a decoded CAR MOTION frame are in range (R52). -/
theorem decodeMotionFrame_range {car : CarRow} {f : MotionFrame} {m : MotionFields} (h : decodeMotionFrame car f = some m) :
    m.pos ≤ 1048575 ∧ -16000 ≤ m.vel ∧ m.vel ≤ 16000 := by
  unfold decodeMotionFrame at h
  dsimp only at h
  split at h
  · injection h with h
    subst h
    exact ⟨Nat.min_le_left _ _, decodeVelocity_range _⟩
  · cases h

/-- A CAR MOTION leaves every condition but that on the timer (R53). -/
theorem CarRec.ok.withMotion {r : CarRec} (h : r.ok) {m : MotionFields}
    (hm : m.pos ≤ 1048575 ∧ -16000 ≤ m.vel ∧ m.vel ≤ 16000) (mark : Clock) : (r.withMotion m mark).okButTimer := by
  have hu := h.unknown
  have ht := h.tracked
  have hs := h.stale
  have hl := h.lost
  have ha := h.arrow
  cases hr : r.tracking with
  | unknown =>
    obtain ⟨h6, _, hi⟩ := hu hr
    by_cases h2 : r.silence ≤ 2
    · have e : (r.withMotion m mark).tracking = .tracked := by
        simp [CarRec.withMotion, trackingAfterMotion, hr, h2]
      exact ⟨hm.1, hm.2, fun x => (by rw [e] at x; cases x), fun _ => h2, fun x => (by rw [e] at x; cases x),
        fun x => (by rw [e] at x; cases x), fun x => absurd e x⟩
    · have e : (r.withMotion m mark).tracking = .stale := by
        simp [CarRec.withMotion, trackingAfterMotion, hr, h2]
      exact ⟨hm.1, hm.2, fun x => (by rw [e] at x; cases x), fun x => (by rw [e] at x; cases x),
        fun _ => ⟨by show 3 ≤ r.silence; omega, h6⟩,
        fun x => (by rw [e] at x; cases x), fun _ => ha (by rw [hr]; decide)⟩
  | tracked =>
    have e : (r.withMotion m mark).tracking = .tracked := by simp [CarRec.withMotion, trackingAfterMotion, hr]
    exact ⟨hm.1, hm.2, fun x => (by rw [e] at x; cases x), fun _ => ht hr, fun x => (by rw [e] at x; cases x),
      fun x => (by rw [e] at x; cases x), fun x => absurd e x⟩
  | stale =>
    have e : (r.withMotion m mark).tracking = .stale := by simp [CarRec.withMotion, trackingAfterMotion, hr]
    exact ⟨hm.1, hm.2, fun x => (by rw [e] at x; cases x), fun x => (by rw [e] at x; cases x), fun _ => hs hr,
      fun x => (by rw [e] at x; cases x), fun _ => ha (by rw [hr]; decide)⟩
  | lost =>
    have e : (r.withMotion m mark).tracking = .lost := by simp [CarRec.withMotion, trackingAfterMotion, hr]
    exact ⟨hm.1, hm.2, fun x => (by rw [e] at x; cases x), fun x => (by rw [e] at x; cases x),
      fun x => (by rw [e] at x; cases x), fun _ => hl hr, fun _ => ha (by rw [hr]; decide)⟩

/-- A silence evaluation keeps a record within the rules (R59 to R62). -/
theorem CarRec.ok.silenced {r : CarRec} (h : r.ok) (s : State) (slot : Nat) (car : CarRow) :
    (s.silenced slot car r).ok := by
  have hu := h.unknown
  have ht := h.tracked
  have hs := h.stale
  have hl := h.lost
  have ha := h.arrow
  have hT := h.timer
  have n7 : silenceAfter r.heard r.silence ≤ r.silence + 1 ∧ (r.silence ≤ 7 → silenceAfter r.heard r.silence ≤ 7) := by
    unfold silenceAfter
    split <;> omega
  unfold State.silenced
  dsimp only
  generalize silenceAfter r.heard r.silence = n at n7
  have idle : r.tracking ≠ .tracked → r.timer = none := fun hn => by
    cases hti : r.timer with
    | none => rfl
    | some e =>
      have := hT.mp (by rw [hti]; rfl)
      exact absurd this.1 hn
  cases hr : r.tracking <;> simp only [trackingAfterSilence]
  · -- UNKNOWN
    obtain ⟨h6, hanc, hi⟩ := hu hr
    have harr := ha (by rw [hr]; decide)
    have htim := idle (by rw [hr]; decide)
    by_cases h7 : 7 ≤ n
    · rw [if_pos h7]
      refine ⟨h.pos, h.vel, fun x => (by cases x), fun x => (by cases x), fun x => (by cases x),
        fun _ => ⟨?_, ?_, rfl⟩, fun _ => rfl, ⟨fun x => (by cases x), fun x => (by cases x.1)⟩⟩
      · show 1 ≤ n
        omega
      · show n ≤ 7
        omega
    · rw [if_neg h7]
      refine ⟨h.pos, h.vel, fun _ => ⟨?_, hanc, hi⟩, fun x => (by cases x), fun x => (by cases x), fun x => (by cases x),
        fun _ => harr, ⟨fun x => ?_, fun x => (by cases x.1)⟩⟩
      · show n ≤ 6
        omega
      · change r.timer.isSome = true at x
        rw [htim] at x
        cases x
  · -- TRACKED
    have h2 := ht hr
    have h7 : ¬ 7 ≤ n := by omega
    rw [if_neg h7]
    by_cases h3 : 3 ≤ n
    · rw [if_pos h3]
      refine ⟨h.pos, h.vel, fun x => (by cases x), fun x => (by cases x), fun _ => ⟨h3, ?_⟩, fun x => (by cases x),
        fun _ => rfl, ⟨fun x => (by cases x), fun x => (by cases x.1)⟩⟩
      show n ≤ 6
      omega
    · rw [if_neg h3]
      refine ⟨h.pos, h.vel, fun x => (by cases x), fun _ => ?_, fun x => (by cases x), fun x => (by cases x),
        fun x => absurd rfl x, ?_⟩
      · show n ≤ 2
        omega
      · show r.timer.isSome = true ↔ Tracking.tracked = .tracked ∧ r.anchor = true ∧ r.motion.isRunning = true
        rw [hT, hr]
  · -- STALE
    have h36 := hs hr
    have harr := ha (by rw [hr]; decide)
    have htim := idle (by rw [hr]; decide)
    by_cases h7 : 7 ≤ n
    · rw [if_pos h7]
      refine ⟨h.pos, h.vel, fun x => (by cases x), fun x => (by cases x), fun x => (by cases x),
        fun _ => ⟨?_, ?_, rfl⟩, fun _ => rfl, ⟨fun x => (by cases x), fun x => (by cases x.1)⟩⟩
      · show 1 ≤ n
        omega
      · show n ≤ 7
        omega
    · rw [if_neg h7]
      by_cases h2 : n ≤ 2
      · rw [if_pos h2]
        apply CarRec.okButTimer.settle
        apply CarRec.okButTimer.timedEvaluated
        exact ⟨h.pos, h.vel, fun x => (by cases x), fun _ => h2, fun x => (by cases x), fun x => (by cases x),
          fun x => absurd rfl x⟩
      · rw [if_neg h2]
        refine ⟨h.pos, h.vel, fun x => (by cases x), fun x => (by cases x), fun _ => ⟨?_, ?_⟩, fun x => (by cases x),
          fun _ => harr, ⟨fun x => ?_, fun x => (by cases x.1)⟩⟩
        · show 3 ≤ n
          omega
        · show n ≤ 6
          omega
        · change r.timer.isSome = true at x
          rw [htim] at x
          cases x
  · -- LOST
    obtain ⟨h1, h7, hi⟩ := hl hr
    have harr := ha (by rw [hr]; decide)
    have htim := idle (by rw [hr]; decide)
    by_cases h0 : n = 0
    · rw [if_pos h0]
      subst h0
      by_cases hanc : r.anchor = true
      · rw [if_pos hanc]
        apply CarRec.okButTimer.settle
        apply CarRec.okButTimer.timedEvaluated
        exact ⟨h.pos, h.vel, fun x => (by cases x), fun _ => Nat.zero_le _, fun x => (by cases x), fun x => (by cases x),
          fun x => absurd rfl x⟩
      · rw [if_neg hanc]
        refine ⟨h.pos, h.vel, fun _ => ⟨Nat.zero_le _, by simpa using hanc, hi⟩, fun x => (by cases x),
          fun x => (by cases x), fun x => (by cases x), fun _ => harr, ⟨fun x => ?_, fun x => (by cases x.1)⟩⟩
        change r.timer.isSome = true at x
        rw [htim] at x
        cases x
    · rw [if_neg h0]
      refine ⟨h.pos, h.vel, fun x => (by cases x), fun x => (by cases x), fun x => (by cases x),
        fun _ => ⟨?_, ?_, hi⟩, fun _ => harr, ⟨fun x => ?_, fun x => (by cases x.1)⟩⟩
      · show 1 ≤ n
        omega
      · show n ≤ 7
        omega
      · change r.timer.isSome = true at x
        rw [htim] at x
        cases x

/-! ### The car records of a state -/

theorem carsOk_of_cars {s t : State} (e : t.cars = s.cars) (h : s.carsOk) : t.carsOk := by
  unfold State.carsOk
  rw [e]
  exact h

theorem carRec_ok {s : State} (h : s.carsOk) (slot : Nat) : (s.carRec slot).ok := by
  unfold State.carRec
  cases hg : s.cars[slot]? with
  | none => exact CarRec.start_ok
  | some r => exact h r (List.mem_iff_getElem?.mpr ⟨slot, hg⟩)

theorem setCar_carsOk {s : State} (h : s.carsOk) {r : CarRec} (hr : r.ok) (slot : Nat) : (s.setCar slot r).carsOk := by
  intro x hx
  rcases List.mem_or_eq_of_mem_set hx with hx | hx
  · exact h x hx
  · exact hx ▸ hr

theorem request_cars (p : TxPayload) (s : State) : (s.request p).2.cars = s.cars := by
  unfold State.request
  repeat' split
  all_goals rfl

/-- Every operation of a car state change event, and of what lies below it, leaves the records as they are. -/
theorem carsOk_closed : CarClosed State.carsOk :=
  { sched := fun _ _ _ h => h, hand := fun _ _ _ h => h, cancel := fun _ _ _ h => h, quiet := fun _ _ _ h => h,
    lamp := fun _ _ _ h => h, lanterns := fun _ _ h => h, decks := fun _ _ _ h => h, free := fun _ _ h => h,
    levels := fun _ _ h => h, poolAfter := fun _ _ _ _ _ h => h,
    panelLoad := fun _ _ _ _ h => carsOk_of_cars (request_cars _ _) h }

theorem updateCar_carsOk {s : State} (h : s.carsOk) {new : CarRec} (hr : new.ok) (slot : Nat) (car : CarRow) :
    (s.updateCar slot car new).carsOk :=
  updateCar_preserves carsOk_closed slot car new s (setCar_carsOk h hr slot)

/-! ### Frames, silence and timers keep the records -/

theorem carMotionTaken_carsOk (slot : Nat) (mark : Clock) (f : MotionFrame) (s : State) (h : s.carsOk) :
    (s.carMotionTaken slot mark f).carsOk := by
  unfold State.carMotionTaken
  split
  · exact h
  · split
    · exact h
    · rename_i m hm
      extract_lets u stored disagrees v
      have hu : u.carsOk := h
      have hv : v.carsOk := by
        show (if disagrees then u.count .levelDisagree else u).carsOk
        split
        · exact hu
        · exact hu
      apply updateCar_carsOk hv
      apply CarRec.okButTimer.settle
      apply CarRec.okButTimer.frameEvaluated
      exact (carRec_ok hu slot).withMotion (decodeMotionFrame_range hm) mark

/-- A CAR STEP changes position, velocity, motion, mark and heard flag of an anchored record. -/
theorem CarRec.ok.withStep {r : CarRec} (h : r.ok) {pos : Nat} (hp : pos ≤ 1048575) (w : Word16) (m : Motion)
    (mark : Clock) : (r.withStep pos (decodeVelocity w) m mark).okButTimer :=
  { pos := hp, vel := decodeVelocity_range w, unknown := h.unknown, tracked := h.tracked, stale := h.stale,
    lost := h.lost, arrow := h.arrow }

theorem carStepTaken_carsOk (slot : Nat) (mark : Clock) (f : StepFrame) (s : State) (h : s.carsOk) :
    (s.carStepTaken slot mark f).carsOk := by
  have ok := carRec_ok h slot
  have hmax : Config.maxPosition = 1048575 := rfl
  unfold State.carStepTaken
  split
  · exact h
  · split
    · exact h
    · dsimp only
      split
      · exact setCar_carsOk (s := s.count .unanchoredSteps) h
          (show CarRec.ok { s.carRec slot with heard := true } from { ok with }) slot
      · split
        · rename_i hs
          apply updateCar_carsOk h
          apply CarRec.okButTimer.settle
          apply CarRec.okButTimer.frameEvaluated
          exact ok.withStep (by omega) _ _ _
        · apply updateCar_carsOk (s := s.raise (.positionRange slot)) h
          apply CarRec.okButTimer.settle
          have hp : (if (s.carRec slot).pos + f.delta.toInt < 0 then 0 else Config.maxPosition) ≤ 1048575 := by
            split <;> omega
          have h1 := ok.withStep hp f.velocity (by assumption) mark
          exact { h1 with unknown := fun x => ⟨(h1.unknown x).1, rfl, (h1.unknown x).2.2⟩ }

theorem carServiceTaken_carsOk (slot : Nat) (c : Byte) (s : State) (h : s.carsOk) :
    (s.carServiceTaken slot c).carsOk := by
  unfold State.carServiceTaken
  split
  · exact h
  · split
    · exact h
    · rename_i service _
      have ok := carRec_ok h slot
      have ok' : CarRec.ok { s.carRec slot with service := service } := { ok with }
      exact updateCar_carsOk h ok' _ _

theorem raiseIf_carsOk (b : Bool) (i : ExcItem) (s : State) (h : s.carsOk) : (s.raiseIf b i).carsOk := by
  unfold State.raiseIf
  split
  · exact h
  · exact h

theorem evaluateSilence_carsOk (slot : Nat) (s : State) (h : s.carsOk) : (s.evaluateSilence slot).carsOk := by
  unfold State.evaluateSilence
  split
  · exact h
  · exact updateCar_carsOk (raiseIf_carsOk _ _ _ h) ((carRec_ok h slot).silenced s slot _) _ _

theorem evaluateSilences_carsOk (s : State) (h : s.carsOk) : s.evaluateSilences.carsOk :=
  forEach_preserves State.carsOk _ (fun n s => evaluateSilence_carsOk n s) _ s h

theorem cycleStart_carsOk (c : CycleCause) (b : Clock) (n : BitVec 6) (s : State) (h : s.carsOk) :
    (s.cycleStart c b n).carsOk := by
  unfold State.cycleStart State.carsCycleStart
  extract_lets e
  have ht := forEach_preserves State.carsOk _
    (fun m t => schedCycleStart_preserves carsOk_closed.toShowClosed (fun _ _ h => h) e s.cycle.count m t) s.panelIds
    { s with cycle := { s.cycle with base := b, count := n, crossed := false, event := some e } } h
  split
  · exact ht
  · exact evaluateSilences_carsOk _ ht

theorem indicationExpiry_carsOk (slot : Nat) (s : State) (h : s.carsOk) : (s.indicationExpiry slot).carsOk := by
  unfold State.indicationExpiry
  split
  · rename_i car e _ he
    have ok := carRec_ok h slot
    have ht := ok.timer.mp (by rw [he]; rfl)
    have hev : (s.carRec slot).evaluable = true := (CarRec.evaluable_iff _).mpr ⟨ht.1, ht.2.1⟩
    have h1 := ok.okButTimer.timedEvaluated s slot car
    apply updateCar_carsOk h
    refine ⟨h1.pos, h1.vel, h1.unknown, h1.tracked, h1.stale, h1.lost, h1.arrow, ⟨fun _ => ?_, fun _ => rfl⟩⟩
    unfold State.timedEvaluated
    rw [if_pos hev]
    exact ht
  · exact h

theorem intentChanged_carsOk (slot : Nat) (car : CarRow) (b : CarDecks) (s : State) (h : s.carsOk) :
    (s.intentChanged slot car b).carsOk := by
  have ok := carRec_ok h slot
  unfold State.intentChanged
  extract_lets old
  split
  · rename_i hev
    have ht := ((CarRec.evaluable_iff _).mp hev.1).1
    have store : ∀ a : Dir, (s.setCar slot { old with arrow := a }).carsOk := fun a =>
      have ok' : CarRec.ok { old with arrow := a } := { ok with arrow := fun x => absurd ht x }
      setCar_carsOk h ok' slot
    split
    · exact raiseCarEvent_preserves carsOk_closed _ _ _ _ _ (store _)
    · exact store _
  · exact h

theorem carCallsTaken_carsOk (slot : Nat) (f : CallsFrame) (s : State) (h : s.carsOk) :
    (s.carCallsTaken slot f).carsOk := by
  unfold State.carCallsTaken
  split
  · exact h
  · rename_i car _
    split
    · split
      · exact h
      · extract_lets before old newer new t
        have h1 : t.carsOk := h
        split
        · have h2 : (if old.intent = new.intent then t else t.intentChanged slot car before).carsOk := by
            split
            · exact h1
            · exact intentChanged_carsOk _ _ _ _ h1
          split
          · exact h2
          · exact evaluateLanterns_preserves carsOk_closed.toLanternClosed _ _ _
              (contentChanges_preserves carsOk_closed.toShowClosed _ _ h2)
        · exact h
    · exact h

/-! ### Every other event leaves the records as they are -/

theorem cars_of_forPrompts {s t : State} (h : t.forPrompts = s.forPrompts) : t.cars = s.cars := by
  have e := congrArg State.cars h
  exact e

theorem levelChanged_cars (o n : Level) (s : State) : (s.levelChanged o n).cars = s.cars :=
  cars_of_forPrompts (s := { s with mode := { s.mode with level := n } }) (levelChanged_forPrompts o n s)

theorem settleMode_cars (b : ModeUnit) (s : State) : (s.settleMode b).cars = s.cars := by
  unfold State.settleMode
  repeat' split
  · exact levelChanged_cars _ _ _
  · exact cars_of_forPrompts (contentChanges_forPrompts s.panelIds s)
  · rfl

theorem buildingModeTaken_cars (a : Byte) (f : ModeFrame) (s : State) : (s.buildingModeTaken a f).cars = s.cars := by
  have e : ∀ c, (s.applyMode a f.text c).cars = s.cars := fun c => by
    unfold State.applyMode
    repeat' split
    all_goals rfl
  unfold State.buildingModeTaken
  repeat' split
  · rfl
  · rfl
  · rfl
  · rw [settleMode_cars, e]

theorem claimExpiry_cars (a : Byte) (s : State) : (s.claimExpiry a).cars = s.cars := by
  unfold State.claimExpiry
  split
  · rw [settleMode_cars]
    rfl
  · rfl

theorem assignTaken_cars (f : AssignFrame) (s : State) : (s.assignTaken f).cars = s.cars :=
  cars_of_forPrompts (assignTaken_forPrompts f s)

theorem ackTaken_cars (n : Nat) (tag m : Byte) (s : State) : (s.ackTaken n tag m).cars = s.cars := by
  unfold State.ackTaken
  split
  · rfl
  · refine (congrArg State.cars (drained_forShow n _)).trans ?_
    refine (congrArg State.cars (sendNext_forCount n _)).trans ?_
    refine (congrArg State.cars (messageDone_forShow n _ _)).trans ?_
    unfold State.raiseIf
    split <;> rfl

theorem attemptFails_cars (n : Nat) (s : State) : (s.attemptFails n).cars = s.cars := by
  unfold State.attemptFails State.linkFault
  dsimp only
  repeat' split
  all_goals rfl

theorem startRecords_carsOk (pins : List Bool) (s : State) : (s.startRecords pins).carsOk := by
  intro r hr
  obtain ⟨_, _, e⟩ := List.mem_map.mp hr
  exact e ▸ CarRec.start_ok

theorem probing_cars (l : List Nat) (s : State) : (forEach l (fun n s => s.startProbing n) s).cars = s.cars :=
  forEach_keeps State.cars (fun n s => s.startProbing n) (fun _ _ => rfl) l s

theorem starts_carsOk (s : State) (h : s.carsOk) : s.startCycle.startReports.carsOk :=
  startReports_preserves carsOk_closed.toReportClosed _ (cycleStart_carsOk _ _ _ _ h)

theorem loadEnded_carsOk (l : Load) (s : State) (h : s.carsOk) : (s.loadEnded l).carsOk := by
  have e1 : ∀ s : State, s.strapCase.cars = s.cars := fun s => by
    unfold State.strapCase
    split <;> rfl
  have e2 : ∀ s : State, s.raiseReset.cars = s.cars := fun s => by
    unfold State.raiseReset
    split <;> rfl
  unfold State.loadEnded
  split
  · apply starts_carsOk
    exact carsOk_of_cars (probing_cars _ _) (startRecords_carsOk _ _)
  · refine carsOk_of_cars (probing_cars _ _) (carsOk_of_cars (s := s) ?_ h)
    show (State.raiseReset _).cars = _
    rw [e2, e1]

theorem restartTaken_carsOk (s : State) (h : s.carsOk) : s.restartTaken.carsOk := by
  unfold State.restartTaken
  split
  · exact h
  · exact starts_carsOk _ (startRecords_carsOk _ _)
  · exact carsOk_of_cars (s := s) ((probing_cars (List.range 8) s.restartBus.resetCycle)) h

/-- Every event keeps the car records. -/
theorem carsOk_events : EventClosed State.carsOk :=
  { toCarClosed := carsOk_closed,
    bus := fun _ _ h => h, cycle := fun _ _ h => h, status := fun _ _ h => h, pins := fun _ _ h => h,
    captures := fun _ _ h => h,
    reset := fun _ _ _ _ _ hr => absurd hr (List.not_mem_nil),
    loaded := loadEnded_carsOk, restart := restartTaken_carsOk, cycleStart := cycleStart_carsOk,
    motion := carMotionTaken_carsOk, step := carStepTaken_carsOk, service := carServiceTaken_carsOk,
    calls := carCallsTaken_carsOk, indication := indicationExpiry_carsOk,
    assign := fun _ _ h => carsOk_of_cars (assignTaken_cars _ _) h,
    removal := fun _ _ h => removePrompts_preserves carsOk_closed.toReportClosed _ _ h,
    modes := fun _ _ _ h => carsOk_of_cars (buildingModeTaken_cars _ _ _) h,
    claim := fun _ _ h => carsOk_of_cars (claimExpiry_cars _ _) h,
    ack := fun _ _ _ _ h => carsOk_of_cars (ackTaken_cars _ _ _ _) h,
    fails := fun _ _ h => carsOk_of_cars (attemptFails_cars _ _) h,
    reprobe := fun _ _ _ h => h }

end Sys2Proof.Machine
end

