-- ==== Sys2Proof/Laws/Pending.lean ====
section
/-! SUPPORT. No event touches the queue of waiting commands. -/

namespace Sys2Proof.Machine

/-- Every operation of a car state change event, and a cycle start, leave the queue of commands alone. -/
theorem pending_tracker (q : List Instr) : TrackerClosed (fun s => s.pending = q) :=
  { sched := fun _ _ _ h => h, hand := fun _ _ _ h => h, cancel := fun _ _ _ h => h, quiet := fun _ _ _ h => h,
    lamp := fun _ _ _ h => h, lanterns := fun _ _ h => h, decks := fun _ _ _ h => h, free := fun _ _ h => h,
    levels := fun _ _ h => h, poolAfter := fun _ _ _ _ _ h => h,
    panelLoad := fun n l k s h => by
      rw [← h]
      unfold State.request
      repeat' split
      all_goals rfl,
    count := fun _ _ _ h => h, raise := fun _ _ h => h, store := fun _ _ _ h => h, base := fun _ _ _ _ h => h }

theorem probing_pending (l : List Nat) (s : State) : (forEach l (fun n s => s.startProbing n) s).pending = s.pending :=
  forEach_keeps State.pending (fun n s => s.startProbing n) (fun _ _ => rfl) l s

theorem raiseImageItems_pending (s : State) : s.raiseImageItems.pending = s.pending := by
  unfold State.raiseImageItems
  refine (forEach_keeps State.pending (fun n s => s.raise (.showListFault n)) (fun n s => rfl) _ _).trans ?_
  unfold State.raiseIf
  split <;> rfl

theorem starts_pending (q : List Instr) (s : State) (h : s.pending = q) : s.startCycle.startReports.pending = q :=
  startReports_preserves (pending_tracker q).toReportClosed _ (cycleStart_preserves (pending_tracker q) _ _ _ _ h)

theorem loadEnded_pending (l : Load) (s : State) : (s.loadEnded l).pending = s.pending := by
  have e1 : ∀ s : State, s.strapCase.pending = s.pending := fun s => by
    unfold State.strapCase
    split <;> rfl
  have e2 : ∀ s : State, s.raiseReset.pending = s.pending := fun s => by
    unfold State.raiseReset
    split <;> rfl
  unfold State.loadEnded
  split
  · apply starts_pending
    rw [probing_pending]
    show (State.raiseImageItems _).pending = _
    rw [raiseImageItems_pending, e2, e1]
  · unfold State.probeAll
    rw [probing_pending]
    show (State.raiseReset _).pending = _
    rw [e2, e1]

theorem restartTaken_pending (s : State) : s.restartTaken.pending = s.pending := by
  unfold State.restartTaken
  split
  · rfl
  · apply starts_pending
    show (State.raiseImageItems _).pending = _
    rw [raiseImageItems_pending]
    exact probing_pending _ s.restartBus
  · exact probing_pending (List.range 8) s.restartBus.resetCycle

theorem levelChanged_pending (o n : Level) (s : State) : (s.levelChanged o n).pending = s.pending := by
  have C := pending_tracker s.pending
  have h1 := forEach_preserves (fun t => t.pending = s.pending) _
    (fun m t => panelLevelChange_preserves C.toQuietClosed o n m t) s.panelIds
    { s with mode := { s.mode with level := n } } rfl
  unfold State.levelChanged
  dsimp only
  split
  · exact removePrompts_preserves C.toReportClosed _ _ h1
  · exact h1

theorem settleMode_pending (b : ModeUnit) (s : State) : (s.settleMode b).pending = s.pending := by
  unfold State.settleMode
  repeat' split
  · exact levelChanged_pending _ _ _
  · exact contentChanges_preserves (pending_tracker s.pending).toShowClosed _ _ rfl
  · rfl

/-- No event touches the queue of commands. -/
theorem pending_events (q : List Instr) : EventClosed (fun s => s.pending = q) :=
  { toCarClosed := (pending_tracker q).toCarClosed,
    bus := fun _ _ h => h, cycle := fun _ _ h => h, status := fun _ _ h => h, pins := fun _ _ h => h,
    captures := fun _ _ h => h, reset := fun _ _ _ h => h,
    loaded := fun l s h => (loadEnded_pending l s).trans h, restart := fun s h => (restartTaken_pending s).trans h,
    cycleStart := cycleStart_preserves (pending_tracker q),
    motion := carMotionTaken_preserves (pending_tracker q), step := carStepTaken_preserves (pending_tracker q),
    service := carServiceTaken_preserves (pending_tracker q), calls := carCallsTaken_preserves (pending_tracker q),
    indication := indicationExpiry_preserves (pending_tracker q),
    assign := fun f s h => by
      unfold State.assignTaken State.place
      dsimp only
      repeat' split
      all_goals first | exact h | exact reportLists_preserves (pending_tracker q).toReportClosed _ _ _ h,
    removal := fun _ _ h => removePrompts_preserves (pending_tracker q).toReportClosed _ _ h,
    modes := fun a f s h => by
      have e : ∀ c, (s.applyMode a f.text c).pending = s.pending := fun c => by
        unfold State.applyMode
        repeat' split
        all_goals rfl
      unfold State.buildingModeTaken
      repeat' split
      · exact h
      · exact h
      · exact h
      · exact (settleMode_pending _ _).trans ((e _).trans h),
    claim := fun a s h => by
      unfold State.claimExpiry
      split
      · exact (settleMode_pending _ _).trans h
      · exact h,
    ack := fun n tag m s h => by
      unfold State.ackTaken
      split
      · exact h
      · have e1 := congrArg State.pending (drained_forShow n ((((s.setLink n (fun l => { l with inFlight := none })).raiseIf
          (m != 0) (.moduleFault n)).messageDone n (‹InFlight›).msg).sendNext n))
        refine e1.trans ?_
        refine (congrArg State.pending (sendNext_forCount n _)).trans ?_
        refine (congrArg State.pending (messageDone_forShow n _ _)).trans ?_
        unfold State.raiseIf
        split <;> exact h,
    fails := fun n s h => by
      unfold State.attemptFails State.linkFault
      dsimp only
      repeat' split
      all_goals exact h,
    reprobe := fun _ _ _ h => h }

end Sys2Proof.Machine
end

