-- ==== Sys2Proof/Laws/Pool.lean ====
section
/-! SUPPORT. The prompt pool: what placing, evicting, removing and converting entries do to it, and that they keep it within
the rules of chapter 7. -/

namespace Sys2Proof.Machine

/-! ### Pools -/

/-- The capacities and ranges of a pool. -/
structure PoolOk (pool : List Prompt) : Prop where
  size : pool.length ≤ 48
  panel : ∀ n, (onPanel n pool).length ≤ 12
  tickets : (pool.map (·.ticket)).Nodup
  calls : (pool.map Prompt.call).Nodup
  ranges : ∀ p ∈ pool, p.ticket ≤ 4095 ∧ 1 ≤ p.merges ∧ p.merges ≤ 9

theorem State.poolOk.pool {s : State} (h : s.poolOk) : PoolOk s.prompts.pool :=
  ⟨h.size, h.panel, h.tickets, h.calls, h.ranges⟩

theorem PoolOk.nil : PoolOk [] :=
  ⟨Nat.zero_le _, fun _ => Nat.zero_le _, List.nodup_nil, List.nodup_nil, fun _ h => absurd h List.not_mem_nil⟩

theorem PoolOk.sublist {q r : List Prompt} (h : PoolOk r) (hs : q.Sublist r) : PoolOk q :=
  ⟨Nat.le_trans hs.length_le h.size, fun n => Nat.le_trans (hs.filter _).length_le (h.panel n),
   h.tickets.sublist (hs.map _), h.calls.sublist (hs.map _), fun p hp => h.ranges p (hs.mem hp)⟩

/-- An entry joins a pool at the end. -/
theorem PoolOk.append {pool : List Prompt} (h : PoolOk pool) (p : Prompt) (size : pool.length < 48)
    (panel : (onPanel p.panel pool).length < 12) (ticket : ∀ x ∈ pool, x.ticket ≠ p.ticket)
    (call : ∀ x ∈ pool, x.call ≠ p.call) (range : p.ticket ≤ 4095 ∧ 1 ≤ p.merges ∧ p.merges ≤ 9) : PoolOk (pool ++ [p]) := by
  have nodup : ∀ {β : Type} (g : Prompt → β), (pool.map g).Nodup → (∀ x ∈ pool, g x ≠ g p) →
      ((pool ++ [p]).map g).Nodup := fun g hn hd => by
    rw [List.map_append, List.nodup_append]
    refine ⟨hn, List.pairwise_singleton _ _, ?_⟩
    intro a ha b hb
    obtain ⟨x, hx, rfl⟩ := List.mem_map.mp ha
    simp only [List.map_cons, List.map_nil, List.mem_singleton] at hb
    subst hb
    exact hd x hx
  refine ⟨?_, fun n => ?_, nodup (·.ticket) h.tickets ticket, nodup Prompt.call h.calls call, ?_⟩
  · rw [List.length_append, List.length_singleton]
    omega
  · unfold onPanel at *
    rw [List.filter_append, List.length_append]
    by_cases hn : p.panel = n
    · subst hn
      have : ([p].filter (fun x => x.panel == p.panel)).length ≤ 1 := List.length_filter_le _ [p]
      omega
    · have : [p].filter (fun x => x.panel == n) = [] := by simp [hn]
      rw [this]
      have := h.panel n
      unfold onPanel at this
      simpa using this
  · intro x hx
    rcases List.mem_append.mp hx with hx | hx
    · exact h.ranges x hx
    · simp only [List.mem_singleton] at hx
      exact hx ▸ range

theorem onPanel_erase {pool : List Prompt} {v : Prompt} (hv : v ∈ pool) :
    (onPanel v.panel (pool.erase v)).length + 1 = (onPanel v.panel pool).length := by
  unfold onPanel
  rw [← List.erase_filter]
  have hm : v ∈ pool.filter (fun x => x.panel == v.panel) := List.mem_filter.mpr ⟨hv, by simp⟩
  rw [List.length_erase_of_mem hm]
  have := List.length_pos_of_mem hm
  omega

theorem erase_length {pool : List Prompt} {v : Prompt} (hv : v ∈ pool) : (pool.erase v).length + 1 = pool.length := by
  rw [List.length_erase_of_mem hv]
  have := List.length_pos_of_mem hv
  omega

/-- An entry of a pool takes the place at the end, with its ticket and call kept. -/
theorem PoolOk.renew {pool : List Prompt} (h : PoolOk pool) {p q : Prompt} (hp : p ∈ pool) (ht : q.ticket = p.ticket)
    (hc : q.call = p.call) (hm : 1 ≤ q.merges ∧ q.merges ≤ 9) : PoolOk (pool.erase p ++ [q]) := by
  have hl := erase_length hp
  have ho := onPanel_erase hp
  have h48 := h.size
  have h12 := h.panel p.panel
  have hn : q.panel = p.panel := congrArg Prod.fst hc
  have other : ∀ {β : Type} (g : Prompt → β), (pool.map g).Nodup → g q = g p → ∀ x ∈ pool.erase p, g x ≠ g q :=
    fun g hg e x hx e' => by
      have hn2 := ((List.perm_cons_erase hp).map g).nodup_iff.mp hg
      rw [List.map_cons, List.nodup_cons] at hn2
      exact hn2.1 (List.mem_map.mpr ⟨x, hx, by rw [e', e]⟩)
  apply (h.sublist List.erase_sublist).append q
  · omega
  · rw [hn]
    omega
  · exact other (·.ticket) h.tickets ht
  · exact other Prompt.call h.calls hc
  · exact ⟨ht ▸ (h.ranges p hp).1, hm⟩

/-! ### Eviction (R104) -/

theorem victim_mem {l : List Prompt} {v : Prompt} (h : victim l = some v) : v ∈ l := by
  unfold victim at h
  split at h
  · rename_i p hp
    injection h with h
    exact h ▸ List.mem_of_find?_eq_some hp
  · exact List.mem_of_mem_head? h

theorem victim_none {l : List Prompt} (h : victim l = none) : l = [] := by
  unfold victim at h
  split at h
  · cases h
  · exact List.head?_eq_none_iff.mp h

/-- Without an eviction there is room on the panel and in the pool. -/
theorem evictionFor_none {pool : List Prompt} {n : Nat} (h : evictionFor pool n = none) :
    (onPanel n pool).length < 12 ∧ pool.length < 48 := by
  have e1 : Config.panelListSize = 12 := rfl
  have e2 : Config.poolSize = 48 := rfl
  unfold evictionFor at h
  unfold onPanel
  dsimp only at h
  split at h
  · omega
  · split at h
    · rename_i hlt hl
      have := victim_none h
      subst this
      simp at hlt
      omega
    · rename_i hl
      exact absurd (victim_none h) hl

/-- The evicted entry is one of the panel's when the panel has one. -/
theorem evictionFor_some {pool : List Prompt} {n : Nat} {v : Prompt} (h : evictionFor pool n = some v) :
    v ∈ pool ∧ (v.panel = n ∨ onPanel n pool = []) := by
  unfold evictionFor at h
  unfold onPanel
  dsimp only at h
  split at h
  · cases h
  · split at h
    · rename_i hl
      exact ⟨victim_mem h, Or.inr hl⟩
    · have hm := victim_mem h
      rw [List.mem_filter, beq_iff_eq] at hm
      exact ⟨hm.1, Or.inl hm.2⟩

/-! ### The pool of a state -/

/-- A new pool in a state whose evacuation latch is clear. -/
theorem setPool_poolOk {s : State} (h : s.poolOk) {pool : List Prompt} (hp : PoolOk pool)
    (he : s.mode.evacuation = true → pool = []) : (s.setPool pool).poolOk :=
  { size := hp.size, panel := hp.panel, tickets := hp.tickets, calls := hp.calls, ranges := hp.ranges,
    level := h.level, evacuated := he }

theorem poolOk_of_parts {s t : State} (h : s.poolOk) (hp : t.prompts.pool = s.prompts.pool) (hl : t.mode.level = s.mode.level)
    (he : t.mode.evacuation = s.mode.evacuation) (hc : t.mode.claims = s.mode.claims) (hn : t.mode.night = s.mode.night) :
    t.poolOk := by
  refine ⟨by rw [hp]; exact h.size, by rw [hp]; exact h.panel, by rw [hp]; exact h.tickets, by rw [hp]; exact h.calls,
    by rw [hp]; exact h.ranges, ?_, by rw [hp, he]; exact h.evacuated⟩
  unfold ModeUnit.derived
  rw [hl, he, hc, hn]
  exact h.level

theorem request_mode (p : TxPayload) (s : State) : (s.request p).2.mode = s.mode := by
  unfold State.request
  repeat' split
  all_goals rfl

theorem request_prompts (p : TxPayload) (s : State) : (s.request p).2.prompts = s.prompts := by
  unfold State.request
  repeat' split
  all_goals rfl

/-- An entry after a car state change keeps ticket, call and merge count. -/
theorem promptAfter_spec {s : State} {car : CarRow} {slot : Nat} {old new : CarRec} {p q : Prompt}
    (h : s.promptAfter car slot old new p = some q) : q.ticket = p.ticket ∧ q.call = p.call ∧ q.merges = p.merges := by
  unfold State.promptAfter at h
  repeat' split at h
  all_goals first
    | (injection h with h; subst h; exact ⟨rfl, rfl, rfl⟩)
    | cases h

theorem filterMap_map_sublist {β : Type} (g : Prompt → β) (f : Prompt → Option Prompt) (hf : ∀ p q, f p = some q → g q = g p)
    (l : List Prompt) : ((l.filterMap f).map g).Sublist (l.map g) := by
  induction l with
  | nil => exact List.Sublist.refl _
  | cons p l ih =>
    rw [List.filterMap_cons]
    split
    · exact ih.cons _
    · rename_i q hq
      rw [List.map_cons, List.map_cons, hf p q hq]
      exact ih.cons_cons _

theorem PoolOk.after {s : State} {car : CarRow} {slot : Nat} {old new : CarRec} {pool : List Prompt} (h : PoolOk pool) :
    PoolOk (pool.filterMap (s.promptAfter car slot old new)) := by
  have ht := filterMap_map_sublist (·.ticket) (s.promptAfter car slot old new) (fun _ _ e => (promptAfter_spec e).1) pool
  have hn := filterMap_map_sublist (·.panel) (s.promptAfter car slot old new) (fun _ _ e => congrArg Prod.fst (promptAfter_spec e).2.1) pool
  have hc := filterMap_map_sublist Prompt.call (s.promptAfter car slot old new) (fun _ _ e => (promptAfter_spec e).2.1) pool
  refine ⟨?_, fun n => ?_, h.tickets.sublist ht, h.calls.sublist hc, ?_⟩
  · exact Nat.le_trans (List.length_filterMap_le _ _) h.size
  · have e : ∀ l : List Prompt, (onPanel n l).length = ((l.map (·.panel)).filter (fun x => x == n)).length := fun l => by
      unfold onPanel
      rw [List.filter_map, List.length_map]
      rfl
    rw [e]
    refine Nat.le_trans (hn.filter _).length_le ?_
    rw [← e]
    exact h.panel n
  · intro q hq
    obtain ⟨p, hp, e⟩ := List.mem_filterMap.mp hq
    obtain ⟨e1, _, e3⟩ := promptAfter_spec e
    rw [e1, e3]
    exact h.ranges p hp

/-- Every operation of a car state change event keeps the pool. -/
theorem poolOk_closed : CarClosed State.poolOk :=
  { sched := fun _ _ _ h => { h with }, hand := fun _ _ _ h => { h with }, cancel := fun _ _ _ h => { h with },
    quiet := fun _ _ _ h => { h with }, lamp := fun _ _ _ h => { h with }, lanterns := fun _ _ h => { h with },
    decks := fun _ _ _ h => { h with }, free := fun _ _ h => { h with }, levels := fun _ _ h => { h with },
    poolAfter := fun _ _ _ _ s h => setPool_poolOk h h.pool.after (fun he => by rw [h.evacuated he]; rfl),
    panelLoad := fun _ _ _ _ h => by
      apply poolOk_of_parts h <;> simp only [request_mode, request_prompts] }

theorem poolOk_tracker : TrackerClosed State.poolOk :=
  { toCarClosed := poolOk_closed, count := fun _ _ _ h => { h with }, raise := fun _ _ h => { h with },
    store := fun _ _ _ h => { h with }, base := fun _ _ _ _ h => { h with } }

theorem removePrompts_poolOk (p : Prompt → Bool) (s : State) (h : s.poolOk) : (s.removePrompts p).poolOk :=
  removePrompts_preserves poolOk_closed.toReportClosed _ _
    (setPool_poolOk h (h.pool.sublist List.filter_sublist) (fun he => by rw [h.evacuated he]; rfl))

/-! ### Assignments (R100 to R104) -/

theorem testAssign_spec {s : State} {f : AssignFrame} {a : Placed} (h : s.testAssign f = some a) :
    s.mode.evacuation = false ∧ a.ticket = f.ticket.toNat ∧ a.ticket ≤ 4095 := by
  unfold State.testAssign at h
  repeat' split at h
  all_goals first
    | (injection h with h; subst h; exact ⟨by simp_all, rfl, Nat.le_of_not_lt (by assumption)⟩)
    | cases h

theorem place_poolOk (a : Placed) (s : State) (h : s.poolOk) (he : s.mode.evacuation = false) (ht : a.ticket ≤ 4095) :
    (s.place a).poolOk := by
  have C := poolOk_closed.toReportClosed
  have clear : ∀ {pool : List Prompt}, s.mode.evacuation = true → pool = [] := fun x => by
    rw [he] at x
    cases x
  have hp : PoolOk (s.prompts.pool.filter (fun p => p.ticket != a.ticket)) := h.pool.sublist List.filter_sublist
  have hno : ∀ x ∈ s.prompts.pool.filter (fun p => p.ticket != a.ticket), x.ticket ≠ a.ticket := fun x hx => by
    have := (List.mem_filter.mp hx).2
    simpa using this
  unfold State.place
  dsimp only
  have apart : ∀ {l : List Prompt}, l.find? a.mergesWith = none → ∀ x ∈ l, x.call ≠ (s.newEntry a).call :=
    fun hf x hx e => by
      have := List.find?_eq_none.mp hf x hx
      apply this
      obtain ⟨e1, e2, e3, e4⟩ : x.panel = a.panel ∧ x.dest = a.dest ∧ x.slot = a.slot ∧ x.deck = a.deck := by
        unfold Prompt.call at e
        exact ⟨congrArg Prod.fst e, congrArg (·.2.1) e, congrArg (·.2.2.1) e, congrArg (·.2.2.2) e⟩
      simp [Placed.mergesWith, e1, e2, e3, e4]
  generalize s.prompts.pool.filter (fun p => p.ticket != a.ticket) = pool at hp hno
  generalize s.prompts.pool.filter (fun p => p.ticket == a.ticket) = gone
  split
  · rename_i p hf
    have hm := (hp.ranges p (List.mem_of_find?_eq_some hf)).2
    apply reportLists_preserves C
    refine setPool_poolOk h (hp.renew (List.mem_of_find?_eq_some hf) rfl rfl ?_) clear
    show 1 ≤ min 9 (p.merges + 1) ∧ min 9 (p.merges + 1) ≤ 9
    omega
  · rename_i hf
    have hcall := apart hf
    split
    · rename_i v hv
      have hs := evictionFor_some hv
      apply reportLists_preserves C
      have h1 := erase_length hs.1
      have h2 := hp.size
      have hadd : PoolOk (pool.erase v ++ [s.newEntry a]) := by
        apply (hp.sublist List.erase_sublist).append
        · omega
        · show (onPanel a.panel (pool.erase v)).length < 12
          rcases hs.2 with e | e
          · have := onPanel_erase hs.1
            have := hp.panel v.panel
            rw [← e]
            omega
          · have : (onPanel a.panel (pool.erase v)).length ≤ (onPanel a.panel pool).length :=
              (List.erase_sublist.filter _).length_le
            rw [e] at this
            have := Nat.le_zero.mp this
            omega
        · exact fun x hx => hno x (List.mem_of_mem_erase hx)
        · exact fun x hx => hcall x (List.mem_of_mem_erase hx)
        · exact ⟨ht, by show 1 ≤ 1 ∧ 1 ≤ 9; omega⟩
      exact setPool_poolOk (s := s.count .evictions) { h with } hadd clear
    · rename_i hv
      have hs := evictionFor_none hv
      apply reportLists_preserves C
      have hadd : PoolOk (pool ++ [s.newEntry a]) :=
        hp.append _ hs.2 hs.1 hno hcall ⟨ht, by show 1 ≤ 1 ∧ 1 ≤ 9; omega⟩
      exact setPool_poolOk h hadd clear

theorem assignTaken_poolOk (f : AssignFrame) (s : State) (h : s.poolOk) : (s.assignTaken f).poolOk := by
  unfold State.assignTaken
  split
  · exact { h with }
  · rename_i a ha
    have hs := testAssign_spec ha
    exact place_poolOk a s h hs.1 hs.2.2

/-! ### The service level (R121) -/

/-- The pool is within the rules, and empty under the evacuation latch whenever the level held is 3. -/
structure State.poolSettling (s : State) : Prop where
  pool : PoolOk s.prompts.pool
  empty : s.mode.level = .evacuate → s.prompts.pool = []

theorem derived_evacuate (m : ModeUnit) : m.derived = .evacuate ↔ m.evacuation = true := by
  unfold ModeUnit.derived
  repeat' split
  all_goals simp_all

/-- The pool alone. -/
theorem poolOnly_closed : CarClosed (fun s => PoolOk s.prompts.pool) :=
  { sched := fun _ _ _ h => h, hand := fun _ _ _ h => h, cancel := fun _ _ _ h => h,
    quiet := fun _ _ _ h => h, lamp := fun _ _ _ h => h, lanterns := fun _ _ h => h,
    decks := fun _ _ _ h => h, free := fun _ _ h => h, levels := fun _ _ h => h,
    poolAfter := fun _ _ _ _ s h => PoolOk.after h,
    panelLoad := fun _ _ _ _ h => by
      rw [request_prompts]
      exact h }

theorem levelChanged_poolOk (old : Level) (s : State) (h : s.poolSettling) :
    (s.levelChanged old s.mode.derived).poolOk := by
  have hm := levelChanged_forPrompts old s.mode.derived s
  generalize hu : s.levelChanged old s.mode.derived = u at hm
  have hmode : u.mode.level = s.mode.derived ∧ u.mode.evacuation = s.mode.evacuation ∧ u.mode.claims = s.mode.claims ∧
      u.mode.night = s.mode.night := by
    have e := congrArg State.mode hm
    refine ⟨?_, ?_, ?_, ?_⟩
    · have := congrArg ModeUnit.level e
      exact this
    · have := congrArg ModeUnit.evacuation e
      exact this
    · have := congrArg ModeUnit.claims e
      exact this
    · have := congrArg ModeUnit.night e
      exact this
  have hd : u.mode.derived = s.mode.derived := by
    unfold ModeUnit.derived
    rw [hmode.2.1, hmode.2.2.1, hmode.2.2.2]
  have hpool : PoolOk u.prompts.pool ∧ (s.mode.derived = .evacuate → u.prompts.pool = []) := by
    rw [← hu]
    unfold State.levelChanged
    have h1 := forEach_preserves (fun t => PoolOk t.prompts.pool) _
      (fun m t => panelLevelChange_preserves poolOnly_closed.toQuietClosed old s.mode.derived m t) s.panelIds
      { s with mode := { s.mode with level := s.mode.derived } } h.pool
    dsimp only
    generalize forEach s.panelIds (fun n s' => s'.panelLevelChange old s.mode.derived n)
      { s with mode := { s.mode with level := s.mode.derived } } = v at h1
    split
    · have gone : ∀ t : State, (t.removePrompts (fun _ => true)).prompts.pool = [] := fun t => by
        have C : ReportClosed (fun t => t.prompts.pool = []) :=
          { sched := fun _ _ _ h => h, hand := fun _ _ _ h => h, cancel := fun _ _ _ h => h,
            quiet := fun _ _ _ h => h, lamp := fun _ _ _ h => h, levels := fun _ _ h => h,
            panelLoad := fun _ _ _ _ h => by
              rw [request_prompts]
              exact h }
        apply removePrompts_preserves C
        simp [State.setPool]
      rw [gone]
      exact ⟨PoolOk.nil, fun _ => rfl⟩
    · rename_i hne
      exact ⟨h1, fun e => absurd e hne⟩
  refine ⟨hpool.1.size, hpool.1.panel, hpool.1.tickets, hpool.1.calls, hpool.1.ranges,
    hmode.1.trans hd.symm, fun he => hpool.2 ?_⟩
  rw [← hd]
  exact (derived_evacuate _).mpr he

theorem settleMode_poolOk (b : ModeUnit) (s : State) (h : s.poolSettling) : (s.settleMode b).poolOk := by
  unfold State.settleMode
  by_cases hl : s.mode.derived ≠ s.mode.level
  · rw [if_pos hl]
    exact levelChanged_poolOk _ _ h
  · rw [if_neg hl]
    have hl' : s.mode.level = s.mode.derived := by
      by_cases e : s.mode.derived = s.mode.level
      · exact e.symm
      · exact absurd e hl
    have ok : s.poolOk := ⟨h.pool.size, h.pool.panel, h.pool.tickets, h.pool.calls, h.pool.ranges, hl',
      fun he => h.empty (hl'.trans ((derived_evacuate _).mpr he))⟩
    split
    · exact contentChanges_preserves poolOk_closed.toShowClosed _ _ ok
    · exact ok

theorem State.poolOk.settling {s t : State} (h : s.poolOk) (hp : t.prompts.pool = s.prompts.pool)
    (hl : t.mode.level = s.mode.level) : t.poolSettling :=
  ⟨by rw [hp]; exact h.pool, fun e => by
    rw [hp]
    rw [hl, h.level] at e
    exact h.evacuated ((derived_evacuate _).mp e)⟩

theorem buildingModeTaken_poolOk (a : Byte) (f : ModeFrame) (s : State) (h : s.poolOk) :
    (s.buildingModeTaken a f).poolOk := by
  have e : ∀ c, (s.applyMode a f.text c).prompts.pool = s.prompts.pool ∧
      (s.applyMode a f.text c).mode.level = s.mode.level := fun c => by
    unfold State.applyMode
    repeat' split
    all_goals exact ⟨rfl, rfl⟩
  unfold State.buildingModeTaken
  repeat' split
  · exact { h with }
  · exact h
  · exact { h with }
  · exact settleMode_poolOk _ _ (h.settling (e _).1 (e _).2)

theorem claimExpiry_poolOk (a : Byte) (s : State) (h : s.poolOk) : (s.claimExpiry a).poolOk := by
  unfold State.claimExpiry
  split
  · exact settleMode_poolOk _ _ (h.settling rfl rfl)
  · exact h

/-! ### Every event -/

theorem starts_poolOk (s : State) (h : s.poolOk) : s.startCycle.startReports.poolOk :=
  startReports_preserves poolOk_closed.toReportClosed _
    (cycleStart_preserves poolOk_tracker _ _ _ { s with cycle := _ } { h with })

theorem startRecords_poolOk (pins : List Bool) (s : State) (h : s.mode.level = s.mode.derived) :
    (s.startRecords pins).poolOk :=
  { size := PoolOk.nil.size, panel := PoolOk.nil.panel, tickets := PoolOk.nil.tickets, calls := PoolOk.nil.calls,
    ranges := PoolOk.nil.ranges, level := h, evacuated := fun _ => rfl }

theorem probing_poolOk (l : List Nat) (s : State) (h : s.poolOk) :
    (forEach l (fun n s => s.startProbing n) s).poolOk :=
  forEach_preserves State.poolOk (fun n s => s.startProbing n) (fun _ _ h => { h with }) _ _ h

theorem loadEnded_poolOk (l : Load) (s : State) (h : s.poolOk) : (s.loadEnded l).poolOk := by
  have e1 : ∀ s : State, s.poolOk → s.strapCase.poolOk := fun s h => by
    unfold State.strapCase
    split
    · exact h
    · exact { h with }
  have e2 : ∀ s : State, s.poolOk → s.raiseReset.poolOk := fun s h => by
    unfold State.raiseReset
    split
    · exact { h with }
    · exact { h with }
    · exact h
  have e3 : ∀ s : State, s.poolOk → s.raiseImageItems.poolOk := fun s h => by
    refine forEach_preserves State.poolOk (fun n s => s.raise (.showListFault n)) (fun _ _ h => { h with }) _ _ ?_
    unfold State.raiseIf
    split
    · exact { h with }
    · exact h
  unfold State.loadEnded
  split
  · apply starts_poolOk
    apply probing_poolOk
    apply startRecords_poolOk
    apply State.poolOk.level
    apply e3
    apply e2
    apply e1
    exact { h with }
  · apply probing_poolOk
    refine (fun (x : State) (h : x.poolOk) => (⟨h.size, h.panel, h.tickets, h.calls, h.ranges, h.level, h.evacuated⟩ :
      (x.raise .imageFault).poolOk)) _ ?_
    apply e2
    apply e1
    exact { h with }

theorem restartTaken_poolOk (s : State) (h : s.poolOk) : s.restartTaken.poolOk := by
  unfold State.restartTaken
  split
  · exact h
  · apply starts_poolOk
    exact startRecords_poolOk _ _ rfl
  · have h1 := probing_poolOk (List.range 8) s.restartBus.resetCycle { h with }
    exact { h1 with }

theorem ackTaken_poolOk (n : Nat) (tag m : Byte) (s : State) (h : s.poolOk) : (s.ackTaken n tag m).poolOk := by
  have parts : ∀ {u t : State}, t.forCount = u.forCount → u.poolOk → t.poolOk := fun {u t} e hu => by
    have e1 := congrArg State.prompts e
    have e2 := congrArg State.mode e
    have h1 := congrArg PromptUnit.pool e1
    have h2 := congrArg ModeUnit.level e2
    have h3 := congrArg ModeUnit.evacuation e2
    have h4 := congrArg ModeUnit.claims e2
    have h5 := congrArg ModeUnit.night e2
    exact poolOk_of_parts hu h1 h2 h3 h4 h5
  unfold State.ackTaken
  split
  · exact h
  · refine parts (forCount_of_forShow (drained_forShow n _)) ?_
    refine parts (sendNext_forCount n _) ?_
    refine parts (forCount_of_forShow (messageDone_forShow n _ _)) ?_
    unfold State.raiseIf
    split <;> exact { h with }

theorem attemptFails_poolOk (n : Nat) (s : State) (h : s.poolOk) : (s.attemptFails n).poolOk := by
  unfold State.attemptFails State.linkFault
  dsimp only
  repeat' split
  all_goals first | exact h | exact { h with }

/-- Every event keeps the pool and the service level. -/
theorem poolOk_events : EventClosed State.poolOk :=
  { toCarClosed := poolOk_closed,
    bus := fun _ _ h => { h with }, cycle := fun _ _ h => { h with }, status := fun _ _ h => { h with },
    pins := fun _ _ h => { h with }, captures := fun _ _ h => { h with },
    reset := fun _ _ _ _ => ⟨PoolOk.nil.size, PoolOk.nil.panel, PoolOk.nil.tickets, PoolOk.nil.calls,
      PoolOk.nil.ranges, rfl, fun _ => rfl⟩,
    loaded := loadEnded_poolOk, restart := restartTaken_poolOk,
    cycleStart := cycleStart_preserves poolOk_tracker,
    motion := carMotionTaken_preserves poolOk_tracker, step := carStepTaken_preserves poolOk_tracker,
    service := carServiceTaken_preserves poolOk_tracker, calls := carCallsTaken_preserves poolOk_tracker,
    indication := indicationExpiry_preserves poolOk_tracker, assign := assignTaken_poolOk,
    removal := removePrompts_poolOk, modes := buildingModeTaken_poolOk, claim := claimExpiry_poolOk,
    ack := ackTaken_poolOk, fails := attemptFails_poolOk, reprobe := fun _ _ _ h => { h with } }

end Sys2Proof.Machine
end

