-- ==== Sys2Proof/Laws/Prompts.lean ====
section
/-! SUPPORT. The prompt entries and the cars they wait for: a SHOWN or BOARDING entry's car is TRACKED or STALE and in NORMAL
service, and every event keeps it so (R103, R111). -/

namespace Sys2Proof.Machine

/-- A car for which an entry may be SHOWN or BOARDING (R103). -/
def CarRec.fits (r : CarRec) : Prop := (r.tracking = .tracked ∨ r.tracking = .stale) ∧ r.service = .normal

theorem promptsFit_of_parts {s t : State} (hp : t.prompts.pool = s.prompts.pool) (hc : t.cars = s.cars) (h : s.promptsFit) :
    t.promptsFit := by
  unfold State.promptsFit State.carRec
  rw [hp, hc]
  exact h

theorem promptsFit_of_empty {s : State} (h : s.prompts.pool = []) : s.promptsFit := by
  unfold State.promptsFit
  rw [h]
  exact fun _ hp => absurd hp List.not_mem_nil

/-- A new pool whose SHOWN and BOARDING entries are entries that fit. -/
theorem setPool_promptsFit {s : State} {pool : List Prompt} (h : ∀ p ∈ pool, p.state ≠ .reassign → (s.carRec p.slot).fits) :
    (s.setPool pool).promptsFit := h

/-! ### Car state changes (R109 to R111) -/

/-- What a car state change leaves SHOWN or BOARDING was so before, and is not of a car that it converts. -/
theorem promptAfter_waits {s : State} {car : CarRow} {slot : Nat} {old new : CarRec} {p q : Prompt}
    (h : s.promptAfter car slot old new p = some q) (hq : q.state ≠ .reassign) :
    q.slot = p.slot ∧ p.state ≠ .reassign ∧ (p.slot = slot → reassigns old new = false) := by
  unfold State.promptAfter at h
  repeat' split at h
  · injection h with h
    subst h
    exact ⟨rfl, hq, fun e => absurd e (by assumption)⟩
  · cases h
  · injection h with h
    subst h
    exact absurd rfl hq
  · rename_i hr hb
    injection h with h
    subst h
    have hp : p.state ≠ .reassign := by
      unfold State.boards at hb
      rw [Bool.and_eq_true, bne_iff_ne] at hb
      exact hb.1
    exact ⟨rfl, hp, fun _ => by
      cases e : reassigns old new
      · rfl
      · exact absurd ⟨e, hp⟩ hr⟩
  · rename_i hr _
    injection h with h
    subst h
    exact ⟨rfl, hq, fun _ => by
      cases e : reassigns old new
      · rfl
      · exact absurd ⟨e, hq⟩ hr⟩

/-- Every operation of a car state change event keeps the entries with their cars. -/
theorem promptsFit_closed : CarClosed State.promptsFit :=
  { sched := fun _ _ _ h => h, hand := fun _ _ _ h => h, cancel := fun _ _ _ h => h, quiet := fun _ _ _ h => h,
    lamp := fun _ _ _ h => h, lanterns := fun _ _ h => h, decks := fun _ _ _ h => h, free := fun _ _ h => h,
    levels := fun _ _ h => h,
    poolAfter := fun _ _ _ _ s h => setPool_promptsFit (fun q hq hs => by
      obtain ⟨p, hp, e⟩ := List.mem_filterMap.mp hq
      obtain ⟨e1, e2, _⟩ := promptAfter_waits e hs
      rw [e1]
      exact h p hp e2),
    panelLoad := fun _ _ _ _ h => promptsFit_of_parts (by rw [request_prompts]) (request_cars _ _) h }

/-- The entries in the midst of a change of one car: those of other cars fit; those of the car fitted its old record; and
where the change does not convert them, they fit the record it stores. -/
structure State.promptsChanging (slot : Nat) (old new : CarRec) (s : State) : Prop where
  others : ∀ p ∈ s.prompts.pool, p.state ≠ .reassign → p.slot ≠ slot → (s.carRec p.slot).fits
  before : ∀ p ∈ s.prompts.pool, p.state ≠ .reassign → p.slot = slot → old.fits
  stored : old.fits → reassigns old new = false → (s.carRec slot).fits

theorem promptsChanging_closed (slot : Nat) (old new : CarRec) : LanternClosed (State.promptsChanging slot old new) :=
  { sched := fun _ _ _ h => { h with }, hand := fun _ _ _ h => { h with }, cancel := fun _ _ _ h => { h with },
    quiet := fun _ _ _ h => { h with }, lamp := fun _ _ _ h => { h with }, lanterns := fun _ _ h => { h with },
    decks := fun _ _ _ h => { h with }, free := fun _ _ h => { h with } }

/-- Taking the event converts what no longer fits (R111). -/
theorem raiseCarEvent_promptsFit {slot : Nat} {old new : CarRec} {s : State} {car : CarRow} (hrow : s.carRow slot = some car)
    (b : Bool) (h : s.promptsChanging slot old new) : (s.raiseCarEvent slot old new b).promptsFit := by
  unfold State.raiseCarEvent
  rw [hrow]
  have L := promptsChanging_closed slot old new
  have h1 := stopsCarEvent_preserves L slot (arrivalsOf car old new) _
    (wakes_preserves L.toQuietClosed (s.panelsWhere (wokenBy car slot old new)) s h)
  dsimp only
  generalize (s.wakes _).stopsCarEvent slot _ = u at h1
  have h2 : (u.promptsCarEvent car slot old new).promptsFit := by
    apply promptsCarEvent_preserves promptsFit_closed.toReportClosed
    refine setPool_promptsFit (fun q hq hs => ?_)
    obtain ⟨p, hp, e⟩ := List.mem_filterMap.mp hq
    obtain ⟨e1, e2, e3⟩ := promptAfter_waits e hs
    rw [e1]
    by_cases hslot : p.slot = slot
    · rw [hslot]
      exact h1.stored (h1.before p hp e2 hslot) (e3 hslot)
    · exact h1.others p hp e2 hslot
  split
  · exact contentChanges_preserves promptsFit_closed.toShowClosed _ _ h2
  · exact h2

theorem carRec_setCar_ne {slot n : Nat} (h : n ≠ slot) (r : CarRec) (s : State) :
    (s.setCar slot r).carRec n = s.carRec n := by
  unfold State.carRec State.setCar
  rw [List.getElem?_set_ne (Ne.symm h)]

/-- A record stored for a slot is read there, where the slot has a record at all. -/
theorem carRec_setCar_self (slot : Nat) (r : CarRec) (s : State) :
    (s.setCar slot r).carRec slot = r ∨ (s.setCar slot r).carRec slot = s.carRec slot := by
  unfold State.carRec State.setCar
  by_cases h : slot < s.cars.length
  · left
    simp [h]
  · right
    have h' := Nat.le_of_not_lt h
    simp [h']

/-- Storing a record that still fits keeps the entries with their cars. -/
theorem setCar_promptsFit {s : State} (h : s.promptsFit) {slot : Nat} {r : CarRec}
    (hr : (s.carRec slot).fits → r.fits) : (s.setCar slot r).promptsFit := by
  intro p hp hs
  have h1 := h p hp hs
  by_cases e : p.slot = slot
  · rw [e] at h1 ⊢
    rcases carRec_setCar_self slot r s with e' | e' <;> rw [e']
    · exact hr h1
    · exact h1
  · rw [carRec_setCar_ne e]
    exact h1

/-- Storing a record and taking its event: only a change to LOST or out of NORMAL service may unfit it. -/
theorem setCar_promptsChanging {s : State} (h : s.promptsFit) {slot : Nat} {old new : CarRec} (ho : s.carRec slot = old)
    (hn : old.fits → reassigns old new = false → new.fits) : (s.setCar slot new).promptsChanging slot old new := by
  subst ho
  refine ⟨fun p hp hs e => ?_, fun p hp hs e => ?_, fun hf hr => ?_⟩
  · rw [carRec_setCar_ne e]
    exact h p hp hs
  · rw [← e]
    exact h p hp hs
  · rcases carRec_setCar_self slot new s with e' | e' <;> rw [e']
    · exact hn hf hr
    · exact hf

/-- A record that is neither LOST nor UNKNOWN and in NORMAL service fits; a change that converts nothing has not left
them. -/
theorem fits_of_known {old new : CarRec} (hu : old.fits → new.tracking ≠ .unknown) (ho : old.fits)
    (hr : reassigns old new = false) : new.fits := by
  have h1 := hu ho
  unfold reassigns at hr
  rw [Bool.or_eq_false_iff, Bool.and_eq_false_imp, Bool.and_eq_false_imp] at hr
  have hl : new.tracking ≠ .lost := fun e => by
    have := hr.1 (by rcases ho.1 with x | x <;> rw [x] <;> rfl)
    rw [e] at this
    cases this
  have hs : new.service = .normal := by
    have := hr.2 (by rw [ho.2]; rfl)
    simpa using this
  refine ⟨?_, hs⟩
  cases e : new.tracking
  · exact absurd e h1
  · exact Or.inl rfl
  · exact Or.inr rfl
  · exact absurd e hl

theorem updateCar_promptsFit {s : State} (h : s.promptsFit) {slot : Nat} {car : CarRow} (hrow : s.carRow slot = some car)
    {new : CarRec} (hu : (s.carRec slot).fits → new.tracking ≠ .unknown) : (s.updateCar slot car new).promptsFit := by
  unfold State.updateCar
  dsimp only
  split
  · rename_i e
    apply setCar_promptsFit h
    unfold CarRec.fits
    have e1 := congrArg CarItems.tracking e
    have e2 := congrArg CarItems.service e
    change (s.carRec slot).tracking = new.tracking at e1
    change (s.carRec slot).service = new.service at e2
    rw [e1, e2]
    exact id
  · exact raiseCarEvent_promptsFit (s := s.setCar slot new) hrow _ (setCar_promptsChanging h rfl (fits_of_known hu))

/-! ### The operations of the car tracker -/

theorem CarRec.fits.known {r : CarRec} (h : r.fits) : r.tracking ≠ .unknown := by
  rcases h.1 with e | e <;> rw [e] <;> decide

theorem frameEvaluated_tracking (s : State) (slot : Nat) (car : CarRow) (report : Option Nat) (r : CarRec) :
    (s.frameEvaluated slot car report r).tracking = r.tracking := by
  unfold State.frameEvaluated
  split <;> rfl

theorem timedEvaluated_tracking (s : State) (slot : Nat) (car : CarRow) (r : CarRec) :
    (s.timedEvaluated slot car r).tracking = r.tracking := by
  unfold State.timedEvaluated
  split <;> rfl

/-- No TRACKED or STALE car becomes UNKNOWN at a silence evaluation (R59). -/
theorem silenced_known (s : State) (slot : Nat) (car : CarRow) {r : CarRec} (h : r.fits) :
    (s.silenced slot car r).tracking ≠ .unknown := by
  unfold State.silenced
  dsimp only
  generalize silenceAfter r.heard r.silence = n
  rcases h.1 with e | e <;> rw [e] <;> simp only [trackingAfterSilence]
  · by_cases h7 : 7 ≤ n
    · rw [if_pos h7]
      simp [CarRec.clearIndication]
    · rw [if_neg h7]
      by_cases h3 : 3 ≤ n
      · rw [if_pos h3]
        simp
      · rw [if_neg h3]
        simp
  · by_cases h7 : 7 ≤ n
    · rw [if_pos h7]
      simp [CarRec.clearIndication]
    · rw [if_neg h7]
      by_cases h2 : n ≤ 2
      · rw [if_pos h2]
        show (s.timedEvaluated slot car _).tracking ≠ .unknown
        rw [timedEvaluated_tracking]
        simp
      · rw [if_neg h2]
        simp

theorem carMotionTaken_promptsFit (slot : Nat) (mark : Clock) (f : MotionFrame) (s : State) (h : s.promptsFit) :
    (s.carMotionTaken slot mark f).promptsFit := by
  unfold State.carMotionTaken
  split
  · exact h
  · rename_i car hrow
    split
    · exact h
    · extract_lets u stored disagrees v
      have hv : v.promptsFit ∧ v.carRow slot = some car ∧ v.carRec slot = s.carRec slot := by
        cases e : disagrees
        · simp only [v, e]
          exact ⟨h, hrow, rfl⟩
        · simp only [v, e]
          exact ⟨h, hrow, rfl⟩
      apply updateCar_promptsFit hv.1 hv.2.1
      intro hf
      show (v.frameEvaluated slot car _ stored).tracking ≠ .unknown
      rw [frameEvaluated_tracking]
      show trackingAfterMotion (s.carRec slot).tracking (s.carRec slot).silence ≠ .unknown
      rw [hv.2.2] at hf
      rcases hf.1 with e | e <;> rw [e] <;> simp [trackingAfterMotion]

theorem carStepTaken_promptsFit (slot : Nat) (mark : Clock) (f : StepFrame) (s : State) (h : s.promptsFit) :
    (s.carStepTaken slot mark f).promptsFit := by
  unfold State.carStepTaken
  split
  · exact h
  · rename_i car hrow
    split
    · exact h
    · dsimp only
      split
      · exact setCar_promptsFit (s := s.count .unanchoredSteps) h id
      · split
        · apply updateCar_promptsFit h hrow
          intro hf
          show (s.frameEvaluated slot car _ _).tracking ≠ .unknown
          rw [frameEvaluated_tracking]
          exact hf.known
        · exact updateCar_promptsFit (s := s.raise (.positionRange slot)) h hrow (fun hf => hf.known)

theorem carServiceTaken_promptsFit (slot : Nat) (c : Byte) (s : State) (h : s.promptsFit) :
    (s.carServiceTaken slot c).promptsFit := by
  unfold State.carServiceTaken
  split
  · exact h
  · split
    · exact h
    · exact updateCar_promptsFit h (by assumption) (fun hf => hf.known)

theorem raiseIf_promptsFit (b : Bool) (i : ExcItem) (s : State) (h : s.promptsFit) : (s.raiseIf b i).promptsFit := by
  unfold State.raiseIf
  split
  · exact h
  · exact h

theorem evaluateSilence_promptsFit (slot : Nat) (s : State) (h : s.promptsFit) : (s.evaluateSilence slot).promptsFit := by
  unfold State.evaluateSilence
  split
  · exact h
  · rename_i car hrow
    have keep : ∀ (b : Bool) (i : ExcItem), (s.raiseIf b i).carRow slot = some car ∧
        (s.raiseIf b i).carRec slot = s.carRec slot := fun b i => by
      unfold State.raiseIf
      split
      · exact ⟨hrow, rfl⟩
      · exact ⟨hrow, rfl⟩
    apply updateCar_promptsFit (raiseIf_promptsFit _ _ _ h) (keep _ _).1
    intro hf
    rw [(keep _ _).2] at hf
    exact silenced_known s slot car hf

theorem cycleStart_promptsFit (c : CycleCause) (b : Clock) (n : BitVec 6) (s : State) (h : s.promptsFit) :
    (s.cycleStart c b n).promptsFit := by
  unfold State.cycleStart State.carsCycleStart
  extract_lets e
  have ht := forEach_preserves State.promptsFit _
    (fun m t => schedCycleStart_preserves promptsFit_closed.toShowClosed (fun _ _ h => h) e s.cycle.count m t) s.panelIds
    { s with cycle := { s.cycle with base := b, count := n, crossed := false, event := some e } } h
  split
  · exact ht
  · exact forEach_preserves State.promptsFit _ (fun n s => evaluateSilence_promptsFit n s) _ _ ht

theorem indicationExpiry_promptsFit (slot : Nat) (s : State) (h : s.promptsFit) :
    (s.indicationExpiry slot).promptsFit := by
  unfold State.indicationExpiry
  split
  · rename_i car e hrow _
    apply updateCar_promptsFit h hrow
    intro hf
    show (s.timedEvaluated slot car _).tracking ≠ .unknown
    rw [timedEvaluated_tracking]
    exact hf.known
  · exact h

theorem intentChanged_promptsFit {slot : Nat} {car : CarRow} (b : CarDecks) {s : State} (hrow : s.carRow slot = some car)
    (h : s.promptsFit) : (s.intentChanged slot car b).promptsFit := by
  unfold State.intentChanged
  extract_lets old
  split
  · split
    · exact raiseCarEvent_promptsFit (s := s.setCar slot _) hrow _ (setCar_promptsChanging h rfl (fun hf _ => hf))
    · exact setCar_promptsFit h id
  · exact h

theorem carCallsTaken_promptsFit (slot : Nat) (f : CallsFrame) (s : State) (h : s.promptsFit) :
    (s.carCallsTaken slot f).promptsFit := by
  unfold State.carCallsTaken
  split
  · exact h
  · rename_i car hrow
    split
    · split
      · exact h
      · extract_lets before old newer new t
        have h1 : t.promptsFit := h
        have hr : t.carRow slot = some car := hrow
        split
        · have h2 : (if old.intent = new.intent then t else t.intentChanged slot car before).promptsFit := by
            split
            · exact h1
            · exact intentChanged_promptsFit _ hr h1
          split
          · exact h2
          · exact evaluateLanterns_preserves promptsFit_closed.toLanternClosed _ _ _
              (contentChanges_preserves promptsFit_closed.toShowClosed _ _ h2)
        · exact h
    · exact h

/-! ### Assignments and removals (R101 to R104, R107, R108) -/

/-- An entry with its hold started is SHOWN only where its car fits (R103). -/
theorem entryState_fits {s : State} {slot : Nat} (h : s.entryState slot ≠ .reassign) : (s.carRec slot).fits := by
  unfold State.entryState at h
  dsimp only at h
  split at h
  · rename_i e
    exact e
  · exact absurd rfl h

theorem place_promptsFit (a : Placed) (s : State) (h : s.promptsFit) : (s.place a).promptsFit := by
  have C := promptsFit_closed.toReportClosed
  have hp : ∀ p ∈ s.prompts.pool.filter (fun p => p.ticket != a.ticket), p.state ≠ .reassign → (s.carRec p.slot).fits :=
    fun p hp => h p ((List.mem_filter.mp hp).1)
  unfold State.place
  dsimp only
  generalize s.prompts.pool.filter (fun p => p.ticket != a.ticket) = pool at hp
  generalize s.prompts.pool.filter (fun p => p.ticket == a.ticket) = gone
  have append : ∀ {l : List Prompt} {q : Prompt}, (∀ x ∈ l, x ∈ pool) → q.slot = a.slot → q.state = s.entryState a.slot →
      ∀ x ∈ l ++ [q], x.state ≠ .reassign → (s.carRec x.slot).fits := fun {l q} hl hslot hst x hx hs => by
    rcases List.mem_append.mp hx with hx | hx
    · exact hp x (hl x hx) hs
    · simp only [List.mem_singleton] at hx
      subst hx
      rw [hslot]
      exact entryState_fits (hst ▸ hs)
  split
  · rename_i p hf
    apply reportLists_preserves C
    refine setPool_promptsFit (append (fun x hx => List.mem_of_mem_erase hx) ?_ rfl)
    have := List.find?_some hf
    simp only [Placed.mergesWith, Bool.and_eq_true, beq_iff_eq] at this
    exact this.1.2
  · split
    · apply reportLists_preserves C
      exact setPool_promptsFit (s := s.count .evictions) (append (fun x hx => List.mem_of_mem_erase hx) rfl rfl)
    · apply reportLists_preserves C
      exact setPool_promptsFit (append (fun x hx => hx) rfl rfl)

theorem assignTaken_promptsFit (f : AssignFrame) (s : State) (h : s.promptsFit) : (s.assignTaken f).promptsFit := by
  unfold State.assignTaken
  split
  · exact h
  · exact place_promptsFit _ s h

theorem removePrompts_promptsFit (p : Prompt → Bool) (s : State) (h : s.promptsFit) : (s.removePrompts p).promptsFit :=
  removePrompts_preserves promptsFit_closed.toReportClosed _ _
    (setPool_promptsFit (fun x hx => h x ((List.mem_filter.mp hx).1)))

/-! ### The service level (R121) -/

theorem settleMode_promptsFit (b : ModeUnit) (s : State) (h : s.promptsFit) : (s.settleMode b).promptsFit := by
  unfold State.settleMode State.levelChanged
  dsimp only
  have h1 : ∀ o n, (forEach s.panelIds (fun m t => t.panelLevelChange o n m)
      { s with mode := { s.mode with level := n } }).promptsFit := fun o n =>
    forEach_preserves State.promptsFit _
      (fun m t => panelLevelChange_preserves promptsFit_closed.toQuietClosed o n m t) s.panelIds
      { s with mode := { s.mode with level := n } } h
  repeat' split
  · exact removePrompts_promptsFit _ _ (h1 _ _)
  · exact h1 _ _
  · exact contentChanges_preserves promptsFit_closed.toShowClosed _ _ h
  · exact h

theorem buildingModeTaken_promptsFit (a : Byte) (f : ModeFrame) (s : State) (h : s.promptsFit) :
    (s.buildingModeTaken a f).promptsFit := by
  have e : ∀ c, (s.applyMode a f.text c).promptsFit := fun c => by
    unfold State.applyMode
    repeat' split
    all_goals exact h
  unfold State.buildingModeTaken
  repeat' split
  · exact h
  · exact h
  · exact h
  · exact settleMode_promptsFit _ _ (e _)

theorem claimExpiry_promptsFit (a : Byte) (s : State) (h : s.promptsFit) : (s.claimExpiry a).promptsFit := by
  unfold State.claimExpiry
  split
  · exact settleMode_promptsFit _ _ h
  · exact h

/-! ### Every event -/

theorem starts_promptsFit (s : State) (h : s.promptsFit) : s.startCycle.startReports.promptsFit :=
  startReports_preserves promptsFit_closed.toReportClosed _ (cycleStart_promptsFit _ _ _ _ h)

theorem probing_promptsFit (l : List Nat) (s : State) (h : s.promptsFit) :
    (forEach l (fun n s => s.startProbing n) s).promptsFit :=
  forEach_preserves State.promptsFit (fun n s => s.startProbing n) (fun _ _ h => h) _ _ h

theorem loadEnded_promptsFit (l : Load) (s : State) (h : s.promptsFit) : (s.loadEnded l).promptsFit := by
  have e1 : ∀ s : State, s.promptsFit → s.strapCase.promptsFit := fun s h => by
    unfold State.strapCase
    split <;> exact h
  have e2 : ∀ s : State, s.promptsFit → s.raiseReset.promptsFit := fun s h => by
    unfold State.raiseReset
    split <;> exact h
  unfold State.loadEnded
  split
  · apply starts_promptsFit
    apply probing_promptsFit
    exact promptsFit_of_empty rfl
  · apply probing_promptsFit
    exact e2 _ (e1 _ h)

theorem restartTaken_promptsFit (s : State) (h : s.promptsFit) : s.restartTaken.promptsFit := by
  unfold State.restartTaken
  split
  · exact h
  · apply starts_promptsFit
    exact promptsFit_of_empty rfl
  · exact probing_promptsFit (List.range 8) s.restartBus.resetCycle h

theorem ackTaken_promptsFit (n : Nat) (tag m : Byte) (s : State) (h : s.promptsFit) : (s.ackTaken n tag m).promptsFit := by
  have parts : ∀ {u t : State}, t.forCount = u.forCount → u.promptsFit → t.promptsFit := fun {u t} e hu =>
    have e1 := congrArg State.prompts e
    have e2 := congrArg State.cars e
    promptsFit_of_parts (congrArg PromptUnit.pool e1) e2 hu
  unfold State.ackTaken
  split
  · exact h
  · refine parts (forCount_of_forShow (drained_forShow n _)) ?_
    refine parts (sendNext_forCount n _) ?_
    refine parts (forCount_of_forShow (messageDone_forShow n _ _)) ?_
    exact raiseIf_promptsFit _ _ _ h

theorem attemptFails_promptsFit (n : Nat) (s : State) (h : s.promptsFit) : (s.attemptFails n).promptsFit := by
  unfold State.attemptFails State.linkFault
  dsimp only
  repeat' split
  all_goals exact h

/-- Every event keeps the prompt entries with their cars. -/
theorem promptsFit_events : EventClosed State.promptsFit :=
  { toCarClosed := promptsFit_closed,
    bus := fun _ _ h => h, cycle := fun _ _ h => h, status := fun _ _ h => h, pins := fun _ _ h => h,
    captures := fun _ _ h => h, reset := fun _ _ _ _ => promptsFit_of_empty rfl,
    loaded := loadEnded_promptsFit, restart := restartTaken_promptsFit, cycleStart := cycleStart_promptsFit,
    motion := carMotionTaken_promptsFit, step := carStepTaken_promptsFit, service := carServiceTaken_promptsFit,
    calls := carCallsTaken_promptsFit, indication := indicationExpiry_promptsFit, assign := assignTaken_promptsFit,
    removal := removePrompts_promptsFit, modes := buildingModeTaken_promptsFit, claim := claimExpiry_promptsFit,
    ack := ackTaken_promptsFit, fails := attemptFails_promptsFit, reprobe := fun _ _ _ h => h }

end Sys2Proof.Machine
end

