-- ==== Sys2Proof/Laws/Reception.lean ====
section
/-! SUPPORT. Reception: which frames reach a block (R1, R4), and what a code refuses (R170). -/

namespace Sys2Proof.Machine

theorem running_of {s : State} (h : s.loader.state = .running) : s.running = true := by
  unfold State.running
  rw [h]
  decide

theorem running_false {s : State} (h : s.loader.state ≠ .running) : s.running = false := by
  unfold State.running
  exact decide_eq_false h

theorem receives_of {s : State} (h : s.loader.state ≠ .loading) (i : s.bus.ignoring = false) : s.receives = true := by
  unfold State.receives
  cases e : s.loader.state with
  | loading => exact absurd e h
  | running => rw [i]; rfl
  | imageFault => rw [i]; rfl

theorem receives_not {s : State} (h : s.loader.state = .loading ∨ s.bus.ignoring = true) : s.receives = false := by
  unfold State.receives
  cases e : s.loader.state with
  | loading => rfl
  | running =>
    rcases h with h | h
    · rw [e] at h
      cases h
    · rw [h]
      rfl
  | imageFault =>
    rcases h with h | h
    · rw [e] at h
      cases h
    · rw [h]
      rfl

theorem State.hears.receivesFrom {s : State} {rx : Rx} (h : s.hears rx) : s.receivesFrom rx :=
  ⟨by rw [h.1]; decide, h.2⟩

/-- A frame that is not received leaves only the bus not free. -/
theorem receive_unheard {s : State} (h : s.loader.state = .loading ∨ s.bus.ignoring = true) (rx : Rx) (g : GoodFrame) :
    s.receive rx g = s.busy := by
  unfold State.receive
  rw [receives_not h]
  rfl

/-- A frame from another station is routed with its arrival mark. -/
theorem receive_route {s : State} {rx : Rx} (h : s.receivesFrom rx) (g : GoodFrame) :
    s.receive rx g = s.busy.route rx s.frameMark g := by
  unfold State.receive
  rw [if_pos (receives_of h.1 h.2.1)]
  unfold State.takeGood
  rw [if_neg (by rw [h.2.2.1]; decide), if_neg (show ¬ rx.source = s.busy.bus.station from h.2.2.2)]

theorem routeCar_running {s : State} (h : s.loader.state = .running) {car : Byte} {slot : Nat}
    (hs : s.carSlot car = some slot) (f : Nat → State → State) : s.routeCar car f = f slot s := by
  unfold State.routeCar
  rw [if_pos (running_of h), hs]

theorem routeCar_unknown {s : State} {car : Byte} (hs : s.carSlot car = none) (f : Nat → State → State) :
    s.routeCar car f = s := by
  unfold State.routeCar
  rw [hs]
  split <;> rfl

theorem routeCar_fault {s : State} (h : s.loader.state ≠ .running) (car : Byte) (f : Nat → State → State) :
    s.routeCar car f = s := by
  unfold State.routeCar
  rw [running_false h]
  rfl

/-! ### The block that takes each frame -/

theorem exec_buildingMode {s : State} {rx : Rx} (h : s.hears rx) (f : ModeFrame) :
    exec (.buildingMode rx f) s = .next (s.busy.buildingModeTaken rx.source f) := by
  refine congrArg Host.Outcome.next ((receive_route h.receivesFrom _).trans ?_)
  exact if_pos (running_of (s := s.busy) h.1)

theorem exec_carService {s : State} {rx : Rx} (h : s.hears rx) {car : Byte} {slot : Nat} {row : CarRow}
    (k : s.knows car slot row) (c : Byte) :
    exec (.carService rx car c) s = .next (s.busy.carServiceTaken slot c) :=
  congrArg Host.Outcome.next ((receive_route h.receivesFrom _).trans (routeCar_running (s := s.busy) h.1 k.1 _))

theorem exec_carMotion {s : State} {rx : Rx} (h : s.hears rx) {f : MotionFrame} {slot : Nat} {row : CarRow}
    (k : s.knows f.car slot row) : exec (.carMotion rx f) s = .next (s.busy.carMotionTaken slot s.frameMark f) :=
  congrArg Host.Outcome.next ((receive_route h.receivesFrom _).trans (routeCar_running (s := s.busy) h.1 k.1 _))

theorem exec_carStep {s : State} {rx : Rx} (h : s.hears rx) {f : StepFrame} {slot : Nat} {row : CarRow}
    (k : s.knows f.car slot row) : exec (.carStep rx f) s = .next (s.busy.carStepTaken slot s.frameMark f) :=
  congrArg Host.Outcome.next ((receive_route h.receivesFrom _).trans (routeCar_running (s := s.busy) h.1 k.1 _))

theorem exec_carCalls {s : State} {rx : Rx} (h : s.hears rx) {f : CallsFrame} {slot : Nat} {row : CarRow}
    (k : s.knows f.car slot row) : exec (.carCalls rx f) s = .next (s.busy.carCallsTaken slot f) :=
  congrArg Host.Outcome.next ((receive_route h.receivesFrom _).trans (routeCar_running (s := s.busy) h.1 k.1 _))

theorem exec_assign {s : State} {rx : Rx} (h : s.hears rx) (f : AssignFrame) :
    exec (.assign rx f) s = .next (s.busy.assignTaken f) := by
  refine congrArg Host.Outcome.next ((receive_route h.receivesFrom _).trans ?_)
  exact if_pos (running_of (s := s.busy) h.1)

theorem exec_withdraw {s : State} {rx : Rx} (h : s.hears rx) (ticket : Word16) :
    exec (.withdraw rx ticket) s = .next (s.busy.withdrawTaken ticket) := by
  refine congrArg Host.Outcome.next ((receive_route h.receivesFrom _).trans ?_)
  exact if_pos (running_of (s := s.busy) h.1)

theorem exec_restart {s : State} {rx : Rx} (h : s.receivesFrom rx) {target : Byte} (ha : s.addressed target = true) :
    exec (.restart rx target) s = .next s.busy.restartTaken := by
  refine congrArg Host.Outcome.next ((receive_route h _).trans ?_)
  exact if_pos ha

theorem exec_statusQuery {s : State} {rx : Rx} (h : s.receivesFrom rx) {f : QueryFrame}
    (ha : s.addressed f.target = true) : exec (.statusQuery rx f) s = .next (s.busy.queryTaken f) := by
  refine congrArg Host.Outcome.next ((receive_route h _).trans ?_)
  exact if_pos ha

theorem tempoLowers_loader (s : State) : s.tempoLowers.loader = s.loader := by
  unfold State.tempoLowers
  split <;> rfl

theorem exec_tempo {s : State} {rx : Rx} (h : s.hears rx) (count sync : Byte) : exec (.tempo rx count sync) s =
    .next (s.busy.tempoLowers.tempoHeard false rx.source s.frameMark (decodeCount count) (decodeSync sync)) := by
  refine congrArg Host.Outcome.next ((receive_route h.receivesFrom _).trans ?_)
  refine if_pos (running_of ?_)
  rw [tempoLowers_loader]
  exact h.1

theorem exec_tempo_fault {s : State} {rx : Rx} (h : s.receivesFrom rx) (hf : s.loader.state = .imageFault)
    (count sync : Byte) : exec (.tempo rx count sync) s = .next s.busy.tempoLowers := by
  refine congrArg Host.Outcome.next ((receive_route h _).trans ?_)
  refine if_neg ?_
  rw [running_false]
  · decide
  · rw [tempoLowers_loader]
    show s.loader.state ≠ _
    rw [hf]
    decide

theorem carRow_of {s : State} {car : Byte} {slot : Nat} {row : CarRow} (k : s.knows car slot row) :
    s.busy.carRow slot = some row := k.2.1

/-! ### Codes -/

theorem decodeMotion_none {b : Byte} (h : 4 < b.toNat) : decodeMotion b = none := by
  unfold decodeMotion
  split <;> first | omega | rfl

theorem decodeMotion_some {b : Byte} (h : b.toNat ≤ 4) : ∃ m, decodeMotion b = some m := by
  have : b.toNat = 0 ∨ b.toNat = 1 ∨ b.toNat = 2 ∨ b.toNat = 3 ∨ b.toNat = 4 := by omega
  unfold decodeMotion
  rcases this with e | e | e | e | e <;> rw [e] <;> exact ⟨_, rfl⟩

theorem decodeDoor_none {n : Nat} (h : 3 < n) : decodeDoor n = none := by
  unfold decodeDoor
  split <;> first | omega | rfl

theorem decodeService_none {b : Byte} (h : 4 < b.toNat) : decodeService b = none := by
  unfold decodeService
  split <;> first | omega | rfl

theorem decodeMode_none {b : Byte} (h : 5 < b.toNat) : decodeMode b = none := by
  unfold decodeMode
  split <;> first | omega | rfl

theorem decodeMode_some {b : Byte} (h : b.toNat ≤ 5) : ∃ m, decodeMode b = some m := by
  have : b.toNat = 0 ∨ b.toNat = 1 ∨ b.toNat = 2 ∨ b.toNat = 3 ∨ b.toNat = 4 ∨ b.toNat = 5 := by omega
  unfold decodeMode
  rcases this with e | e | e | e | e | e <;> rw [e] <;> exact ⟨_, rfl⟩

theorem decodeCallsDeck_none {b : Byte} (h : 1 < b.toNat) : decodeCallsDeck b = none := by
  unfold decodeCallsDeck
  split <;> first | omega | rfl

theorem decodeIntent_none {b : Byte} (h : 2 < b.toNat) : decodeIntent b = none := by
  unfold decodeIntent
  split <;> first | omega | rfl

theorem decodeAssignDeck_none {b : Byte} (h : 2 < b.toNat) : decodeAssignDeck b = none := by
  unfold decodeAssignDeck
  split <;> first | omega | rfl

theorem decodeQueryKind_none {b : Byte} (h : 2 < b.toNat) : decodeQueryKind b = none := by
  unfold decodeQueryKind
  split <;> first | omega | rfl

theorem decodeClear_none {b : Byte} (h : 1 < b.toNat) : decodeClear b = none := by
  unfold decodeClear
  split <;> first | omega | rfl

theorem decodeAccessLang_none {b : Byte} (h : 1 < b.toNat % 16 ∨ 1 < b.toNat / 16) : decodeAccessLang b = none := by
  unfold decodeAccessLang
  split <;> first | omega | rfl

end Sys2Proof.Machine
end

