-- ==== Sys2Proof/Laws/Selections.lean ====
section
/-! SUPPORT. What the small selections of the model give, said once: expiries reached, commands that time brings, panels
that meet a condition, mask members, and the quiet record after a wake event. -/

namespace Sys2Proof.Machine

theorem reached_iff (expiry now : Clock) : reached expiry now = true ↔ (now - expiry).toNat < 2 ^ 31 := by
  simp [reached]

theorem due_iff (timer : Option Clock) (now : Clock) :
    due timer now = true ↔ ∃ e, timer = some e ∧ (now - e).toNat < 2 ^ 31 := by
  cases timer <;> simp [due, reached_iff]

theorem mem_forThose {l : List Nat} {p : Nat → Bool} {c : Nat → Instr} {x : Instr} :
    x ∈ forThose l p c ↔ ∃ n ∈ l, p n = true ∧ c n = x := by
  simp [forThose, and_assoc]

theorem mem_panelIds {s : State} {n : Nat} : n ∈ s.panelIds ↔ ∃ row, s.row n = some row := by
  unfold State.panelIds State.row
  rw [List.mem_range]
  exact ⟨fun h => ⟨_, List.getElem?_eq_getElem h⟩, fun ⟨_, h⟩ => (List.getElem?_eq_some_iff.mp h).1⟩

theorem mem_panelsWhere {s : State} {p : PanelRow → Bool} {n : Nat} :
    n ∈ s.panelsWhere p ↔ ∃ row, s.row n = some row ∧ p row = true := by
  unfold State.panelsWhere
  rw [List.mem_filter, mem_panelIds]
  cases s.row n <;> simp

theorem panelsWhere_sorted (s : State) (p : PanelRow → Bool) : (s.panelsWhere p).Pairwise (· < ·) :=
  List.Pairwise.filter _ List.pairwise_lt_range

theorem getLsbD_maskBit (w n k : Nat) : (maskBit w n).getLsbD k = decide (k < w ∧ k = n) := by
  unfold maskBit
  rw [BitVec.getLsbD_ofNat, Nat.testBit_two_pow]
  by_cases h : k < w <;> by_cases e : n = k <;> simp [h, e, eq_comm]

/-- An attempt that begins in a millisecond changes the bus station alone. -/
theorem beginAttempt_eq (s : State) : s.beginAttempt = { s with bus := s.beginAttempt.bus } := by
  unfold State.beginAttempt
  split <;> rfl

/-- The mode unit is untouched by what only changes schedules and links. -/
theorem mode_closed (m : ModeUnit) : ShowClosed (fun t => t.mode = m) where
  sched := fun _ _ _ h => h
  hand := fun _ _ _ h => h
  cancel := fun _ _ _ h => h

/-- A panel that becomes AWAKE: its quiet record is set, and nothing else of the mode unit. -/
theorem awaken_mode {s : State} {n : Nat} {row : PanelRow} (h : s.row n = some row) (timer : Option Clock) :
    (s.awaken n timer).mode = { s.mode with quiet := s.mode.quiet.set n { state := .awake, timer := timer } } := by
  unfold State.awaken
  rw [h]
  dsimp only
  split
  · rfl
  · rfl
  · exact relight_preserves (mode_closed _) _ _ _ rfl

/-- The mode unit after a wake event below level 3 (R125). -/
theorem wake_mode {s : State} {n : Nat} {row : PanelRow} (h : s.row n = some row) (hl : s.mode.level ≠ .evacuate) :
    (s.wake n).mode =
      { s.mode with quiet := s.mode.quiet.set n { state := .awake, timer := some (s.quietAhead row) } } := by
  unfold State.wake
  rw [h]
  dsimp only
  rw [if_neg hl]
  exact awaken_mode h _

/-- At level 3 a wake event changes nothing (R125). -/
theorem wake_evacuate {s : State} (n : Nat) (hl : s.mode.level = .evacuate) : s.wake n = s := by
  unfold State.wake
  split
  · rfl
  · rw [if_pos hl]

end Sys2Proof.Machine
end

