-- ==== Sys2Proof/Laws/Start.lean ====
section
/-! SUPPORT. Starts and restarts: what probing, a START and the load reports leave as it is. -/

namespace Sys2Proof.Machine

/-! ### One panel's work leaves the other panels alone -/

theorem link_elsewhere {n k : Nat} (h : k ≠ n) (x : Option LinkRec) : QuietAt n (fun s => s.links[k]? = x) :=
  { sched := fun _ _ h => h,
    hand := fun m s e => by
      show (s.links.modify n _)[k]? = x
      rw [List.getElem?_modify_ne _ _ (fun y => h y.symm)]
      exact e,
    cancel := fun w s e => by
      show (s.links.modify n _)[k]? = x
      rw [List.getElem?_modify_ne _ _ (fun y => h y.symm)]
      exact e,
    quiet := fun _ _ h => h, lamp := fun _ _ h => h }

theorem schedule_elsewhere {n k : Nat} (h : k ≠ n) (x : Option Schedule) : QuietAt n (fun s => s.schedules[k]? = x) :=
  { sched := fun f s e => by
      show (s.schedules.modify n _)[k]? = x
      rw [List.getElem?_modify_ne _ _ (fun y => h y.symm)]
      exact e,
    hand := fun _ _ h => h, cancel := fun _ _ h => h, quiet := fun _ _ h => h, lamp := fun _ _ h => h }

theorem quiet_elsewhere {n k : Nat} (h : k ≠ n) (x : Option QuietRec) : QuietAt n (fun s => s.mode.quiet[k]? = x) :=
  { sched := fun _ _ h => h, hand := fun _ _ h => h, cancel := fun _ _ h => h, lamp := fun _ _ h => h,
    quiet := fun q s e => by
      show (s.mode.quiet.set n q)[k]? = x
      rw [List.getElem?_set_ne (fun y => h y.symm)]
      exact e }

/-- The number of schedules never changes. -/
theorem schedules_length (k : Nat) : QuietClosed (fun s => s.schedules.length = k) :=
  { sched := fun n f s e => by
      show (s.schedules.modify n f).length = k
      rw [List.length_modify]
      exact e,
    hand := fun _ _ _ h => h, cancel := fun _ _ _ h => h, quiet := fun _ _ _ h => h, lamp := fun _ _ _ h => h }

/-- A link that is not UP and has nothing queued takes no work. -/
theorem link_idle {k : Nat} {l : LinkRec} (h1 : l.state ≠ .up) (h2 : l.queue = []) :
    ShowClosed (fun s => s.links[k]? = some l) :=
  { sched := fun _ _ _ h => h,
    hand := fun n m s e => by
      show (s.links.modify n _)[k]? = _
      rw [List.getElem?_modify, e]
      split
      · show some (l.hand m s.now) = some l
        unfold LinkRec.hand
        rw [if_neg h1]
      · rfl,
    cancel := fun n w s e => by
      show (s.links.modify n _)[k]? = _
      rw [List.getElem?_modify, e]
      split
      · show some (if _ then _ else _ : LinkRec) = some l
        rw [h2]
        split
        · rw [List.filter_nil, ← h2]
        · rfl
      · rfl }

/-! ### Probing -/

/-- Probing changes links alone. -/
theorem probing_frame (l : List Nat) (s : State) :
    forEach l (fun n s => s.startProbing n) s =
      { s with links := (forEach l (fun n s => s.startProbing n) s).links } := by
  unfold forEach
  induction l generalizing s with
  | nil => rfl
  | cons a l ih => exact ih (s.startProbing a)

/-- A link record as probing leaves it. -/
def LinkRec.probed (s : State) (n : Nat) (r : LinkRec) : LinkRec :=
  { r with state := .probing, inFlight := none, queue := [], pageStale := false, brightStale := false,
           reprobe := none }.fly (s.probeMsg n) 1 s.now

/-- Probing several links: each of them, and no other. -/
theorem probing_links (l : List Nat) (s : State) (hl : l.Nodup) (n : Nat) :
    (forEach l (fun n s => s.startProbing n) s).links[n]? =
      if n ∈ l then (s.links[n]?).map (LinkRec.probed s n) else s.links[n]? := by
  unfold forEach
  induction l generalizing s with
  | nil => rfl
  | cons a l ih =>
    rw [List.foldl_cons, ih _ (List.nodup_cons.mp hl).2]
    have hna := (List.nodup_cons.mp hl).1
    have e1 : LinkRec.probed (s.startProbing a) n = LinkRec.probed s n := rfl
    have e2 : (s.startProbing a).links[n]? = if a = n then (s.links[n]?).map (LinkRec.probed s n) else s.links[n]? := by
      show (s.links.modify a _)[n]? = _
      by_cases h : a = n
      · subst h
        rw [List.getElem?_modify_eq, if_pos rfl]
        rfl
      · rw [List.getElem?_modify_ne _ _ h, if_neg h]
    rw [e1, e2]
    by_cases h : a = n
    · subst h
      rw [if_neg hna, if_pos rfl, if_pos List.mem_cons_self]
    · have : n ≠ a := fun x => h x.symm
      simp [h, this]

/-! ### Items raised with an empty queue -/

theorem raise_bus_empty {i : ExcItem} {s : State} (h : s.bus.queue = []) : (s.raise i).bus = s.bus := by
  show ({ s.bus with queue := s.bus.queue.map (TxFrame.dropItem i) } : BusUnit) = s.bus
  rw [h, List.map_nil, ← h]

/-! ### A START and the load reports -/

/-- All but the queue, FRAMES_DROPPED and QUEUE_OVERFLOW, which a request may change. -/
def State.forRequest (s : State) : State :=
  { s with
    bus := { s.bus with queue := [] },
    status := { s.status with
      counters := { s.status.counters with framesDropped := 0 },
      exceptions := { s.status.exceptions with queueOverflow := false } } }

theorem request_forRequest (p : TxPayload) (s : State) : (s.request p).2.forRequest = s.forRequest := by
  unfold State.request
  repeat' split
  all_goals rfl

theorem startReports_forRequest (s : State) : s.startReports.forRequest = s.forRequest :=
  forEach_keeps State.forRequest _ (fun _ _ => request_forRequest _ _) _ s

theorem eq_of_forRequest {s t : State} (h : t.forRequest = s.forRequest) :
    t = { s with
      bus := { s.bus with queue := t.bus.queue },
      status := { s.status with
        counters := { s.status.counters with framesDropped := t.status.counters.framesDropped },
        exceptions := { s.status.exceptions with queueOverflow := t.status.exceptions.queueOverflow } } } := by
  obtain ⟨_, ⟨_, _, _, _, _, _, _⟩, _, _, _, _, _, _, _, ⟨e, c, _, _, _⟩, _, _⟩ := s
  obtain ⟨_, ⟨_, _, _, _, _, _, _⟩, _, _, _, _, _, _, _, ⟨e', c', _, _, _⟩, _, _⟩ := t
  cases e; cases c; cases e'; cases c'
  simp_all [State.forRequest]

/-- The event of a START at an instant (R34). -/
def startEvent (now : Clock) : CycleStart := { cause := .start, base := now, count := 0, endedCt := none }

/-- The state in which a START sets the cycle fields. -/
def State.atStart (s : State) : State :=
  { s with cycle := { clock := s.cycle.clock, base := s.cycle.clock, count := 0, sync := .alone, pendingTempo := false,
                      lastTempo := none, crossed := false, event := some (startEvent s.cycle.clock) } }

theorem startCycle_eq (s : State) :
    s.startCycle =
      forEach s.panelIds (fun n t => t.schedCycleStart (startEvent s.cycle.clock) s.cycle.count n) s.atStart := rfl

theorem startCycle_forShow (s : State) : s.startCycle.forShow = s.atStart.forShow := by
  rw [startCycle_eq]
  refine forEach_keeps State.forShow _ (fun n t => ?_) _ _
  rw [schedCycleStart_forShow]
  rfl

/-- A START with its reports moves schedules, links, the queue, FRAMES_DROPPED and QUEUE_OVERFLOW beside the cycle. -/
theorem starts_frame (s : State) : s.startCycle.startReports = { s.atStart with
      links := s.startCycle.startReports.links, schedules := s.startCycle.startReports.schedules,
      bus := { s.bus with queue := s.startCycle.startReports.bus.queue },
      status := { s.status with
        counters := { s.status.counters with
          framesDropped := s.startCycle.startReports.status.counters.framesDropped },
        exceptions := { s.status.exceptions with
          queueOverflow := s.startCycle.startReports.status.exceptions.queueOverflow } } } := by
  have h1 := eq_of_forRequest (startReports_forRequest s.startCycle)
  have h2 := eq_of_forShow (startCycle_forShow s)
  generalize s.startCycle.startReports = t at h1
  generalize s.startCycle = u at h1 h2
  rw [h2] at h1
  rw [h1]
  rfl

/-- A START keeps the number of schedules. -/
theorem starts_schedules (s : State) : s.startCycle.startReports.schedules.length = s.schedules.length := by
  have h1 := congrArg (fun x : State => x.schedules.length) (startReports_forRequest s.startCycle)
  refine h1.trans ?_
  show s.startCycle.schedules.length = _
  rw [startCycle_eq]
  exact forEach_preserves _ _ (fun n t => schedCycleStart_preserves (schedules_length s.schedules.length).toShowClosed
    (fun _ _ h => h) (startEvent s.cycle.clock) s.cycle.count n t) _ _ rfl

theorem starts_links (s : State) : s.startCycle.startReports.links = s.startCycle.links := by
  have h1 := congrArg State.links (startReports_forRequest s.startCycle)
  exact h1

/-- A START hands no work to a link that is not UP. -/
theorem starts_idle {s : State} {n : Nat} {l : LinkRec} (h : s.links[n]? = some l) (h1 : l.state ≠ .up)
    (h2 : l.queue = []) : s.startCycle.startReports.links[n]? = some l := by
  rw [starts_links, startCycle_eq]
  exact forEach_preserves _ _ (fun m t => schedCycleStart_preserves (link_idle h1 h2) (fun _ _ h => h)
    (startEvent s.cycle.clock) s.cycle.count m t) _ _ h

/-- A START leaves the links of panels without a row alone. -/
theorem starts_elsewhere {s : State} {n : Nat} (h : s.loader.copy.panels.length ≤ n) :
    s.startCycle.startReports.links[n]? = s.links[n]? := by
  rw [starts_links, startCycle_eq]
  have ne : ∀ m ∈ s.panelIds, n ≠ m := fun m hm e => by
    have := List.mem_range.mp hm
    omega
  generalize s.panelIds = l at ne
  generalize hs : s.atStart = t
  have e0 : t.links[n]? = s.links[n]? := by
    rw [← hs]
    rfl
  clear hs
  unfold forEach
  induction l generalizing t with
  | nil => exact e0
  | cons m l ih =>
    exact ih (fun x hx => ne x (List.mem_cons_of_mem _ hx)) _ (schedCycleStart_at
      (link_elsewhere (ne m List.mem_cons_self) s.links[n]?).toShowAt (fun _ _ h => h) (startEvent s.cycle.clock) s.cycle.count t
      e0)

/-! ### The items raised at a start -/

theorem maskBit8_getLsbD (a n : Nat) (hn : n < 8) : (maskBit 8 a).getLsbD n = decide (n = a) := by
  unfold maskBit
  rw [BitVec.getLsbD_ofNat, Nat.testBit_two_pow]
  simp [hn, eq_comm]

/-- Raising SHOW_LIST_FAULT for a list of panels changes the mask of the item, and the snapshots of the queue. -/
theorem raiseLists_frame (l : List Nat) (u : State) :
    let t := forEach l (fun n s => s.raise (.showListFault n)) u
    t = { u with
      bus := { u.bus with queue := t.bus.queue },
      status := { u.status with exceptions := { u.status.exceptions with
        showListFault := t.status.exceptions.showListFault } } } ∧
    ∀ n, n < 8 → t.status.exceptions.showListFault.getLsbD n =
      (u.status.exceptions.showListFault.getLsbD n || decide (n ∈ l)) := by
  induction l generalizing u with
  | nil => exact ⟨rfl, fun n _ => by simp [forEach]⟩
  | cons a l ih =>
    intro t
    obtain ⟨h1, h2⟩ := ih (u.raise (.showListFault a))
    refine ⟨h1, fun n hn => (h2 n hn).trans ?_⟩
    show ((u.status.exceptions.showListFault ||| maskBit 8 a).getLsbD n || _) = _
    rw [BitVec.getLsbD_or, maskBit8_getLsbD a n hn, Bool.or_assoc]
    congr 1
    by_cases h : n = a <;> simp [h]

theorem raiseClamped_frame (s : State) (c : Bool) : s.raiseIf c .imageClamped = { s with
    bus := { s.bus with queue := (s.raiseIf c .imageClamped).bus.queue },
    status := { s.status with exceptions := { s.status.exceptions with
      imageClamped := s.status.exceptions.imageClamped || c } } } := by
  unfold State.raiseIf
  cases c
  · simp
  · simp [State.raise, Exceptions.add]

/-- The image items: IMAGE_CLAMPED, and SHOW_LIST_FAULT for each panel whose list is faulted (R21, R22). -/
theorem raiseImageItems_frame (s : State) :
    s.raiseImageItems = { s with
      bus := { s.bus with queue := s.raiseImageItems.bus.queue },
      status := { s.status with exceptions := { s.status.exceptions with
        imageClamped := s.status.exceptions.imageClamped || s.loader.copy.clamped,
        showListFault := s.raiseImageItems.status.exceptions.showListFault } } } ∧
    ∀ (n : Nat) (row : PanelRow), n < 8 → s.row n = some row →
      s.raiseImageItems.status.exceptions.showListFault.getLsbD n =
        (s.status.exceptions.showListFault.getLsbD n || row.listFaulted) := by
  have h0 := raiseClamped_frame s s.loader.copy.clamped
  obtain ⟨h1, h2⟩ := raiseLists_frame (s.panelsWhere (·.listFaulted)) (s.raiseIf s.loader.copy.clamped .imageClamped)
  have e : s.raiseImageItems = forEach (s.panelsWhere (·.listFaulted)) (fun n s => s.raise (.showListFault n))
    (s.raiseIf s.loader.copy.clamped .imageClamped) := rfl
  rw [← e] at h1 h2
  constructor
  · rw [h0] at h1
    exact h1
  · intro n row hn hr
    rw [h2 n hn]
    have : (s.raiseIf s.loader.copy.clamped .imageClamped).status.exceptions.showListFault
      = s.status.exceptions.showListFault := by rw [h0]
    rw [this]
    congr 1
    unfold State.panelsWhere State.panelIds
    have hlt : n < s.loader.copy.panels.length := (List.getElem?_eq_some_iff.mp hr).1
    rw [Bool.eq_iff_iff, decide_eq_true_iff, List.mem_filter, hr]
    exact ⟨fun h => h.2, fun h => ⟨List.mem_range.mpr hlt, h⟩⟩

theorem strapCase_frame (s : State) : s.strapCase = { s with
    bus := { s.bus with
      queue := s.strapCase.bus.queue,
      state := if s.validStation then s.bus.state else .listenOnly,
      failCount := if s.validStation then s.bus.failCount else 96 },
    status := { s.status with exceptions := { s.status.exceptions with
      listenOnly := s.status.exceptions.listenOnly || !s.validStation } } } := by
  unfold State.strapCase
  cases hv : s.validStation
  · simp; rfl
  · simp

theorem raiseReset_frame (s : State) : s.raiseReset = { s with
    bus := { s.bus with queue := s.raiseReset.bus.queue },
    status := { s.status with exceptions := { s.status.exceptions with
      powerUp := s.status.exceptions.powerUp || decide (s.status.cause = .power),
      pinReset := s.status.exceptions.pinReset || decide (s.status.cause = .pin) } } } := by
  unfold State.raiseReset
  cases hv : s.status.cause
  · simp [State.raise, Exceptions.add]
  · simp [State.raise, Exceptions.add]
  · simp

/-- Every lantern record starts DARK (R92). -/
theorem lanternRecords_dark (n : Nat) (l : List PanelRow) :
    ∀ r ∈ lanternRecords n l, r.state = .dark ∧ r.dir = .none ∧ r.deck = none ∧ r.linger = none := by
  induction l generalizing n with
  | nil => intro r hr; cases hr
  | cons row l ih =>
    intro r hr
    unfold lanternRecords at hr
    rcases List.mem_append.mp hr with h | h
    · unfold lanternsOf at h
      split at h
      · obtain ⟨x, _, rfl⟩ := List.mem_map.mp h
        exact ⟨rfl, rfl, rfl, rfl⟩
      all_goals cases h
    · exact ih _ r h

end Sys2Proof.Machine
end

