-- ==== Sys2Proof/Laws/State.lean ====
section
/-! SUPPORT. What each update of the state does to each field, true by rfl. -/

namespace Sys2Proof.Machine

/-! ### setSched -/

@[simp] theorem State.setSched_loader (n : Nat) (f : Schedule → Schedule) (s : State) :
    (s.setSched n f).loader = s.loader := rfl
@[simp] theorem State.setSched_bus (n : Nat) (f : Schedule → Schedule) (s : State) : (s.setSched n f).bus = s.bus := rfl
@[simp] theorem State.setSched_cycle (n : Nat) (f : Schedule → Schedule) (s : State) :
    (s.setSched n f).cycle = s.cycle := rfl
@[simp] theorem State.setSched_cars (n : Nat) (f : Schedule → Schedule) (s : State) :
    (s.setSched n f).cars = s.cars := rfl
@[simp] theorem State.setSched_stops (n : Nat) (f : Schedule → Schedule) (s : State) :
    (s.setSched n f).stops = s.stops := rfl
@[simp] theorem State.setSched_prompts (n : Nat) (f : Schedule → Schedule) (s : State) :
    (s.setSched n f).prompts = s.prompts := rfl
@[simp] theorem State.setSched_mode (n : Nat) (f : Schedule → Schedule) (s : State) :
    (s.setSched n f).mode = s.mode := rfl
@[simp] theorem State.setSched_schedules (n : Nat) (f : Schedule → Schedule) (s : State) :
    (s.setSched n f).schedules = s.schedules.modify n f := rfl
@[simp] theorem State.setSched_links (n : Nat) (f : Schedule → Schedule) (s : State) :
    (s.setSched n f).links = s.links := rfl
@[simp] theorem State.setSched_status (n : Nat) (f : Schedule → Schedule) (s : State) :
    (s.setSched n f).status = s.status := rfl
@[simp] theorem State.setSched_free (n : Nat) (f : Schedule → Schedule) (s : State) :
    (s.setSched n f).free = s.free := rfl
@[simp] theorem State.setSched_pending (n : Nat) (f : Schedule → Schedule) (s : State) :
    (s.setSched n f).pending = s.pending := rfl

/-! ### setLink -/

@[simp] theorem State.setLink_loader (n : Nat) (f : LinkRec → LinkRec) (s : State) :
    (s.setLink n f).loader = s.loader := rfl
@[simp] theorem State.setLink_bus (n : Nat) (f : LinkRec → LinkRec) (s : State) : (s.setLink n f).bus = s.bus := rfl
@[simp] theorem State.setLink_cycle (n : Nat) (f : LinkRec → LinkRec) (s : State) :
    (s.setLink n f).cycle = s.cycle := rfl
@[simp] theorem State.setLink_cars (n : Nat) (f : LinkRec → LinkRec) (s : State) : (s.setLink n f).cars = s.cars := rfl
@[simp] theorem State.setLink_stops (n : Nat) (f : LinkRec → LinkRec) (s : State) :
    (s.setLink n f).stops = s.stops := rfl
@[simp] theorem State.setLink_prompts (n : Nat) (f : LinkRec → LinkRec) (s : State) :
    (s.setLink n f).prompts = s.prompts := rfl
@[simp] theorem State.setLink_mode (n : Nat) (f : LinkRec → LinkRec) (s : State) : (s.setLink n f).mode = s.mode := rfl
@[simp] theorem State.setLink_schedules (n : Nat) (f : LinkRec → LinkRec) (s : State) :
    (s.setLink n f).schedules = s.schedules := rfl
@[simp] theorem State.setLink_links (n : Nat) (f : LinkRec → LinkRec) (s : State) :
    (s.setLink n f).links = s.links.modify n f := rfl
@[simp] theorem State.setLink_status (n : Nat) (f : LinkRec → LinkRec) (s : State) :
    (s.setLink n f).status = s.status := rfl
@[simp] theorem State.setLink_free (n : Nat) (f : LinkRec → LinkRec) (s : State) : (s.setLink n f).free = s.free := rfl
@[simp] theorem State.setLink_pending (n : Nat) (f : LinkRec → LinkRec) (s : State) :
    (s.setLink n f).pending = s.pending := rfl

/-! ### setQuiet -/

@[simp] theorem State.setQuiet_loader (n : Nat) (q : QuietRec) (s : State) : (s.setQuiet n q).loader = s.loader := rfl
@[simp] theorem State.setQuiet_bus (n : Nat) (q : QuietRec) (s : State) : (s.setQuiet n q).bus = s.bus := rfl
@[simp] theorem State.setQuiet_cycle (n : Nat) (q : QuietRec) (s : State) : (s.setQuiet n q).cycle = s.cycle := rfl
@[simp] theorem State.setQuiet_cars (n : Nat) (q : QuietRec) (s : State) : (s.setQuiet n q).cars = s.cars := rfl
@[simp] theorem State.setQuiet_stops (n : Nat) (q : QuietRec) (s : State) : (s.setQuiet n q).stops = s.stops := rfl
@[simp] theorem State.setQuiet_prompts (n : Nat) (q : QuietRec) (s : State) :
    (s.setQuiet n q).prompts = s.prompts := rfl
@[simp] theorem State.setQuiet_mode (n : Nat) (q : QuietRec) (s : State) :
    (s.setQuiet n q).mode = { s.mode with quiet := s.mode.quiet.set n q } := rfl
@[simp] theorem State.setQuiet_schedules (n : Nat) (q : QuietRec) (s : State) :
    (s.setQuiet n q).schedules = s.schedules := rfl
@[simp] theorem State.setQuiet_links (n : Nat) (q : QuietRec) (s : State) : (s.setQuiet n q).links = s.links := rfl
@[simp] theorem State.setQuiet_status (n : Nat) (q : QuietRec) (s : State) : (s.setQuiet n q).status = s.status := rfl
@[simp] theorem State.setQuiet_free (n : Nat) (q : QuietRec) (s : State) : (s.setQuiet n q).free = s.free := rfl
@[simp] theorem State.setQuiet_pending (n : Nat) (q : QuietRec) (s : State) :
    (s.setQuiet n q).pending = s.pending := rfl

/-! ### setLamp -/

@[simp] theorem State.setLamp_loader (n : Nat) (e : Option Clock) (s : State) : (s.setLamp n e).loader = s.loader := rfl
@[simp] theorem State.setLamp_bus (n : Nat) (e : Option Clock) (s : State) : (s.setLamp n e).bus = s.bus := rfl
@[simp] theorem State.setLamp_cycle (n : Nat) (e : Option Clock) (s : State) : (s.setLamp n e).cycle = s.cycle := rfl
@[simp] theorem State.setLamp_cars (n : Nat) (e : Option Clock) (s : State) : (s.setLamp n e).cars = s.cars := rfl
@[simp] theorem State.setLamp_stops (n : Nat) (e : Option Clock) (s : State) : (s.setLamp n e).stops = s.stops := rfl
@[simp] theorem State.setLamp_prompts (n : Nat) (e : Option Clock) (s : State) :
    (s.setLamp n e).prompts = s.prompts := rfl
@[simp] theorem State.setLamp_mode (n : Nat) (e : Option Clock) (s : State) :
    (s.setLamp n e).mode = { s.mode with lamps := s.mode.lamps.set n e } := rfl
@[simp] theorem State.setLamp_schedules (n : Nat) (e : Option Clock) (s : State) :
    (s.setLamp n e).schedules = s.schedules := rfl
@[simp] theorem State.setLamp_links (n : Nat) (e : Option Clock) (s : State) : (s.setLamp n e).links = s.links := rfl
@[simp] theorem State.setLamp_status (n : Nat) (e : Option Clock) (s : State) : (s.setLamp n e).status = s.status := rfl
@[simp] theorem State.setLamp_free (n : Nat) (e : Option Clock) (s : State) : (s.setLamp n e).free = s.free := rfl
@[simp] theorem State.setLamp_pending (n : Nat) (e : Option Clock) (s : State) :
    (s.setLamp n e).pending = s.pending := rfl

/-! ### setPool -/

@[simp] theorem State.setPool_loader (p : List Prompt) (s : State) : (s.setPool p).loader = s.loader := rfl
@[simp] theorem State.setPool_bus (p : List Prompt) (s : State) : (s.setPool p).bus = s.bus := rfl
@[simp] theorem State.setPool_cycle (p : List Prompt) (s : State) : (s.setPool p).cycle = s.cycle := rfl
@[simp] theorem State.setPool_cars (p : List Prompt) (s : State) : (s.setPool p).cars = s.cars := rfl
@[simp] theorem State.setPool_stops (p : List Prompt) (s : State) : (s.setPool p).stops = s.stops := rfl
@[simp] theorem State.setPool_prompts (p : List Prompt) (s : State) :
    (s.setPool p).prompts = { s.prompts with pool := p } := rfl
@[simp] theorem State.setPool_mode (p : List Prompt) (s : State) : (s.setPool p).mode = s.mode := rfl
@[simp] theorem State.setPool_schedules (p : List Prompt) (s : State) : (s.setPool p).schedules = s.schedules := rfl
@[simp] theorem State.setPool_links (p : List Prompt) (s : State) : (s.setPool p).links = s.links := rfl
@[simp] theorem State.setPool_status (p : List Prompt) (s : State) : (s.setPool p).status = s.status := rfl
@[simp] theorem State.setPool_free (p : List Prompt) (s : State) : (s.setPool p).free = s.free := rfl
@[simp] theorem State.setPool_pending (p : List Prompt) (s : State) : (s.setPool p).pending = s.pending := rfl

/-! ### setCar -/

@[simp] theorem State.setCar_loader (n : Nat) (r : CarRec) (s : State) : (s.setCar n r).loader = s.loader := rfl
@[simp] theorem State.setCar_bus (n : Nat) (r : CarRec) (s : State) : (s.setCar n r).bus = s.bus := rfl
@[simp] theorem State.setCar_cycle (n : Nat) (r : CarRec) (s : State) : (s.setCar n r).cycle = s.cycle := rfl
@[simp] theorem State.setCar_cars (n : Nat) (r : CarRec) (s : State) : (s.setCar n r).cars = s.cars.set n r := rfl
@[simp] theorem State.setCar_stops (n : Nat) (r : CarRec) (s : State) : (s.setCar n r).stops = s.stops := rfl
@[simp] theorem State.setCar_prompts (n : Nat) (r : CarRec) (s : State) : (s.setCar n r).prompts = s.prompts := rfl
@[simp] theorem State.setCar_mode (n : Nat) (r : CarRec) (s : State) : (s.setCar n r).mode = s.mode := rfl
@[simp] theorem State.setCar_schedules (n : Nat) (r : CarRec) (s : State) :
    (s.setCar n r).schedules = s.schedules := rfl
@[simp] theorem State.setCar_links (n : Nat) (r : CarRec) (s : State) : (s.setCar n r).links = s.links := rfl
@[simp] theorem State.setCar_status (n : Nat) (r : CarRec) (s : State) : (s.setCar n r).status = s.status := rfl
@[simp] theorem State.setCar_free (n : Nat) (r : CarRec) (s : State) : (s.setCar n r).free = s.free := rfl
@[simp] theorem State.setCar_pending (n : Nat) (r : CarRec) (s : State) : (s.setCar n r).pending = s.pending := rfl

/-! ### setDecks -/

@[simp] theorem State.setDecks_loader (n : Nat) (f : CarDecks → CarDecks) (s : State) :
    (s.setDecks n f).loader = s.loader := rfl
@[simp] theorem State.setDecks_bus (n : Nat) (f : CarDecks → CarDecks) (s : State) : (s.setDecks n f).bus = s.bus := rfl
@[simp] theorem State.setDecks_cycle (n : Nat) (f : CarDecks → CarDecks) (s : State) :
    (s.setDecks n f).cycle = s.cycle := rfl
@[simp] theorem State.setDecks_cars (n : Nat) (f : CarDecks → CarDecks) (s : State) :
    (s.setDecks n f).cars = s.cars := rfl
@[simp] theorem State.setDecks_stops (n : Nat) (f : CarDecks → CarDecks) (s : State) :
    (s.setDecks n f).stops = { s.stops with decks := s.stops.decks.modify n f } := rfl
@[simp] theorem State.setDecks_prompts (n : Nat) (f : CarDecks → CarDecks) (s : State) :
    (s.setDecks n f).prompts = s.prompts := rfl
@[simp] theorem State.setDecks_mode (n : Nat) (f : CarDecks → CarDecks) (s : State) :
    (s.setDecks n f).mode = s.mode := rfl
@[simp] theorem State.setDecks_schedules (n : Nat) (f : CarDecks → CarDecks) (s : State) :
    (s.setDecks n f).schedules = s.schedules := rfl
@[simp] theorem State.setDecks_links (n : Nat) (f : CarDecks → CarDecks) (s : State) :
    (s.setDecks n f).links = s.links := rfl
@[simp] theorem State.setDecks_status (n : Nat) (f : CarDecks → CarDecks) (s : State) :
    (s.setDecks n f).status = s.status := rfl
@[simp] theorem State.setDecks_free (n : Nat) (f : CarDecks → CarDecks) (s : State) :
    (s.setDecks n f).free = s.free := rfl
@[simp] theorem State.setDecks_pending (n : Nat) (f : CarDecks → CarDecks) (s : State) :
    (s.setDecks n f).pending = s.pending := rfl

/-! ### setMode -/

@[simp] theorem State.setMode_loader (f : ModeUnit → ModeUnit) (s : State) : (s.setMode f).loader = s.loader := rfl
@[simp] theorem State.setMode_bus (f : ModeUnit → ModeUnit) (s : State) : (s.setMode f).bus = s.bus := rfl
@[simp] theorem State.setMode_cycle (f : ModeUnit → ModeUnit) (s : State) : (s.setMode f).cycle = s.cycle := rfl
@[simp] theorem State.setMode_cars (f : ModeUnit → ModeUnit) (s : State) : (s.setMode f).cars = s.cars := rfl
@[simp] theorem State.setMode_stops (f : ModeUnit → ModeUnit) (s : State) : (s.setMode f).stops = s.stops := rfl
@[simp] theorem State.setMode_prompts (f : ModeUnit → ModeUnit) (s : State) : (s.setMode f).prompts = s.prompts := rfl
@[simp] theorem State.setMode_mode (f : ModeUnit → ModeUnit) (s : State) : (s.setMode f).mode = f s.mode := rfl
@[simp] theorem State.setMode_schedules (f : ModeUnit → ModeUnit) (s : State) :
    (s.setMode f).schedules = s.schedules := rfl
@[simp] theorem State.setMode_links (f : ModeUnit → ModeUnit) (s : State) : (s.setMode f).links = s.links := rfl
@[simp] theorem State.setMode_status (f : ModeUnit → ModeUnit) (s : State) : (s.setMode f).status = s.status := rfl
@[simp] theorem State.setMode_free (f : ModeUnit → ModeUnit) (s : State) : (s.setMode f).free = s.free := rfl
@[simp] theorem State.setMode_pending (f : ModeUnit → ModeUnit) (s : State) : (s.setMode f).pending = s.pending := rfl

/-! ### setSync -/

@[simp] theorem State.setSync_loader (st : SyncState) (s : State) : (s.setSync st).loader = s.loader := rfl
@[simp] theorem State.setSync_bus (st : SyncState) (s : State) : (s.setSync st).bus = s.bus := rfl
@[simp] theorem State.setSync_cycle (st : SyncState) (s : State) :
    (s.setSync st).cycle = { s.cycle with sync := st } := rfl
@[simp] theorem State.setSync_cars (st : SyncState) (s : State) : (s.setSync st).cars = s.cars := rfl
@[simp] theorem State.setSync_stops (st : SyncState) (s : State) : (s.setSync st).stops = s.stops := rfl
@[simp] theorem State.setSync_prompts (st : SyncState) (s : State) : (s.setSync st).prompts = s.prompts := rfl
@[simp] theorem State.setSync_mode (st : SyncState) (s : State) : (s.setSync st).mode = s.mode := rfl
@[simp] theorem State.setSync_schedules (st : SyncState) (s : State) : (s.setSync st).schedules = s.schedules := rfl
@[simp] theorem State.setSync_links (st : SyncState) (s : State) : (s.setSync st).links = s.links := rfl
@[simp] theorem State.setSync_status (st : SyncState) (s : State) : (s.setSync st).status = s.status := rfl
@[simp] theorem State.setSync_free (st : SyncState) (s : State) : (s.setSync st).free = s.free := rfl
@[simp] theorem State.setSync_pending (st : SyncState) (s : State) : (s.setSync st).pending = s.pending := rfl

/-! ### firstBitNow -/

@[simp] theorem State.firstBitNow_bus (s : State) :
    s.firstBitNow.bus = { s.bus with busFree := false, firstBit := some s.now } := rfl
@[simp] theorem State.firstBitNow_loader (s : State) : s.firstBitNow.loader = s.loader := rfl
@[simp] theorem State.firstBitNow_cycle (s : State) : s.firstBitNow.cycle = s.cycle := rfl
@[simp] theorem State.firstBitNow_cars (s : State) : s.firstBitNow.cars = s.cars := rfl
@[simp] theorem State.firstBitNow_stops (s : State) : s.firstBitNow.stops = s.stops := rfl
@[simp] theorem State.firstBitNow_prompts (s : State) : s.firstBitNow.prompts = s.prompts := rfl
@[simp] theorem State.firstBitNow_mode (s : State) : s.firstBitNow.mode = s.mode := rfl
@[simp] theorem State.firstBitNow_schedules (s : State) : s.firstBitNow.schedules = s.schedules := rfl
@[simp] theorem State.firstBitNow_links (s : State) : s.firstBitNow.links = s.links := rfl
@[simp] theorem State.firstBitNow_status (s : State) : s.firstBitNow.status = s.status := rfl
@[simp] theorem State.firstBitNow_free (s : State) : s.firstBitNow.free = s.free := rfl
@[simp] theorem State.firstBitNow_pending (s : State) : s.firstBitNow.pending = s.pending := rfl

/-! ### ownAttempt and beginAttempt -/

@[simp] theorem State.ownAttempt_bus (s : State) :
    s.ownAttempt.bus = { s.bus with queue := startHead s.bus.queue, busFree := false, firstBit := some s.now } := rfl
@[simp] theorem State.ownAttempt_loader (s : State) : s.ownAttempt.loader = s.loader := rfl
@[simp] theorem State.ownAttempt_cycle (s : State) : s.ownAttempt.cycle = s.cycle := rfl
@[simp] theorem State.ownAttempt_cars (s : State) : s.ownAttempt.cars = s.cars := rfl
@[simp] theorem State.ownAttempt_stops (s : State) : s.ownAttempt.stops = s.stops := rfl
@[simp] theorem State.ownAttempt_prompts (s : State) : s.ownAttempt.prompts = s.prompts := rfl
@[simp] theorem State.ownAttempt_mode (s : State) : s.ownAttempt.mode = s.mode := rfl
@[simp] theorem State.ownAttempt_schedules (s : State) : s.ownAttempt.schedules = s.schedules := rfl
@[simp] theorem State.ownAttempt_links (s : State) : s.ownAttempt.links = s.links := rfl
@[simp] theorem State.ownAttempt_status (s : State) : s.ownAttempt.status = s.status := rfl
@[simp] theorem State.ownAttempt_free (s : State) : s.ownAttempt.free = s.free := rfl
@[simp] theorem State.ownAttempt_pending (s : State) : s.ownAttempt.pending = s.pending := rfl

/-- All that a millisecond's attempt moves is the bus. -/
theorem State.beginAttempt_frame (s : State) : s.beginAttempt = { s with bus := s.beginAttempt.bus } := by
  unfold State.beginAttempt
  split <;> rfl

@[simp] theorem State.beginAttempt_loader (s : State) : s.beginAttempt.loader = s.loader := by rw [State.beginAttempt_frame]
@[simp] theorem State.beginAttempt_cycle (s : State) : s.beginAttempt.cycle = s.cycle := by rw [State.beginAttempt_frame]
@[simp] theorem State.beginAttempt_cars (s : State) : s.beginAttempt.cars = s.cars := by rw [State.beginAttempt_frame]
@[simp] theorem State.beginAttempt_stops (s : State) : s.beginAttempt.stops = s.stops := by rw [State.beginAttempt_frame]
@[simp] theorem State.beginAttempt_prompts (s : State) : s.beginAttempt.prompts = s.prompts := by rw [State.beginAttempt_frame]
@[simp] theorem State.beginAttempt_mode (s : State) : s.beginAttempt.mode = s.mode := by rw [State.beginAttempt_frame]
@[simp] theorem State.beginAttempt_schedules (s : State) : s.beginAttempt.schedules = s.schedules := by rw [State.beginAttempt_frame]
@[simp] theorem State.beginAttempt_links (s : State) : s.beginAttempt.links = s.links := by rw [State.beginAttempt_frame]
@[simp] theorem State.beginAttempt_status (s : State) : s.beginAttempt.status = s.status := by rw [State.beginAttempt_frame]
@[simp] theorem State.beginAttempt_free (s : State) : s.beginAttempt.free = s.free := by rw [State.beginAttempt_frame]
@[simp] theorem State.beginAttempt_pending (s : State) : s.beginAttempt.pending = s.pending := by rw [State.beginAttempt_frame]

/-! ### busy -/

@[simp] theorem State.busy_loader (s : State) : (s.busy).loader = s.loader := rfl
@[simp] theorem State.busy_bus (s : State) : (s.busy).bus = { s.bus with busFree := false, firstBit := none } := rfl
@[simp] theorem State.busy_cycle (s : State) : (s.busy).cycle = s.cycle := rfl
@[simp] theorem State.busy_cars (s : State) : (s.busy).cars = s.cars := rfl
@[simp] theorem State.busy_stops (s : State) : (s.busy).stops = s.stops := rfl
@[simp] theorem State.busy_prompts (s : State) : (s.busy).prompts = s.prompts := rfl
@[simp] theorem State.busy_mode (s : State) : (s.busy).mode = s.mode := rfl
@[simp] theorem State.busy_schedules (s : State) : (s.busy).schedules = s.schedules := rfl
@[simp] theorem State.busy_links (s : State) : (s.busy).links = s.links := rfl
@[simp] theorem State.busy_status (s : State) : (s.busy).status = s.status := rfl
@[simp] theorem State.busy_free (s : State) : (s.busy).free = s.free := rfl
@[simp] theorem State.busy_pending (s : State) : (s.busy).pending = s.pending := rfl

/-! ### freed -/

@[simp] theorem State.freed_loader (s : State) : (s.freed).loader = s.loader := rfl
@[simp] theorem State.freed_bus (s : State) : (s.freed).bus =
    { s.bus with busFree := true, ignoring := false, firstBit := none } := rfl
@[simp] theorem State.freed_cycle (s : State) : (s.freed).cycle = s.cycle := rfl
@[simp] theorem State.freed_cars (s : State) : (s.freed).cars = s.cars := rfl
@[simp] theorem State.freed_stops (s : State) : (s.freed).stops = s.stops := rfl
@[simp] theorem State.freed_prompts (s : State) : (s.freed).prompts = s.prompts := rfl
@[simp] theorem State.freed_mode (s : State) : (s.freed).mode = s.mode := rfl
@[simp] theorem State.freed_schedules (s : State) : (s.freed).schedules = s.schedules := rfl
@[simp] theorem State.freed_links (s : State) : (s.freed).links = s.links := rfl
@[simp] theorem State.freed_status (s : State) : (s.freed).status = s.status := rfl
@[simp] theorem State.freed_free (s : State) : (s.freed).free = s.free := rfl
@[simp] theorem State.freed_pending (s : State) : (s.freed).pending = s.pending := rfl

/-! ### changeIn -/

@[simp] theorem State.changeIn_loader (st : AttemptState) (f : TxFrame → TxFrame) (s : State) :
    (s.changeIn st f).loader = s.loader := rfl
@[simp] theorem State.changeIn_bus (st : AttemptState) (f : TxFrame → TxFrame) (s : State) :
    (s.changeIn st f).bus = { s.bus with queue := s.bus.queue.map (fun g => if g.state = st then f g else g) } := rfl
@[simp] theorem State.changeIn_cycle (st : AttemptState) (f : TxFrame → TxFrame) (s : State) :
    (s.changeIn st f).cycle = s.cycle := rfl
@[simp] theorem State.changeIn_cars (st : AttemptState) (f : TxFrame → TxFrame) (s : State) :
    (s.changeIn st f).cars = s.cars := rfl
@[simp] theorem State.changeIn_stops (st : AttemptState) (f : TxFrame → TxFrame) (s : State) :
    (s.changeIn st f).stops = s.stops := rfl
@[simp] theorem State.changeIn_prompts (st : AttemptState) (f : TxFrame → TxFrame) (s : State) :
    (s.changeIn st f).prompts = s.prompts := rfl
@[simp] theorem State.changeIn_mode (st : AttemptState) (f : TxFrame → TxFrame) (s : State) :
    (s.changeIn st f).mode = s.mode := rfl
@[simp] theorem State.changeIn_schedules (st : AttemptState) (f : TxFrame → TxFrame) (s : State) :
    (s.changeIn st f).schedules = s.schedules := rfl
@[simp] theorem State.changeIn_links (st : AttemptState) (f : TxFrame → TxFrame) (s : State) :
    (s.changeIn st f).links = s.links := rfl
@[simp] theorem State.changeIn_status (st : AttemptState) (f : TxFrame → TxFrame) (s : State) :
    (s.changeIn st f).status = s.status := rfl
@[simp] theorem State.changeIn_free (st : AttemptState) (f : TxFrame → TxFrame) (s : State) :
    (s.changeIn st f).free = s.free := rfl
@[simp] theorem State.changeIn_pending (st : AttemptState) (f : TxFrame → TxFrame) (s : State) :
    (s.changeIn st f).pending = s.pending := rfl

/-! ### removeIn -/

@[simp] theorem State.removeIn_loader (st : AttemptState) (s : State) : (s.removeIn st).loader = s.loader := rfl
@[simp] theorem State.removeIn_bus (st : AttemptState) (s : State) :
    (s.removeIn st).bus = { s.bus with queue := s.bus.queue.filter (fun g => g.state != st) } := rfl
@[simp] theorem State.removeIn_cycle (st : AttemptState) (s : State) : (s.removeIn st).cycle = s.cycle := rfl
@[simp] theorem State.removeIn_cars (st : AttemptState) (s : State) : (s.removeIn st).cars = s.cars := rfl
@[simp] theorem State.removeIn_stops (st : AttemptState) (s : State) : (s.removeIn st).stops = s.stops := rfl
@[simp] theorem State.removeIn_prompts (st : AttemptState) (s : State) : (s.removeIn st).prompts = s.prompts := rfl
@[simp] theorem State.removeIn_mode (st : AttemptState) (s : State) : (s.removeIn st).mode = s.mode := rfl
@[simp] theorem State.removeIn_schedules (st : AttemptState) (s : State) :
    (s.removeIn st).schedules = s.schedules := rfl
@[simp] theorem State.removeIn_links (st : AttemptState) (s : State) : (s.removeIn st).links = s.links := rfl
@[simp] theorem State.removeIn_status (st : AttemptState) (s : State) : (s.removeIn st).status = s.status := rfl
@[simp] theorem State.removeIn_free (st : AttemptState) (s : State) : (s.removeIn st).free = s.free := rfl
@[simp] theorem State.removeIn_pending (st : AttemptState) (s : State) : (s.removeIn st).pending = s.pending := rfl

/-! ### enqueue -/

@[simp] theorem State.enqueue_loader (p : TxPayload) (s : State) : (s.enqueue p).loader = s.loader := rfl
@[simp] theorem State.enqueue_bus (p : TxPayload) (s : State) :
    (s.enqueue p).bus = { s.bus with queue := insertFrame { payload := p, state := .queued, withdrawn := false, held := 0 } s.bus.queue } := rfl
@[simp] theorem State.enqueue_cycle (p : TxPayload) (s : State) : (s.enqueue p).cycle = s.cycle := rfl
@[simp] theorem State.enqueue_cars (p : TxPayload) (s : State) : (s.enqueue p).cars = s.cars := rfl
@[simp] theorem State.enqueue_stops (p : TxPayload) (s : State) : (s.enqueue p).stops = s.stops := rfl
@[simp] theorem State.enqueue_prompts (p : TxPayload) (s : State) : (s.enqueue p).prompts = s.prompts := rfl
@[simp] theorem State.enqueue_mode (p : TxPayload) (s : State) : (s.enqueue p).mode = s.mode := rfl
@[simp] theorem State.enqueue_schedules (p : TxPayload) (s : State) : (s.enqueue p).schedules = s.schedules := rfl
@[simp] theorem State.enqueue_links (p : TxPayload) (s : State) : (s.enqueue p).links = s.links := rfl
@[simp] theorem State.enqueue_status (p : TxPayload) (s : State) : (s.enqueue p).status = s.status := rfl
@[simp] theorem State.enqueue_free (p : TxPayload) (s : State) : (s.enqueue p).free = s.free := rfl
@[simp] theorem State.enqueue_pending (p : TxPayload) (s : State) : (s.enqueue p).pending = s.pending := rfl

/-! ### countN -/

@[simp] theorem State.countN_loader (k : Counter) (n : Nat) (s : State) : (s.countN k n).loader = s.loader := rfl
@[simp] theorem State.countN_bus (k : Counter) (n : Nat) (s : State) : (s.countN k n).bus = s.bus := rfl
@[simp] theorem State.countN_cycle (k : Counter) (n : Nat) (s : State) : (s.countN k n).cycle = s.cycle := rfl
@[simp] theorem State.countN_cars (k : Counter) (n : Nat) (s : State) : (s.countN k n).cars = s.cars := rfl
@[simp] theorem State.countN_stops (k : Counter) (n : Nat) (s : State) : (s.countN k n).stops = s.stops := rfl
@[simp] theorem State.countN_prompts (k : Counter) (n : Nat) (s : State) : (s.countN k n).prompts = s.prompts := rfl
@[simp] theorem State.countN_mode (k : Counter) (n : Nat) (s : State) : (s.countN k n).mode = s.mode := rfl
@[simp] theorem State.countN_schedules (k : Counter) (n : Nat) (s : State) :
    (s.countN k n).schedules = s.schedules := rfl
@[simp] theorem State.countN_links (k : Counter) (n : Nat) (s : State) : (s.countN k n).links = s.links := rfl
@[simp] theorem State.countN_status (k : Counter) (n : Nat) (s : State) :
    (s.countN k n).status = { s.status with counters := s.status.counters.set k (min Config.counterMax (s.status.counters.get k + n)) } := rfl
@[simp] theorem State.countN_free (k : Counter) (n : Nat) (s : State) : (s.countN k n).free = s.free := rfl
@[simp] theorem State.countN_pending (k : Counter) (n : Nat) (s : State) : (s.countN k n).pending = s.pending := rfl

/-! ### count -/

@[simp] theorem State.count_loader (k : Counter) (s : State) : (s.count k).loader = s.loader := rfl
@[simp] theorem State.count_bus (k : Counter) (s : State) : (s.count k).bus = s.bus := rfl
@[simp] theorem State.count_cycle (k : Counter) (s : State) : (s.count k).cycle = s.cycle := rfl
@[simp] theorem State.count_cars (k : Counter) (s : State) : (s.count k).cars = s.cars := rfl
@[simp] theorem State.count_stops (k : Counter) (s : State) : (s.count k).stops = s.stops := rfl
@[simp] theorem State.count_prompts (k : Counter) (s : State) : (s.count k).prompts = s.prompts := rfl
@[simp] theorem State.count_mode (k : Counter) (s : State) : (s.count k).mode = s.mode := rfl
@[simp] theorem State.count_schedules (k : Counter) (s : State) : (s.count k).schedules = s.schedules := rfl
@[simp] theorem State.count_links (k : Counter) (s : State) : (s.count k).links = s.links := rfl
@[simp] theorem State.count_status (k : Counter) (s : State) :
    (s.count k).status = { s.status with counters := s.status.counters.set k (min Config.counterMax (s.status.counters.get k + 1)) } := rfl
@[simp] theorem State.count_free (k : Counter) (s : State) : (s.count k).free = s.free := rfl
@[simp] theorem State.count_pending (k : Counter) (s : State) : (s.count k).pending = s.pending := rfl

/-! ### advanceClock -/

@[simp] theorem State.advanceClock_loader (s : State) : (s.advanceClock).loader = s.loader := rfl
@[simp] theorem State.advanceClock_bus (s : State) : (s.advanceClock).bus = s.bus := rfl
@[simp] theorem State.advanceClock_cycle (s : State) :
    (s.advanceClock).cycle = { s.cycle with clock := s.cycle.clock + 1 } := rfl
@[simp] theorem State.advanceClock_cars (s : State) : (s.advanceClock).cars = s.cars := rfl
@[simp] theorem State.advanceClock_stops (s : State) : (s.advanceClock).stops = s.stops := rfl
@[simp] theorem State.advanceClock_prompts (s : State) : (s.advanceClock).prompts = s.prompts := rfl
@[simp] theorem State.advanceClock_mode (s : State) : (s.advanceClock).mode = s.mode := rfl
@[simp] theorem State.advanceClock_schedules (s : State) : (s.advanceClock).schedules = s.schedules := rfl
@[simp] theorem State.advanceClock_links (s : State) : (s.advanceClock).links = s.links := rfl
@[simp] theorem State.advanceClock_status (s : State) : (s.advanceClock).status = s.status := rfl
@[simp] theorem State.advanceClock_free (s : State) : (s.advanceClock).free = s.free := rfl
@[simp] theorem State.advanceClock_pending (s : State) : (s.advanceClock).pending = s.pending := rfl

/-! ### raise -/

@[simp] theorem State.raise_loader (i : ExcItem) (s : State) :
    (s.raise i).loader = s.loader := rfl
@[simp] theorem State.raise_bus (i : ExcItem) (s : State) :
    (s.raise i).bus = { s.bus with queue := s.bus.queue.map (TxFrame.dropItem i) } := rfl
@[simp] theorem State.raise_cycle (i : ExcItem) (s : State) :
    (s.raise i).cycle = s.cycle := rfl
@[simp] theorem State.raise_cars (i : ExcItem) (s : State) :
    (s.raise i).cars = s.cars := rfl
@[simp] theorem State.raise_stops (i : ExcItem) (s : State) :
    (s.raise i).stops = s.stops := rfl
@[simp] theorem State.raise_prompts (i : ExcItem) (s : State) :
    (s.raise i).prompts = s.prompts := rfl
@[simp] theorem State.raise_mode (i : ExcItem) (s : State) :
    (s.raise i).mode = s.mode := rfl
@[simp] theorem State.raise_schedules (i : ExcItem) (s : State) :
    (s.raise i).schedules = s.schedules := rfl
@[simp] theorem State.raise_links (i : ExcItem) (s : State) :
    (s.raise i).links = s.links := rfl
@[simp] theorem State.raise_status (i : ExcItem) (s : State) :
    (s.raise i).status = { s.status with exceptions := s.status.exceptions.add i } := rfl
@[simp] theorem State.raise_free (i : ExcItem) (s : State) :
    (s.raise i).free = s.free := rfl
@[simp] theorem State.raise_pending (i : ExcItem) (s : State) :
    (s.raise i).pending = s.pending := rfl

end Sys2Proof.Machine
end

