-- ==== Sys2Proof/Laws/TxQueue.lean ====
section
/-! SUPPORT. The transmit queue: what requests, withdrawals and attempts do to it, and that they keep it within the rules of
chapter 1. -/

namespace Sys2Proof.Machine

/-! ### Queues -/

/-- Order and slots of a transmit queue. -/
structure TxQueueOk (q : List TxFrame) : Prop where
  order : ordered q
  shared : frameCount TxFrame.shared q ≤ 7
  tempo : frameCount TxFrame.isTempo q ≤ 1
  onBus : frameCount TxFrame.onBus q ≤ 1

theorem State.txOk.queue {s : State} (h : s.txOk) : TxQueueOk s.bus.queue := ⟨h.order, h.shared, h.tempo, h.onBus⟩

theorem TxQueueOk.nil : TxQueueOk [] := ⟨trivial, Nat.zero_le _, Nat.zero_le _, Nat.zero_le _⟩

theorem frameCount_sublist {p : TxFrame → Bool} {q r : List TxFrame} (h : q.Sublist r) :
    frameCount p q ≤ frameCount p r := (h.filter p).length_le

theorem ordered_sublist {q r : List TxFrame} (hs : q.Sublist r) (h : ordered r) : ordered q := by
  induction hs with
  | slnil => exact h
  | cons a _ ih => exact ih h.2
  | cons_cons a hs ih => exact ⟨fun g hg => h.1 g (hs.mem hg), ih h.2⟩

theorem TxQueueOk.sublist {q r : List TxFrame} (h : TxQueueOk r) (hs : q.Sublist r) : TxQueueOk q :=
  ⟨ordered_sublist hs h.order, Nat.le_trans (frameCount_sublist hs) h.shared,
   Nat.le_trans (frameCount_sublist hs) h.tempo, Nat.le_trans (frameCount_sublist hs) h.onBus⟩

theorem frameCount_cons (p : TxFrame → Bool) (f : TxFrame) (q : List TxFrame) :
    frameCount p (f :: q) = frameCount p q + (if p f = true then 1 else 0) := by
  unfold frameCount
  rw [List.filter_cons]
  split <;> rfl

theorem frameCount_map {p : TxFrame → Bool} {f : TxFrame → TxFrame} (hp : ∀ g, p (f g) = p g) (q : List TxFrame) :
    frameCount p (q.map f) = frameCount p q := by
  induction q with
  | nil => rfl
  | cons g q ih => rw [List.map_cons, frameCount_cons, frameCount_cons, hp, ih]

theorem frameCount_map_le {p : TxFrame → Bool} {f : TxFrame → TxFrame} (hp : ∀ g, p (f g) = true → p g = true)
    (q : List TxFrame) : frameCount p (q.map f) ≤ frameCount p q := by
  induction q with
  | nil => exact Nat.le_refl _
  | cons g q ih =>
    rw [List.map_cons, frameCount_cons, frameCount_cons]
    have := hp g
    split <;> split <;> simp_all <;> omega

theorem frameCount_pos {p : TxFrame → Bool} {q : List TxFrame} {f : TxFrame} (hf : f ∈ q) (hp : p f = true) :
    1 ≤ frameCount p q := List.length_pos_of_mem (List.mem_filter.mpr ⟨hf, hp⟩)

theorem frameCount_zero {p : TxFrame → Bool} {q : List TxFrame} (h : ∀ g ∈ q, p g = false) : frameCount p q = 0 := by
  unfold frameCount
  rw [List.length_eq_zero_iff, List.filter_eq_nil_iff]
  intro g hg
  rw [h g hg]
  decide

theorem exists_of_frameCount {p : TxFrame → Bool} {q : List TxFrame} (h : 1 ≤ frameCount p q) :
    ∃ f ∈ q, p f = true := by
  obtain ⟨f, hf⟩ := List.exists_mem_of_length_pos h
  exact ⟨f, List.mem_filter.mp hf⟩

theorem ordered_map {f : TxFrame → TxFrame} (hf : ∀ g, (f g).payload.header = g.payload.header) {q : List TxFrame}
    (h : ordered q) : ordered (q.map f) := by
  induction q with
  | nil => trivial
  | cons g q ih =>
    refine ⟨fun x hx => ?_, ih h.2⟩
    obtain ⟨y, hy, rfl⟩ := List.mem_map.mp hx
    rw [hf, hf]
    exact h.1 y hy

/-- A change of frames that keeps headers and puts none on the bus. -/
theorem TxQueueOk.map {q : List TxFrame} (h : TxQueueOk q) {f : TxFrame → TxFrame}
    (hf : ∀ g, (f g).payload.header = g.payload.header) (hb : ∀ g, (f g).onBus = true → g.onBus = true) :
    TxQueueOk (q.map f) := by
  refine ⟨ordered_map hf h.order, ?_, ?_, Nat.le_trans (frameCount_map_le hb q) h.onBus⟩
  · rw [frameCount_map (fun g => by unfold TxFrame.shared; rw [hf])]
    exact h.shared
  · rw [frameCount_map (fun g => by unfold TxFrame.isTempo; rw [hf])]
    exact h.tempo

theorem frameCount_tempo_map {f : TxFrame → TxFrame} (hf : ∀ g, (f g).payload.header = g.payload.header)
    (q : List TxFrame) : frameCount TxFrame.isTempo (q.map f) = frameCount TxFrame.isTempo q :=
  frameCount_map (fun g => by unfold TxFrame.isTempo; rw [hf]) q

theorem frameCount_insert (p : TxFrame → Bool) (f : TxFrame) (q : List TxFrame) :
    frameCount p (insertFrame f q) = frameCount p q + (if p f = true then 1 else 0) := by
  induction q with
  | nil => exact frameCount_cons p f []
  | cons g q ih =>
    unfold insertFrame
    split
    · rw [frameCount_cons, frameCount_cons, ih]
      omega
    · rw [frameCount_cons]

theorem mem_insertFrame {f x : TxFrame} {q : List TxFrame} : x ∈ insertFrame f q ↔ x = f ∨ x ∈ q := by
  induction q with
  | nil => simp [insertFrame]
  | cons g q ih =>
    unfold insertFrame
    split
    · rw [List.mem_cons, List.mem_cons, ih]
      constructor
      · rintro (h | h | h)
        · exact Or.inr (Or.inl h)
        · exact Or.inl h
        · exact Or.inr (Or.inr h)
      · rintro (h | h | h)
        · exact Or.inr (Or.inl h)
        · exact Or.inl h
        · exact Or.inr (Or.inr h)
    · rw [List.mem_cons]

theorem ordered_insert (f : TxFrame) {q : List TxFrame} (h : ordered q) : ordered (insertFrame f q) := by
  induction q with
  | nil => exact ⟨fun _ h => absurd h List.not_mem_nil, trivial⟩
  | cons g q ih =>
    unfold insertFrame
    split
    · rename_i hle
      refine ⟨fun x hx => ?_, ih h.2⟩
      rcases mem_insertFrame.mp hx with e | hx
      · exact e ▸ hle
      · exact h.1 x hx
    · rename_i hlt
      refine ⟨fun x hx => ?_, h⟩
      rcases List.mem_cons.mp hx with e | hx
      · rw [e]
        omega
      · have := h.1 x hx
        omega

/-- A new frame joins a queue that has a slot for it. -/
theorem TxQueueOk.insert {q : List TxFrame} (h : TxQueueOk q) (p : TxPayload)
    (hs : p.header ≠ 72 → frameCount TxFrame.shared q < 7) (ht : p.header = 72 → frameCount TxFrame.isTempo q = 0) :
    TxQueueOk (insertFrame (newFrame p) q) := by
  refine ⟨ordered_insert _ h.order, ?_, ?_, ?_⟩
  · rw [frameCount_insert]
    have := h.shared
    split
    · rename_i e
      have : p.header ≠ 72 := by simpa [TxFrame.shared, newFrame] using e
      have := hs this
      omega
    · omega
  · rw [frameCount_insert]
    have := h.tempo
    split
    · rename_i e
      have : p.header = 72 := by simpa [TxFrame.isTempo, newFrame] using e
      have := ht this
      omega
    · omega
  · rw [frameCount_insert]
    exact h.onBus

/-! ### Headers -/

theorem dropItem_header (i : ExcItem) (f : TxFrame) : (f.dropItem i).payload.header = f.payload.header := by
  unfold TxFrame.dropItem
  split
  · rename_i h
    rw [h]
    rfl
  · rfl
  · rfl
  · rfl

theorem dropItem_state (i : ExcItem) (f : TxFrame) : (f.dropItem i).state = f.state := by
  unfold TxFrame.dropItem
  split <;> rfl

theorem coalesce_state (f : TxFrame) (p : TxPayload) : (f.coalesce p).state = f.state := by
  unfold TxFrame.coalesce
  repeat' split
  all_goals rfl

/-- A coalesced frame keeps its header. -/
theorem coalesce_header {f : TxFrame} {p : TxPayload} (h : f.takes p = true) :
    (f.coalesce p).payload.header = f.payload.header := by
  unfold TxFrame.takes at h
  unfold TxFrame.coalesce
  obtain ⟨fp, fs, fw, fh⟩ := f
  cases p <;> cases fp <;> dsimp only at h ⊢
  all_goals first
    | rfl
    | (split <;> rfl)
    | simp at h

theorem addHeld_spec (f : TxFrame) : f.addHeld.payload.header = f.payload.header ∧ f.addHeld.state = f.state := by
  unfold TxFrame.addHeld
  split
  · rename_i h
    rw [h]
    exact ⟨rfl, rfl⟩
  · exact ⟨rfl, rfl⟩
  · exact ⟨rfl, rfl⟩
  · exact ⟨rfl, rfl⟩

/-! ### Requests (R7) -/

/-- A request: the queue with the new frame, a frame of it changed in place, or as it was with an item dropped from its
snapshots. -/
theorem request_spec (p : TxPayload) (s : State) :
    ((s.request p).1 = .accepted ∧ s.bus.state = .active ∧
      (s.request p).2 = { s with bus := { s.bus with queue := insertFrame (newFrame p) s.bus.queue } } ∧
      (p.header ≠ 72 → frameCount TxFrame.shared s.bus.queue < 7) ∧
      (p.header = 72 → frameCount TxFrame.isTempo s.bus.queue = 0)) ∨
    ((s.request p).1 = .coalesced ∧ p.header ≠ 72 ∧ s.bus.state = .active ∧
      (s.request p).2 = { s with bus := { s.bus with
        queue := s.bus.queue.map (fun f => if f.takes p then f.coalesce p else f) } }) ∨
    ((s.request p).1 = .dropped ∧
      ((s.request p).2 = s ∨ (s.request p).2 = s.count .framesDropped ∨
        (s.request p).2 = (s.count .framesDropped).raise .queueOverflow)) := by
  unfold State.request
  cases hb : s.bus.state with
  | listenOnly =>
    rw [if_pos rfl]
    refine Or.inr (Or.inr ⟨rfl, ?_⟩)
    dsimp only
    by_cases e : p.header = 72
    · rw [if_pos e]
      exact Or.inl rfl
    · rw [if_neg e]
      exact Or.inr (Or.inl rfl)
  | active =>
    rw [if_neg (by decide)]
    split
    · exact Or.inr (Or.inr ⟨rfl, Or.inr (Or.inl rfl)⟩)
    · split
      · rename_i h72
        split
        · exact Or.inr (Or.inr ⟨rfl, Or.inl rfl⟩)
        · rename_i hn
          refine Or.inl ⟨rfl, rfl, rfl, fun x => absurd h72 x, fun _ => frameCount_zero (fun g hg => ?_)⟩
          have : s.bus.queue.any (fun f => f.payload.header == 72) = false := by simpa using hn
          have := List.any_eq_false.mp this g hg
          unfold TxFrame.isTempo
          simpa using this
      · rename_i h72
        split
        · exact Or.inr (Or.inl ⟨rfl, h72, rfl, rfl⟩)
        · split
          · exact Or.inr (Or.inr ⟨rfl, Or.inr (Or.inr rfl)⟩)
          · rename_i hs
            refine Or.inl ⟨rfl, rfl, rfl, fun _ => ?_, fun x => absurd x h72⟩
            have : ¬ 7 ≤ frameCount TxFrame.shared s.bus.queue := hs
            omega

/-- The transmit queue of a part out of LOADING. -/
def State.txRunning (s : State) : Prop := s.txOk ∧ s.loader.state ≠ .loading

/-- A change of the queue in a part out of LOADING. -/
theorem txRunning_requeue {s : State} (h : s.txRunning) {q : List TxFrame} (hq : TxQueueOk q)
    (hl : s.bus.state = .listenOnly → q = [])
    (ht : frameCount TxFrame.isTempo q = frameCount TxFrame.isTempo s.bus.queue) :
    State.txRunning { s with bus := { s.bus with queue := q } } :=
  ⟨{ order := hq.order, shared := hq.shared, tempo := hq.tempo, onBus := hq.onBus, silent := hl,
     loading := fun e => absurd e h.2,
     flag := h.1.flag.trans (by
       show frameCount TxFrame.isTempo s.bus.queue = 1 ↔ frameCount TxFrame.isTempo q = 1
       rw [ht]),
     count := h.1.count }, h.2⟩

theorem raise_txOk (i : ExcItem) (s : State) (h : s.txOk) : (s.raise i).txOk := by
  have hq := h.queue.map (dropItem_header i) (fun g => by unfold TxFrame.onBus; rw [dropItem_state]; exact id)
  exact
    { order := hq.order, shared := hq.shared, tempo := hq.tempo, onBus := hq.onBus,
      silent := fun e => by
        show s.bus.queue.map _ = []
        rw [h.silent e]
        rfl,
      loading := fun e => by
        show s.bus.queue.map _ = []
        rw [h.loading e]
        rfl,
      flag := h.flag.trans (by
        show _ ↔ frameCount TxFrame.isTempo (s.bus.queue.map _) = 1
        rw [frameCount_tempo_map (dropItem_header i)]),
      count := h.count }

theorem raise_txRunning (i : ExcItem) (s : State) (h : s.txRunning) : (s.raise i).txRunning := ⟨raise_txOk i s h.1, h.2⟩

theorem countN_txRunning (k : Counter) (n : Nat) (s : State) (h : s.txRunning) : (s.countN k n).txRunning :=
  ⟨{ h.1 with }, h.2⟩

/-- A request for a frame other than TEMPO. -/
theorem request_txRunning (p : TxPayload) (hp : p.header ≠ 72) (s : State) (h : s.txRunning) :
    (s.request p).2.txRunning := by
  rcases request_spec p s with ⟨_, ha, e, hs, _⟩ | ⟨_, _, ha, e⟩ | ⟨_, e | e | e⟩
  · rw [e]
    refine txRunning_requeue h (h.1.queue.insert p hs (fun x => absurd x hp)) (fun x => ?_) ?_
    · rw [ha] at x
      cases x
    · rw [frameCount_insert]
      have : ¬ (newFrame p).isTempo = true := by simpa [TxFrame.isTempo, newFrame] using hp
      rw [if_neg this]
      rfl
  · rw [e]
    have hf : ∀ g : TxFrame, (if g.takes p then g.coalesce p else g).payload.header = g.payload.header := fun g => by
      split
      · rename_i ht
        exact coalesce_header ht
      · rfl
    refine txRunning_requeue h (h.1.queue.map hf (fun g => ?_)) (fun x => ?_) (frameCount_tempo_map hf _)
    · unfold TxFrame.onBus
      split
      · rw [coalesce_state]
        exact id
      · exact id
    · rw [ha] at x
      cases x
  · rw [e]
    exact h
  · rw [e]
    exact countN_txRunning _ _ _ h
  · rw [e]
    exact raise_txRunning _ _ (countN_txRunning _ _ _ h)

/-- Every operation of a car state change event, and a cycle start, keep the transmit queue. -/
theorem txRunning_tracker : TrackerClosed State.txRunning :=
  { sched := fun _ _ _ h => ⟨{ h.1 with }, h.2⟩, hand := fun _ _ _ h => ⟨{ h.1 with }, h.2⟩,
    cancel := fun _ _ _ h => ⟨{ h.1 with }, h.2⟩, quiet := fun _ _ _ h => ⟨{ h.1 with }, h.2⟩,
    lamp := fun _ _ _ h => ⟨{ h.1 with }, h.2⟩, lanterns := fun _ _ h => ⟨{ h.1 with }, h.2⟩,
    decks := fun _ _ _ h => ⟨{ h.1 with }, h.2⟩, free := fun _ _ h => ⟨{ h.1 with }, h.2⟩,
    levels := fun _ _ h => ⟨{ h.1 with }, h.2⟩, poolAfter := fun _ _ _ _ _ h => ⟨{ h.1 with }, h.2⟩,
    panelLoad := fun n l k s h => request_txRunning _ (by simp [TxPayload.header]) s h,
    count := countN_txRunning, raise := raise_txRunning, store := fun _ _ _ h => ⟨{ h.1 with }, h.2⟩,
    base := fun _ _ _ _ h => ⟨{ h.1 with }, h.2⟩ }

/-! ### Owners told (R10, R14) -/

theorem tellWithdrawn_bus (f : TxFrame) (s : State) : (s.tellWithdrawn f).bus = s.bus ∧
    (s.tellWithdrawn f).loader = s.loader ∧
    (s.tellWithdrawn f).cycle = { s.cycle with pendingTempo := s.cycle.pendingTempo && !f.isTempo } := by
  unfold State.tellWithdrawn TxFrame.isTempo
  split <;> rename_i hp <;> rw [hp] <;> simp [TxPayload.header]

theorem tellDropped_bus (f : TxFrame) (s : State) : (s.tellDropped f).bus = s.bus ∧
    (s.tellDropped f).loader = s.loader ∧
    (s.tellDropped f).cycle = { s.cycle with pendingTempo := s.cycle.pendingTempo && !f.isTempo } := by
  unfold State.tellDropped TxFrame.isTempo
  split <;> rename_i hp <;> rw [hp] <;> simp [TxPayload.header]
  all_goals split <;> simp

/-- Telling several frames' owners clears the pending-tempo flag when a TEMPO is among them. -/
theorem tellAll_bus (tell : TxFrame → State → State)
    (h : ∀ f s, (tell f s).bus = s.bus ∧ (tell f s).loader = s.loader ∧
      (tell f s).cycle = { s.cycle with pendingTempo := s.cycle.pendingTempo && !f.isTempo })
    (l : List TxFrame) (s : State) :
    (l.foldl (fun s f => tell f s) s).bus = s.bus ∧ (l.foldl (fun s f => tell f s) s).loader = s.loader ∧
    (l.foldl (fun s f => tell f s) s).cycle =
      { s.cycle with pendingTempo := s.cycle.pendingTempo && !l.any TxFrame.isTempo } := by
  induction l generalizing s with
  | nil => simp
  | cons f l ih =>
    obtain ⟨h1, h2, h3⟩ := ih (tell f s)
    obtain ⟨g1, g2, g3⟩ := h f s
    refine ⟨h1.trans g1, h2.trans g2, h3.trans ?_⟩
    rw [g3, List.any_cons, Bool.not_or, Bool.and_assoc]

/-- Bus, loader and cycle after a withdrawal. -/
theorem withdrawFrames_bus (p : TxFrame → Bool) (s : State) :
    (s.withdrawFrames p).bus = { s.bus with
      queue := (s.bus.queue.filter (fun f => !(p f && f.state == .queued))).map
        (fun f => if p f then { f with withdrawn := true } else f) } ∧
    (s.withdrawFrames p).loader = s.loader ∧
    (s.withdrawFrames p).cycle = { s.cycle with
      pendingTempo := s.cycle.pendingTempo &&
        !(s.bus.queue.filter (fun f => p f && f.state == .queued)).any TxFrame.isTempo } :=
  tellAll_bus (fun f s => s.tellWithdrawn f) tellWithdrawn_bus _ _

/-- Bus, loader and cycle after an entry to LISTEN_ONLY (R14). -/
theorem enterListenOnly_bus (s : State) :
    s.enterListenOnly.bus = { s.bus with queue := [], state := .listenOnly } ∧ s.enterListenOnly.loader = s.loader ∧
    s.enterListenOnly.cycle =
      { s.cycle with pendingTempo := s.cycle.pendingTempo && !s.bus.queue.any TxFrame.isTempo } := by
  obtain ⟨h1, h2, h3⟩ := tellAll_bus (fun f s => s.tellDropped f) tellDropped_bus s.bus.queue
    (({ s with bus := { s.bus with queue := [], state := .listenOnly } }).countN .framesDropped s.bus.queue.length)
  refine ⟨?_, h2, h3⟩
  unfold State.enterListenOnly
  dsimp only [State.raise]
  rw [h1]
  rfl

/-! ### The invariant under what the bus station unit does -/

theorem txOk_of_parts {s t : State} (h : s.txOk) (hb : t.bus = s.bus) (hl : t.loader.state = s.loader.state)
    (hc : t.cycle.pendingTempo = s.cycle.pendingTempo) : t.txOk :=
  { order := by rw [hb]; exact h.order, shared := by rw [hb]; exact h.shared, tempo := by rw [hb]; exact h.tempo,
    onBus := by rw [hb]; exact h.onBus, silent := by rw [hb]; exact h.silent, loading := by rw [hb, hl]; exact h.loading,
    flag := by rw [hb, hc]; exact h.flag, count := by rw [hb]; exact h.count }

theorem txRunning_of_parts {s t : State} (h : s.txRunning) (hb : t.bus = s.bus) (hl : t.loader.state = s.loader.state)
    (hc : t.cycle.pendingTempo = s.cycle.pendingTempo) : t.txRunning :=
  ⟨txOk_of_parts h.1 hb hl hc, by rw [hl]; exact h.2⟩

/-- With no TEMPO in the queue the flag is clear. -/
theorem txOk_noTempo {s : State} (h : s.txOk) (e : frameCount TxFrame.isTempo s.bus.queue = 0) :
    s.cycle.pendingTempo = false := by
  cases hp : s.cycle.pendingTempo with
  | false => rfl
  | true =>
    have := h.flag.mp hp
    omega

/-- A failure count within its range and an empty queue. -/
theorem txOk_empty {s : State} (hq : s.bus.queue = []) (hc : s.bus.failCount ≤ 255) (hp : s.cycle.pendingTempo = false) :
    s.txOk := by
  refine ⟨?_, ?_, ?_, ?_, fun _ => hq, fun _ => hq, ?_, hc⟩ <;> rw [hq]
  · trivial
  · exact Nat.zero_le _
  · exact Nat.zero_le _
  · exact Nat.zero_le _
  · rw [hp]
    constructor <;> intro x <;> cases x

/-- After a discard of the whole queue the flag is clear. -/
theorem discard_flag {s : State} (h : s.cycle.pendingTempo = true → frameCount TxFrame.isTempo s.bus.queue = 1) :
    (s.cycle.pendingTempo && !s.bus.queue.any TxFrame.isTempo) = false := by
  cases hp : s.cycle.pendingTempo with
  | false => rfl
  | true =>
    obtain ⟨f, hf, ht⟩ := exists_of_frameCount (Nat.le_of_eq (h hp).symm)
    have : s.bus.queue.any TxFrame.isTempo = true := List.any_eq_true.mpr ⟨f, hf, ht⟩
    rw [this]
    rfl

/-- An entry to LISTEN_ONLY with a failure count in range. -/
theorem enterListenOnly_txRunning {s : State} (h : s.txRunning) : s.enterListenOnly.txRunning := by
  obtain ⟨h1, h2, h3⟩ := enterListenOnly_bus s
  refine ⟨txOk_empty (by rw [h1]) (by rw [h1]; exact h.1.count) ?_, by rw [h2]; exact h.2⟩
  rw [h3]
  exact discard_flag h.1.flag.mp

theorem setFail_txRunning {s : State} (h : s.txRunning) {n : Nat} (hn : n ≤ 255) :
    State.txRunning { s with bus := { s.bus with failCount := n } } :=
  ⟨{ h.1 with count := hn }, h.2⟩

/-- The failure count after a completed attempt, whose frame is no longer on the bus. -/
theorem setCompleted_txRunning {s : State} (h : s.txRunning) {n : Nat} (hn : n ≤ 255) :
    State.txRunning { s with bus := { s.bus with failCount := n, firstBit := none } } :=
  ⟨{ h.1 with count := hn }, h.2⟩

theorem clash_txRunning (s : State) (h : s.txRunning) : s.clash.txRunning := by
  unfold State.clash
  extract_lets t b u
  have hu : u.txRunning := setFail_txRunning (s := t) (raise_txRunning _ s h) (n := Config.listenOnlyAt)
    (Nat.le_of_ble_eq_true rfl)
  split
  · exact enterListenOnly_txRunning hu
  · exact hu

/-- At most one TEMPO stands in the queue, so that a TEMPO of the queue is the only one. -/
theorem tempo_count_filter {q : List TxFrame} (h : frameCount TxFrame.isTempo q ≤ 1) (p : TxFrame → Bool) :
    (∃ f ∈ q, f.isTempo = true ∧ p f = false) → frameCount TxFrame.isTempo (q.filter p) = 0 := by
  rintro ⟨f, hf, ht, hp⟩
  have hsum : frameCount TxFrame.isTempo (q.filter p) + frameCount TxFrame.isTempo (q.filter (fun x => !p x)) =
      frameCount TxFrame.isTempo q := by
    clear h hf
    induction q with
    | nil => rfl
    | cons g q ih =>
      rw [List.filter_cons, List.filter_cons, frameCount_cons]
      cases p g <;> simp only [Bool.not_true, Bool.not_false, if_true, if_false, Bool.false_eq_true, frameCount_cons] <;>
        omega
  have : 1 ≤ frameCount TxFrame.isTempo (q.filter (fun x => !p x)) :=
    frameCount_pos (List.mem_filter.mpr ⟨hf, by rw [hp]; rfl⟩) ht
  omega

/-- The count of TEMPO frames does not change when none of them is removed. -/
theorem tempo_count_kept {q : List TxFrame} {p : TxFrame → Bool} (h : ∀ f ∈ q, f.isTempo = true → p f = true) :
    frameCount TxFrame.isTempo (q.filter p) = frameCount TxFrame.isTempo q := by
  induction q with
  | nil => rfl
  | cons g q ih =>
    have ih := ih (fun f hf => h f (List.mem_cons_of_mem _ hf))
    rw [List.filter_cons, frameCount_cons]
    split
    · rw [frameCount_cons, ih]
    · rename_i hp
      have : ¬ g.isTempo = true := fun x => hp (h g List.mem_cons_self x)
      rw [if_neg this, ih]
      rfl

/-- Removing frames of the queue keeps the invariant when the flag clears exactly when a TEMPO goes. -/
theorem remove_txRunning {s t : State} (h : s.txRunning) (p : TxFrame → Bool)
    (hq : t.bus = { s.bus with queue := s.bus.queue.filter p }) (hl : t.loader = s.loader)
    (hc : t.cycle.pendingTempo =
      (s.cycle.pendingTempo && !s.bus.queue.any (fun f => f.isTempo && !p f))) : t.txRunning := by
  have ok := h.1.queue.sublist (List.filter_sublist (p := p) (l := s.bus.queue))
  refine ⟨⟨by rw [hq]; exact ok.order, by rw [hq]; exact ok.shared, by rw [hq]; exact ok.tempo, by rw [hq]; exact ok.onBus,
    fun e => ?_, fun e => ?_, ?_, by rw [hq]; exact h.1.count⟩, by rw [hl]; exact h.2⟩
  · rw [hq] at e ⊢
    show s.bus.queue.filter p = []
    rw [h.1.silent e]
    rfl
  · rw [hl] at e
    exact absurd e h.2
  · rw [hc, hq]
    show _ ↔ frameCount TxFrame.isTempo (s.bus.queue.filter p) = 1
    by_cases hx : ∃ f ∈ s.bus.queue, f.isTempo = true ∧ p f = false
    · rw [tempo_count_filter h.1.tempo p hx]
      obtain ⟨f, hf, ht, hp⟩ := hx
      have : s.bus.queue.any (fun f => f.isTempo && !p f) = true :=
        List.any_eq_true.mpr ⟨f, hf, by rw [ht, hp]; rfl⟩
      rw [this]
      simp
    · have hk : ∀ f ∈ s.bus.queue, f.isTempo = true → p f = true := fun f hf ht => by
        cases hp : p f with
        | true => rfl
        | false => exact absurd ⟨f, hf, ht, hp⟩ hx
      have : s.bus.queue.any (fun f => f.isTempo && !p f) = false := by
        rw [List.any_eq_false]
        intro f hf hb
        rw [Bool.and_eq_true] at hb
        rw [hk f hf hb.1] at hb
        exact absurd hb.2 (by decide)
      rw [this, tempo_count_kept hk]
      simpa using h.1.flag

/-- Marking frames changes neither headers nor attempt states. -/
theorem mark_txRunning {s t : State} (h : s.txRunning) (f : TxFrame → TxFrame)
    (hf : ∀ g, (f g).payload.header = g.payload.header) (hb : ∀ g, (f g).onBus = true → g.onBus = true)
    (hq : t.bus = { s.bus with queue := s.bus.queue.map f }) (hl : t.loader = s.loader)
    (hc : t.cycle.pendingTempo = s.cycle.pendingTempo) : t.txRunning := by
  have h1 := txRunning_requeue h (h.1.queue.map hf hb) (fun e => by rw [h.1.silent e]; rfl) (frameCount_tempo_map hf _)
  exact txRunning_of_parts h1 hq (by rw [hl]) hc

theorem withdrawFrames_txRunning (p : TxFrame → Bool) (s : State) (h : s.txRunning) : (s.withdrawFrames p).txRunning := by
  obtain ⟨h1, h2, h3⟩ := withdrawFrames_bus p s
  have hr := remove_txRunning (t := { s with
      bus := { s.bus with queue := s.bus.queue.filter (fun f => !(p f && f.state == .queued)) },
      cycle := (s.withdrawFrames p).cycle }) h (fun f => !(p f && f.state == .queued)) rfl rfl (by
    show (s.withdrawFrames p).cycle.pendingTempo = _
    rw [h3]
    show (s.cycle.pendingTempo && !(s.bus.queue.filter _).any TxFrame.isTempo) = _
    rw [List.any_filter]
    congr 3
    funext f
    rw [Bool.not_not, Bool.and_comm])
  refine mark_txRunning hr (fun f => if p f then { f with withdrawn := true } else f) (fun g => ?_) (fun g => ?_) h1 h2 rfl
  · split <;> rfl
  · split <;> exact id

/-! ### Attempts (R11 to R13) -/

/-- One frame at most is on the bus. -/
theorem onBus_unique {q : List TxFrame} (h : frameCount TxFrame.onBus q ≤ 1) {f g : TxFrame} (hf : f ∈ q) (hg : g ∈ q)
    (bf : f.onBus = true) (bg : g.onBus = true) : f = g := by
  have h1 := List.mem_filter.mpr ⟨hf, bf⟩
  have h2 := List.mem_filter.mpr ⟨hg, bg⟩
  unfold frameCount at h
  generalize q.filter TxFrame.onBus = l at h h1 h2
  match l, h with
  | [], _ => exact absurd h1 List.not_mem_nil
  | [x], _ =>
    rw [List.mem_singleton] at h1 h2
    rw [h1, h2]
  | _ :: _ :: _, h => simp at h

theorem frameIn_spec {s : State} {st : AttemptState} {f : TxFrame} (h : s.frameIn st = some f) :
    f ∈ s.bus.queue ∧ f.state = st := by
  unfold State.frameIn at h
  refine ⟨List.mem_of_find?_eq_some h, ?_⟩
  have := List.find?_some h
  simpa using this

theorem frameIn_none {s : State} {st : AttemptState} (h : s.frameIn st = none) : ∀ f ∈ s.bus.queue, f.state ≠ st := by
  intro f hf
  unfold State.frameIn at h
  have := List.find?_eq_none.mp h f hf
  simpa using this

/-- The head becomes CONTENDING; nothing else changes. -/
theorem startHead_spec {q : List TxFrame} (h : TxQueueOk q) (hb : frameCount TxFrame.onBus q = 0) :
    TxQueueOk (startHead q) ∧ frameCount TxFrame.isTempo (startHead q) = frameCount TxFrame.isTempo q := by
  have count : ∀ (p : TxFrame → Bool), (∀ g st, p { g with state := st } = p g) → ∀ q,
      frameCount p (startHead q) = frameCount p q := by
    intro p hp q
    induction q with
    | nil => rfl
    | cons g q ih =>
      unfold startHead
      split
      · rw [frameCount_cons, frameCount_cons, hp]
      · rw [frameCount_cons, frameCount_cons, ih]
  have order : ∀ q, ordered q → ordered (startHead q) ∧ ∀ n, (∀ g ∈ q, n ≤ g.payload.header) →
      ∀ g ∈ startHead q, n ≤ g.payload.header := by
    intro q
    induction q with
    | nil => exact fun _ => ⟨trivial, fun _ h => h⟩
    | cons g q ih =>
      intro ho
      unfold startHead
      split
      · refine ⟨⟨ho.1, ho.2⟩, fun n hn x hx => ?_⟩
        rcases List.mem_cons.mp hx with e | hx
        · rw [e]
          exact hn g List.mem_cons_self
        · exact hn x (List.mem_cons_of_mem _ hx)
      · have ih := ih ho.2
        refine ⟨⟨ih.2 _ ho.1, ih.1⟩, fun n hn x hx => ?_⟩
        rcases List.mem_cons.mp hx with e | hx
        · rw [e]
          exact hn g List.mem_cons_self
        · exact ih.2 n (fun y hy => hn y (List.mem_cons_of_mem _ hy)) x hx
  have bus : ∀ q, frameCount TxFrame.onBus (startHead q) ≤ frameCount TxFrame.onBus q + 1 := by
    intro q
    induction q with
    | nil => exact Nat.zero_le _
    | cons g q ih =>
      unfold startHead
      split
      · rw [frameCount_cons, frameCount_cons]
        split <;> split <;> omega
      · rw [frameCount_cons, frameCount_cons]
        omega
  have ht := count TxFrame.isTempo (fun _ _ => rfl) q
  have hs := count TxFrame.shared (fun _ _ => rfl) q
  have hn := bus q
  have := h.shared
  have := h.tempo
  exact ⟨⟨(order q h.order).1, by omega, by omega, by omega⟩, ht⟩

/-- An attempt that R11 lets the part begin keeps the transmit queue within the rules. -/
theorem ownAttempt_txRunning (s : State) (hr : s.attemptReady = true) (h : s.txRunning) : s.ownAttempt.txRunning := by
  unfold State.attemptReady State.noAttempt at hr
  simp only [Bool.and_eq_true, Option.isNone_iff_eq_none, beq_iff_eq] at hr
  have hz : frameCount TxFrame.onBus s.bus.queue = 0 := frameCount_zero (fun g hg => by
    have h1 := frameIn_none hr.1.1.2.1 g hg
    have h2 := frameIn_none hr.1.1.2.2 g hg
    unfold TxFrame.onBus
    cases hs : g.state with
    | queued => rfl
    | contending => exact absurd hs h1
    | sending => exact absurd hs h2)
  have hq := startHead_spec h.1.queue hz
  have h1 := txRunning_requeue h hq.1 (fun e => by
    rw [hr.1.2] at e
    cases e) hq.2
  exact ⟨{ h1.1 with }, h1.2⟩

/-- Outside LOADING or in it, the attempt that a millisecond begins keeps the transmit queue within the rules. -/
theorem beginAttempt_txOk (s : State) (h : s.txOk) : s.beginAttempt.txOk := by
  unfold State.beginAttempt
  split
  · rename_i hr
    refine (ownAttempt_txRunning s hr ⟨h, fun e => ?_⟩).1
    unfold State.attemptReady State.mayStart at hr
    rw [e] at hr
    cases hf : s.frameIn .queued <;> simp [hf] at hr
  · exact h

theorem attemptStart_txRunning (s : State) (h : s.txRunning) : s.attemptStart.txRunning := by
  unfold State.attemptStart
  split
  · exact ownAttempt_txRunning s (by assumption) h
  · split
    · exact ⟨{ h.1 with }, h.2⟩
    · exact h

theorem arbitrationWon_txRunning (s : State) (h : s.txRunning) : s.arbitrationWon.txRunning := by
  refine mark_txRunning h (fun g => if g.state = .contending then { g with state := .sending } else g) (fun g => ?_)
    (fun g => ?_) rfl rfl rfl
  · split <;> rfl
  · split
    · rename_i e
      intro _
      unfold TxFrame.onBus
      rw [e]
      rfl
    · exact id

/-- Whether a removal by attempt state takes a TEMPO. -/
theorem removed_tempo {q : List TxFrame} (h : frameCount TxFrame.onBus q ≤ 1) {f : TxFrame} (hf : f ∈ q)
    (hb : f.onBus = true) : q.any (fun g => g.isTempo && !(g.state != f.state)) = f.isTempo := by
  have only : ∀ g ∈ q, g.state = f.state → g = f := fun g hg e => onBus_unique h hg hf (by
    unfold TxFrame.onBus at *
    rw [e]
    exact hb) hb
  cases ht : f.isTempo with
  | true => exact List.any_eq_true.mpr ⟨f, hf, by rw [ht]; simp⟩
  | false =>
    rw [List.any_eq_false]
    intro g hg hx
    rw [Bool.and_eq_true, bne, Bool.not_not, beq_iff_eq] at hx
    rw [only g hg hx.2, ht] at hx
    exact absurd hx.1 (by decide)

theorem returnFrame_txRunning (s : State) (h : s.txRunning) (f : TxFrame) (hb : f.onBus = true)
    (hf : ∃ g ∈ s.bus.queue, g.state = f.state ∧ g.isTempo = f.isTempo) : (s.returnFrame f).txRunning := by
  unfold State.returnFrame
  split
  · obtain ⟨h1, h2, h3⟩ := tellWithdrawn_bus f (s.removeIn f.state)
    obtain ⟨g, hg, hs, ht⟩ := hf
    refine remove_txRunning h (fun g => g.state != f.state) h1 h2 ?_
    rw [h3]
    show (s.cycle.pendingTempo && !f.isTempo) = _
    have gb : g.onBus = true := by
      unfold TxFrame.onBus at *
      rw [hs]
      exact hb
    rw [← ht, ← removed_tempo h.1.onBus hg gb, hs]
  · refine mark_txRunning h (fun g => if g.state = f.state then { g with state := .queued } else g) (fun g => ?_)
      (fun g => ?_) rfl rfl rfl
    · split <;> rfl
    · split
      · intro x
        cases x
      · exact id

theorem lostArbitration_txRunning (s : State) (h : s.txRunning) : s.lostArbitration.txRunning := by
  unfold State.lostArbitration
  split
  · rename_i f hf
    obtain ⟨hm, hs⟩ := frameIn_spec hf
    exact returnFrame_txRunning s h f (by unfold TxFrame.onBus; rw [hs]; rfl) ⟨f, hm, rfl, rfl⟩
  · exact h

theorem attempting_spec {s : State} {f : TxFrame} (h : s.attempting = some f) : f ∈ s.bus.queue ∧ f.onBus = true := by
  unfold State.attempting at h
  split at h
  · rename_i g hg
    injection h with h
    subst h
    obtain ⟨hm, hs⟩ := frameIn_spec hg
    exact ⟨hm, by unfold TxFrame.onBus; rw [hs]; rfl⟩
  · obtain ⟨hm, hs⟩ := frameIn_spec h
    exact ⟨hm, by unfold TxFrame.onBus; rw [hs]; rfl⟩

theorem failedAttempt_txRunning (s : State) (h : s.txRunning) : s.failedAttempt.txRunning := by
  unfold State.failedAttempt
  split
  · exact h
  · rename_i f hf
    obtain ⟨hm, hb⟩ := attempting_spec hf
    extract_lets t b u v
    have ht : t.txRunning := countN_txRunning _ _ _ h
    have hu : u.txRunning := setFail_txRunning ht (Nat.min_le_left _ _)
    have hv : v.txRunning := by
      refine mark_txRunning hu (fun g => if g.state = f.state then g.addHeld else g) (fun g => ?_) (fun g => ?_) rfl rfl rfl
      · split
        · exact (addHeld_spec g).1
        · rfl
      · unfold TxFrame.onBus
        split
        · rw [(addHeld_spec g).2]
          exact id
        · exact id
    split
    · exact enterListenOnly_txRunning hv
    · refine returnFrame_txRunning v hv f hb ⟨f.addHeld, ?_, (addHeld_spec f).2, ?_⟩
      · refine List.mem_map.mpr ⟨f, hm, ?_⟩
        exact if_pos rfl
      · unfold TxFrame.isTempo
        rw [(addHeld_spec f).1]

/-! ### The cycle -/

theorem setCycle_txRunning {s : State} (h : s.txRunning) (c : CycleUnit) (hc : c.pendingTempo = s.cycle.pendingTempo) :
    State.txRunning { s with cycle := c } := txRunning_of_parts h rfl rfl hc

theorem withdrawTempo_txRunning (s : State) (h : s.txRunning) : s.withdrawTempo.txRunning := by
  unfold State.withdrawTempo
  split
  · exact withdrawFrames_txRunning _ _ h
  · exact h

theorem tempoHeard_txRunning (own : Bool) (a : Byte) (m : Clock) (c : BitVec 6) (y : SyncState) (s : State)
    (h : s.txRunning) : (s.tempoHeard own a m c y).txRunning := by
  unfold State.tempoHeard
  extract_lets t u v
  have ht : t.txRunning := by
    refine setCycle_txRunning ?_ _ rfl
    split
    · exact countN_txRunning _ _ _ h
    · exact h
  have hu : u.txRunning := by
    show State.txRunning (if own then t else t.withdrawTempo)
    split
    · exact ht
    · exact withdrawTempo_txRunning _ ht
  exact cycleStart_preserves txRunning_tracker _ _ _ _ (setCycle_txRunning hu _ rfl)

theorem localRestart_txRunning (s : State) (h : s.txRunning) : s.localRestart.txRunning := by
  unfold State.localRestart
  exact cycleStart_preserves txRunning_tracker _ _ _ _ (withdrawTempo_txRunning _ (setCycle_txRunning h _ rfl))

/-- The answer to a TEMPO request sets the flag exactly when the queue holds the frame (R38). -/
theorem tempoRequested_txRunning (c : BitVec 6) (y : SyncState) (u : State) (hu : u.txRunning) :
    State.txRunning { (u.request (.tempo c y)).2 with cycle := { (u.request (.tempo c y)).2.cycle with
      pendingTempo := (u.request (.tempo c y)).1 == .accepted || (u.request (.tempo c y)).2.cycle.pendingTempo } } := by
  have h := request_spec (.tempo c y) u
  generalize u.request (.tempo c y) = answer at h
  obtain ⟨a, v⟩ := answer
  dsimp only at h ⊢
  rcases h with ⟨rfl, hb, rfl, hs, ht⟩ | ⟨_, hp, _⟩ | ⟨rfl, e⟩
  · have h0 := ht rfl
    have hq := hu.1.queue.insert (.tempo c y) hs ht
    refine ⟨⟨hq.order, hq.shared, hq.tempo, hq.onBus, fun x => ?_, fun x => absurd x hu.2, ?_, hu.1.count⟩, hu.2⟩
    · change u.bus.state = .listenOnly at x
      rw [hb] at x
      cases x
    · show (true || u.cycle.pendingTempo) = true ↔ frameCount TxFrame.isTempo (insertFrame _ u.bus.queue) = 1
      rw [frameCount_insert, h0]
      simp [TxFrame.isTempo, newFrame, TxPayload.header]
  · exact absurd rfl hp
  · have : v.txRunning := by
      rcases e with rfl | rfl | rfl
      · exact hu
      · exact countN_txRunning _ _ _ hu
      · exact raise_txRunning _ _ (countN_txRunning _ _ _ hu)
    exact setCycle_txRunning this _ rfl

theorem tempoThreshold_txRunning (s : State) (h : s.txRunning) : s.tempoThreshold.txRunning := by
  unfold State.tempoThreshold
  extract_lets c u
  have hu : u.txRunning := setCycle_txRunning h _ rfl
  split
  · exact tempoRequested_txRunning _ _ u hu
  · exact hu

/-! ### Reports and captures -/

theorem setStatus_txRunning {s : State} (h : s.txRunning) (x : StatusUnit) : State.txRunning { s with status := x } :=
  txRunning_of_parts h rfl rfl rfl

theorem setModeUnit_txRunning {s : State} (h : s.txRunning) (m : ModeUnit) : State.txRunning { s with mode := m } :=
  txRunning_of_parts h rfl rfl rfl

theorem requestPart_txRunning (q : Query) (s : State) (h : s.txRunning) : (s.requestPart q).txRunning := by
  have h1 : ∀ b, (s.takeFree b).txRunning := fun b => by
    unfold State.takeFree
    split
    · exact txRunning_of_parts h rfl rfl rfl
    · exact h
  exact setStatus_txRunning (request_txRunning _ (by simp [TxPayload.header]) _ (h1 _)) _

theorem reportCompleted_txRunning (w : Bool) (e : ReportEffect) (s : State) (h : s.txRunning) :
    (s.reportCompleted w e).txRunning := by
  have h1 : (s.reportEffect e).txRunning := by
    unfold State.reportEffect
    split <;> first | exact h | exact setStatus_txRunning h _
  unfold State.reportCompleted State.continueQuery
  dsimp only
  repeat' split
  all_goals first | exact h1 | exact requestPart_txRunning _ _ h1 | exact setStatus_txRunning h1 _

theorem queryTaken_txRunning (f : QueryFrame) (s : State) (h : s.txRunning) : (s.queryTaken f).txRunning := by
  unfold State.queryTaken
  split
  · apply requestPart_txRunning
    split
    · exact withdrawFrames_txRunning _ _ h
    · exact h
  · exact countN_txRunning _ _ _ h

theorem requestSense_txRunning (l e : Nat) (p : BitVec 6 × Nat) (s : State) (h : s.txRunning) :
    (s.requestSense l e p).txRunning :=
  setModeUnit_txRunning (request_txRunning _ (by simp [TxPayload.header]) _ h) _

theorem senseCompleted_txRunning (l k : Nat) (s : State) (h : s.txRunning) : (s.senseCompleted l k).txRunning := by
  unfold State.senseCompleted
  extract_lets t
  have ht : t.txRunning := setModeUnit_txRunning h _
  repeat' split
  all_goals first | exact ht | exact requestSense_txRunning _ _ _ _ ht

theorem senseEdge_txRunning (l : Nat) (s : State) (h : s.txRunning) : (s.senseEdge l).txRunning := by
  have C := txRunning_tracker
  unfold State.senseEdge
  repeat' split
  · exact h
  · exact wakes_preserves C.toQuietClosed _ _ h
  · exact h
  · exact forEach_preserves State.txRunning _ (fun n s => lampStart_preserves C.toQuietClosed n s) _ _ h
  · exact contentChanges_preserves C.toShowClosed _ _
      (forEach_preserves State.txRunning (fun n s => s.togglePin n) (fun n s h => setModeUnit_txRunning h _) _ _ h)
  · exact requestSense_txRunning _ _ _ _ (setModeUnit_txRunning h _)

theorem attemptCompleted_txRunning (s : State) (h : s.txRunning) : s.attemptCompleted.txRunning := by
  unfold State.attemptCompleted
  split
  · exact h
  · rename_i f hf
    obtain ⟨hm, hs⟩ := frameIn_spec hf
    have hb : f.onBus = true := by
      unfold TxFrame.onBus
      rw [hs]
      rfl
    have hgone := removed_tempo h.1.onBus hm hb
    rw [hs] at hgone
    have gone : ∀ t : State, t.bus = { s.bus with queue := s.bus.queue.filter (fun g => g.state != AttemptState.sending) } →
        t.loader = s.loader → t.cycle.pendingTempo = (s.cycle.pendingTempo && !f.isTempo) → t.txRunning :=
      fun t h1 h2 h3 => remove_txRunning h (fun g => g.state != AttemptState.sending) h1 h2 (by rw [h3, hgone])
    have hc := h.1.count
    extract_lets t b
    have keep : f.isTempo = false →
        State.txRunning { t with bus := { t.bus with failCount := t.bus.failCount - 1, firstBit := none } } :=
      fun e => setCompleted_txRunning (s := t) (gone t rfl rfl (by rw [e]; simp; rfl)) (by
        show s.bus.failCount - 1 ≤ 255
        omega)
    unfold State.tellCompleted
    split
    · rename_i hp
      have ht : f.isTempo = true := by
        unfold TxFrame.isTempo
        rw [hp]
        rfl
      extract_lets cyc v
      have hv : v.txRunning := by
        have h1 := gone { t with cycle := { t.cycle with pendingTempo := false } } rfl rfl (by rw [ht]; simp)
        exact setCompleted_txRunning h1 (n := s.bus.failCount - 1) (by omega)
      split
      · exact tempoHeard_txRunning _ _ _ _ _ _ hv
      · exact hv
    · rename_i hp
      exact keep (by unfold TxFrame.isTempo; rw [hp]; rfl)
    · rename_i hp
      exact senseCompleted_txRunning _ _ _ (keep (by unfold TxFrame.isTempo; rw [hp]; rfl))
    · rename_i hp
      exact reportCompleted_txRunning _ _ _ (keep (by unfold TxFrame.isTempo; rw [hp]; rfl))

/-! ### Starts (R17, R25, R26, R28) -/

/-- A part out of LOADING with an empty queue. -/
structure State.txEmpty (s : State) : Prop where
  queue : s.bus.queue = []
  count : s.bus.failCount ≤ 255
  started : s.loader.state ≠ .loading

theorem raise_txEmpty (i : ExcItem) (s : State) (h : s.txEmpty) : (s.raise i).txEmpty :=
  ⟨by
    show s.bus.queue.map _ = []
    rw [h.queue]
    rfl, h.count, h.started⟩

theorem raiseImageItems_txEmpty (s : State) (h : s.txEmpty) : s.raiseImageItems.txEmpty := by
  refine forEach_preserves State.txEmpty (fun n s => s.raise (.showListFault n)) (fun n s h => raise_txEmpty _ _ h) _ _ ?_
  unfold State.raiseIf
  split
  · exact raise_txEmpty _ _ h
  · exact h

theorem probing_txEmpty (l : List Nat) (s : State) (h : s.txEmpty) :
    (forEach l (fun n s => s.startProbing n) s).txEmpty :=
  forEach_preserves State.txEmpty (fun n s => s.startProbing n) (fun _ _ h => ⟨h.queue, h.count, h.started⟩) _ _ h

theorem starts_txRunning (s : State) (h : s.txEmpty) : s.startCycle.startReports.txRunning := by
  apply startReports_preserves txRunning_tracker.toReportClosed
  unfold State.startCycle
  apply cycleStart_preserves txRunning_tracker
  exact ⟨txOk_empty h.queue h.count rfl, h.started⟩

theorem strapCase_txEmpty (s : State) (h : s.txEmpty) : s.strapCase.txEmpty := by
  unfold State.strapCase
  split
  · exact h
  · exact raise_txEmpty _ _ ⟨h.queue, Nat.le_of_ble_eq_true rfl, h.started⟩

theorem raiseReset_txEmpty (s : State) (h : s.txEmpty) : s.raiseReset.txEmpty := by
  unfold State.raiseReset
  split
  · exact raise_txEmpty _ _ h
  · exact raise_txEmpty _ _ h
  · exact h

theorem loadEnded_txOk (l : Load) (s : State) (h : s.txOk) (hl : s.loader.state = .loading) : (s.loadEnded l).txOk := by
  have hq := h.loading hl
  have hp := txOk_noTempo h (by rw [hq]; rfl)
  unfold State.loadEnded
  split
  · apply And.left
    apply starts_txRunning
    apply probing_txEmpty
    have h1 := raiseImageItems_txEmpty _ (raiseReset_txEmpty _ (strapCase_txEmpty
      { s with loader := { state := .running, fault := none, copy := ‹Image›, bitRate := ‹BitRate› } }
      ⟨hq, h.count, fun x => by cases x⟩))
    exact ⟨h1.queue, h1.count, h1.started⟩
  · rename_i reason row rate
    have h1 := probing_txEmpty (List.range 8) _ (raise_txEmpty .imageFault _ (raiseReset_txEmpty _ (strapCase_txEmpty
      { s with loader := { state := .imageFault, fault := some (reason, row), copy := Image.empty, bitRate := rate } }
      ⟨hq, h.count, fun x => by cases x⟩)))
    refine txOk_empty h1.queue h1.count ?_
    have e : ∀ s : State, s.strapCase.cycle = s.cycle := fun s => by
      unfold State.strapCase
      split <;> rfl
    have e' : ∀ s : State, s.raiseReset.cycle = s.cycle := fun s => by
      unfold State.raiseReset
      split <;> rfl
    have e'' : ∀ (l : List Nat) (s : State), (forEach l (fun n s => s.startProbing n) s).cycle = s.cycle :=
      fun l s => forEach_keeps State.cycle (fun n s => s.startProbing n) (fun _ _ => rfl) l s
    unfold State.probeAll
    rw [e'']
    show (State.raiseReset _).cycle.pendingTempo = false
    rw [e', e]
    exact hp

theorem restartBus_txEmpty (s : State) (h : s.txRunning) : s.restartBus.txEmpty :=
  ⟨rfl, by
    have := h.1.count
    show (if s.validStation then 0 else s.bus.failCount) ≤ 255
    split
    · exact Nat.zero_le _
    · exact this, h.2⟩

theorem restartTaken_txRunning (s : State) (h : s.txRunning) : s.restartTaken.txRunning := by
  have h0 := restartBus_txEmpty s h
  unfold State.restartTaken
  split
  · exact h
  · apply starts_txRunning
    have h1 := probing_txEmpty s.panelIds _ h0
    have h2 := raiseImageItems_txEmpty _ (raise_txEmpty .restarted
      { forEach s.panelIds (fun n s => s.startProbing n) s.restartBus with
        status := { (forEach s.panelIds (fun n s => s.startProbing n) s.restartBus).status with
          exceptions := (forEach s.panelIds (fun n s => s.startProbing n) s.restartBus).status.exceptions.meet
            (forEach s.panelIds (fun n s => s.startProbing n) s.restartBus).heldItems,
          cause := .restart,
          restarts := min 255 ((forEach s.panelIds (fun n s => s.startProbing n) s.restartBus).status.restarts + 1),
          query := none } } ⟨h1.queue, h1.count, h1.started⟩)
    exact ⟨h2.queue, h2.count, h2.started⟩
  · have h1 := probing_txEmpty (List.range 8) s.restartBus.resetCycle ⟨h0.queue, h0.count, h0.started⟩
    have e : (forEach (List.range 8) (fun n s => s.startProbing n) s.restartBus.resetCycle).cycle =
      s.restartBus.resetCycle.cycle :=
      forEach_keeps State.cycle (fun n s => s.startProbing n) (fun _ _ => rfl) _ _
    refine ⟨raise_txOk .restarted _ (txOk_empty h1.queue h1.count ?_), h1.started⟩
    show (forEach (List.range 8) (fun n s => s.startProbing n) s.restartBus.resetCycle).cycle.pendingTempo = false
    rw [e]
    rfl

/-! ### Modes, prompts and links -/

theorem levelChanged_txRunning (o n : Level) (s : State) (h : s.txRunning) : (s.levelChanged o n).txRunning := by
  have C := txRunning_tracker
  unfold State.levelChanged
  have h1 := forEach_preserves State.txRunning _ (fun m t => panelLevelChange_preserves C.toQuietClosed o n m t) s.panelIds
    { s with mode := { s.mode with level := n } } (setModeUnit_txRunning h _)
  dsimp only
  split
  · exact removePrompts_preserves C.toReportClosed _ _ (txRunning_of_parts h1 rfl rfl rfl)
  · exact h1

theorem settleMode_txRunning (b : ModeUnit) (s : State) (h : s.txRunning) : (s.settleMode b).txRunning := by
  unfold State.settleMode
  repeat' split
  · exact levelChanged_txRunning _ _ _ h
  · exact contentChanges_preserves txRunning_tracker.toShowClosed _ _ h
  · exact h

theorem buildingModeTaken_txRunning (a : Byte) (f : ModeFrame) (s : State) (h : s.txRunning) :
    (s.buildingModeTaken a f).txRunning := by
  have e : ∀ c, (s.applyMode a f.text c).txRunning := fun c => by
    unfold State.applyMode
    repeat' split
    all_goals first
      | exact setModeUnit_txRunning (countN_txRunning _ _ _ h) _
      | exact setModeUnit_txRunning h _
  unfold State.buildingModeTaken
  repeat' split
  · exact countN_txRunning _ _ _ h
  · exact h
  · exact countN_txRunning _ _ _ h
  · exact settleMode_txRunning _ _ (e _)

theorem claimExpiry_txRunning (a : Byte) (s : State) (h : s.txRunning) : (s.claimExpiry a).txRunning := by
  unfold State.claimExpiry
  split
  · exact settleMode_txRunning _ _ (setModeUnit_txRunning h _)
  · exact h

theorem removal_txRunning (p : Prompt → Bool) (s : State) (h : s.txRunning) : (s.removePrompts p).txRunning :=
  removePrompts_preserves txRunning_tracker.toReportClosed _ _ (txRunning_of_parts h rfl rfl rfl)

theorem assignTaken_txRunning (f : AssignFrame) (s : State) (h : s.txRunning) : (s.assignTaken f).txRunning := by
  have C := txRunning_tracker.toReportClosed
  unfold State.assignTaken State.place
  dsimp only
  repeat' split
  · exact countN_txRunning _ _ _ h
  · exact reportLists_preserves C _ _ _ (txRunning_of_parts h rfl rfl rfl)
  · exact reportLists_preserves C _ _ _ (txRunning_of_parts (countN_txRunning .evictions 1 _ h) rfl rfl rfl)
  · exact reportLists_preserves C _ _ _ (txRunning_of_parts h rfl rfl rfl)

theorem linkFault_txOk (n : Nat) (s : State) (h : s.txOk) : (s.linkFault n).txOk := by
  unfold State.linkFault
  extract_lets up t u
  have hu : u.txOk := raise_txOk _ t { h with }
  split
  · exact { hu with }
  · exact hu

theorem attemptFails_txOk (n : Nat) (s : State) (h : s.txOk) : (s.attemptFails n).txOk := by
  unfold State.attemptFails
  repeat' split
  · exact h
  · exact h
  · exact { h with }
  · exact { h with }
  · exact linkFault_txOk _ _ h

theorem ackTaken_txOk (n : Nat) (tag m : Byte) (s : State) (h : s.txOk) : (s.ackTaken n tag m).txOk := by
  have parts : ∀ {u t : State}, t.forCount = u.forCount → u.txOk → t.txOk := fun {u t} e hu => by
    have e1 := congrArg State.bus e
    have e2 := congrArg (fun x : State => x.loader.state) e
    have e3 := congrArg (fun x : State => x.cycle.pendingTempo) e
    exact txOk_of_parts hu e1 e2 e3
  unfold State.ackTaken
  split
  · exact h
  · refine parts (forCount_of_forShow (drained_forShow n _)) ?_
    refine parts (sendNext_forCount n _) ?_
    refine parts (forCount_of_forShow (messageDone_forShow n _ _)) ?_
    unfold State.raiseIf
    split
    · exact raise_txOk _ _ { h with }
    · exact { h with }

/-! ### Reception -/

theorem routeCar_txRunning (c : Byte) (f : Nat → State → State) (hf : ∀ n s, s.txRunning → (f n s).txRunning) (s : State)
    (h : s.txRunning) : (s.routeCar c f).txRunning := by
  unfold State.routeCar
  repeat' split
  all_goals first | exact h | exact hf _ _ h

theorem tempoLowers_txRunning (s : State) (h : s.txRunning) : s.tempoLowers.txRunning := by
  have hc := h.1.count
  unfold State.tempoLowers
  split
  · rename_i hs
    have hq := h.1.silent hs.1
    have hp := txOk_noTempo h.1 (by rw [hq]; rfl)
    refine ⟨txOk_empty hq ?_ hp, h.2⟩
    show s.bus.failCount - 1 ≤ 255
    omega
  · exact h

theorem route_txRunning (rx : Rx) (m : Clock) (g : GoodFrame) (s : State) (h : s.txRunning) :
    (s.route rx m g).txRunning := by
  have T := txRunning_tracker
  have ht := tempoLowers_txRunning s h
  unfold State.route
  split
  · split
    · exact buildingModeTaken_txRunning _ _ _ h
    · exact h
  · exact routeCar_txRunning _ _ (fun n s => carServiceTaken_preserves T _ _ s) _ h
  · split
    · exact restartTaken_txRunning _ h
    · exact h
  · dsimp only
    split
    · exact tempoHeard_txRunning _ _ _ _ _ _ ht
    · exact ht
  · exact routeCar_txRunning _ _ (fun n s => carMotionTaken_preserves T _ _ _ s) _ h
  · exact routeCar_txRunning _ _ (fun n s => carStepTaken_preserves T _ _ _ s) _ h
  · exact routeCar_txRunning _ _ (fun n s => carCallsTaken_preserves T _ _ s) _ h
  · split
    · exact assignTaken_txRunning _ _ h
    · exact h
  · split
    · exact removal_txRunning _ _ h
    · exact h
  · split
    · exact queryTaken_txRunning _ _ h
    · exact h
  · exact h

theorem takeGood_txRunning (rx : Rx) (m : Clock) (g : GoodFrame) (s : State) (h : s.txRunning) :
    (s.takeGood rx m g).txRunning := by
  unfold State.takeGood
  repeat' split
  · exact countN_txRunning _ _ _ h
  · exact clash_txRunning _ h
  · exact route_txRunning _ _ _ _ h

theorem busy_txOk (s : State) (h : s.txOk) : s.busy.txOk := { h with }

theorem receives_started {s : State} (h : s.receives = true) : s.loader.state ≠ .loading := by
  intro e
  unfold State.receives at h
  rw [e] at h
  cases h

theorem receive_txOk (rx : Rx) (g : GoodFrame) (s : State) (h : s.txOk) : (s.receive rx g).txOk := by
  unfold State.receive
  split
  · rename_i hr
    exact (takeGood_txRunning rx _ g s.busy ⟨busy_txOk s h, receives_started hr⟩).1
  · exact busy_txOk s h

theorem receiveRaw_txOk (f : RawFrame) (s : State) (h : s.txOk) : (s.receiveRaw f).txOk := by
  have hb := busy_txOk s h
  unfold State.receiveRaw
  split
  · rename_i hr
    unfold State.takeVerdict
    split
    · exact { hb with }
    · exact hb
    · exact (takeGood_txRunning _ _ _ s.busy ⟨hb, receives_started hr⟩).1
  · exact hb

/-! ### What a cycle start leaves of the queue (R6, R8, R10) -/

theorem timedFrames_insertFrame {f : TxFrame} (h : (f.payload.header == 72 || f.payload.header == 220) = false)
    (q : List TxFrame) : timedFrames (insertFrame f q) = timedFrames q := by
  unfold timedFrames
  induction q with
  | nil => simp [insertFrame, h]
  | cons g q ih =>
    unfold insertFrame
    split
    · rw [List.filter_cons, List.filter_cons, ih]
    · rw [List.filter_cons_of_neg (by simp [h])]

/-- A change that touches neither TEMPO nor SENSE frames, nor a kind, leaves the timed frames. -/
theorem timedFrames_map (f : TxFrame → TxFrame) (hh : ∀ g, (f g).payload.header = g.payload.header)
    (ht : ∀ g : TxFrame, g.payload.header = 72 ∨ g.payload.header = 220 → f g = g) (q : List TxFrame) :
    timedFrames (q.map f) = timedFrames q := by
  unfold timedFrames
  induction q with
  | nil => rfl
  | cons g q ih =>
    rw [List.map_cons, List.filter_cons, List.filter_cons, ih, hh g]
    split
    · rename_i hg
      rw [ht g (by simpa using hg)]
    · rfl

theorem dropItem_timed (i : ExcItem) {g : TxFrame} (h : g.payload.header = 72 ∨ g.payload.header = 220) :
    g.dropItem i = g := by
  unfold TxFrame.dropItem
  cases hp : g.payload <;> simp [hp, TxPayload.header] at h ⊢

theorem takes_panelLoad {g : TxFrame} {n k : Nat} {l : LoadLevel} (h : g.takes (.panelLoad n l k) = true) :
    g.payload.header ≠ 72 ∧ g.payload.header ≠ 220 := by
  unfold TxFrame.takes at h
  cases hp : g.payload <;> simp [hp, TxPayload.header] at h ⊢

/-- The queue after a PANEL LOAD request: its timed frames are those before, and no frame becomes SENDING. -/
theorem panelLoad_queue (n k : Nat) (l : LoadLevel) (s : State) :
    timedFrames (s.request (.panelLoad n l k)).2.bus.queue = timedFrames s.bus.queue ∧
    ((∀ g ∈ s.bus.queue, g.state ≠ .sending) →
      ∀ g ∈ (s.request (.panelLoad n l k)).2.bus.queue, g.state ≠ .sending) := by
  unfold State.request
  split
  · split <;> exact ⟨rfl, id⟩
  · split
    · exact ⟨rfl, id⟩
    · split
      · split
        · exact ⟨rfl, id⟩
        · rename_i h _
          simp [TxPayload.header] at h
      · split
        · refine ⟨timedFrames_map _ (fun g => ?_) (fun g hg => if_neg fun ht => ?_) _, fun h g hg => ?_⟩
          · split
            · rename_i ht
              exact coalesce_header ht
            · rfl
          · rcases hg with hg | hg
            · exact (takes_panelLoad ht).1 hg
            · exact (takes_panelLoad ht).2 hg
          · obtain ⟨x, hx, rfl⟩ := List.mem_map.mp hg
            split
            · rw [coalesce_state]
              exact h x hx
            · exact h x hx
        · split
          · refine ⟨timedFrames_map _ (dropItem_header _) (fun _ => dropItem_timed _) _, fun h g hg => ?_⟩
            obtain ⟨x, hx, rfl⟩ := List.mem_map.mp hg
            rw [dropItem_state]
            exact h x hx
          · refine ⟨timedFrames_insertFrame rfl _, fun h g hg => ?_⟩
            rcases mem_insertFrame.mp hg with rfl | hg
            · exact fun e => nomatch e
            · exact h g hg

/-- A cycle start and every car event leave the TEMPO and SENSE frames of the queue. -/
theorem timedFrames_tracker (x : List TxFrame) : TrackerClosed (fun s => timedFrames s.bus.queue = x) :=
  { sched := fun _ _ _ h => h, hand := fun _ _ _ h => h, cancel := fun _ _ _ h => h, quiet := fun _ _ _ h => h,
    lamp := fun _ _ _ h => h, lanterns := fun _ _ h => h, decks := fun _ _ _ h => h, free := fun _ _ h => h,
    levels := fun _ _ h => h, poolAfter := fun _ _ _ _ _ h => h,
    panelLoad := fun n l k s h => (panelLoad_queue n k l s).1.trans h, count := fun _ _ _ h => h,
    raise := fun _ _ h =>
      (timedFrames_map _ (dropItem_header _) (fun _ => dropItem_timed _) _).trans h,
    store := fun _ _ _ h => h, base := fun _ _ _ _ h => h }

/-- A cycle start and every car event make no frame SENDING. -/
theorem noneSending_tracker : TrackerClosed (fun s => ∀ g ∈ s.bus.queue, g.state ≠ .sending) :=
  { sched := fun _ _ _ h => h, hand := fun _ _ _ h => h, cancel := fun _ _ _ h => h, quiet := fun _ _ _ h => h,
    lamp := fun _ _ _ h => h, lanterns := fun _ _ h => h, decks := fun _ _ _ h => h, free := fun _ _ h => h,
    levels := fun _ _ h => h, poolAfter := fun _ _ _ _ _ h => h,
    panelLoad := fun n l k s h => (panelLoad_queue n k l s).2 h, count := fun _ _ _ h => h,
    raise := fun _ _ h g hg => by
      obtain ⟨x, hx, rfl⟩ := List.mem_map.mp hg
      rw [dropItem_state]
      exact h x hx,
    store := fun _ _ _ h => h, base := fun _ _ _ _ h => h }

theorem withdrawTempo_queue (s : State) : s.withdrawTempo.bus.queue =
    if s.cycle.pendingTempo then
      (s.bus.queue.filter (fun g => !(g.isTempo && g.state == AttemptState.queued))).map
        (fun g => if g.isTempo then { g with withdrawn := true } else g)
    else s.bus.queue := by
  unfold State.withdrawTempo
  split
  · rw [(withdrawFrames_bus _ _).1]
  · rfl

end Sys2Proof.Machine
end

