-- ==== Sys2Proof/Tests/Slice0.lean ====
section
/-! SUPPORT. Small tests: what WellFormed refuses, known check values, one running sample part, and for every obligation
with hypotheses a witness that meets them. -/

namespace Sys2Proof.Tests

open Sys2Proof Sys2Proof.Machine

/-! ### Terms that the check of well-formed commands refuses -/

def wellRx : Rx := { source := 5 }
def badRx : Rx := { source := 0 }

theorem test_wf_source_zero : (Instr.withdraw badRx 1).wf = false := by decide
theorem test_wf_source_255 : (Instr.tempo { source := 255 } 1 0).wf = false := by decide
theorem test_wf_source_254 : (Instr.tempo { source := 254 } 1 0).wf = true := by decide
theorem test_wf_thirteen_stops :
    (Instr.carCalls wellRx { car := 5, deck := 0, seq := 1, intent := 0, stops := List.replicate 13 1 }).wf = false := by
  decide
theorem test_wf_no_bytes : (Instr.badFrame { bytes := [] }).wf = false := by decide
theorem test_wf_too_many_bytes : (Instr.stationClash { bytes := List.replicate 22 0 }).wf = false := by decide
theorem test_wf_slot : (Instr.indicationTimerExpiry 16).wf = false := by decide
theorem test_wf_linger_panel : (Instr.lingerExpiry 8 0).wf = false := by decide
theorem test_wf_linger_slot : (Instr.lingerExpiry 0 16).wf = false := by decide
theorem test_wf_ticket : (Instr.holdExpiry 4096).wf = false := by decide
theorem test_wf_claim_source : (Instr.claimWatchExpiry 0).wf = false := by decide
theorem test_wf_line : (Instr.senseLineEdge 4).wf = false := by decide
theorem test_wf_panel :
    [Instr.quietTimerExpiry 8, .lampTestExpiry 8, .preloadInstant 8, .showMark 8, .scrollExpiry 8].all
      (fun c => !c.wf) = true := by decide
theorem test_wf_link :
    [Instr.linkAck 8 0 0, .linkNak 8 0, .linkTimeout 8, .linkReplyBad 8 [], .reprobeExpiry 8].all
      (fun c => !c.wf) = true := by decide

/-! ### The check of R2 and the layouts of chapter 12 -/

/-- The value that R2's parameters give for the digits 1 to 9. -/
theorem test_crc_of_digits : crc [0x31, 0x32, 0x33, 0x34, 0x35, 0x36, 0x37, 0x38, 0x39] = 0x29B1 := by decide +kernel

/-- WITHDRAW of ticket 513 from station 5, with its check bytes. -/
def withdrawBytes : List Byte := withCheck [0xDA, 5, 2, 2, 1]

theorem test_withdraw_frame_is_good : verdict withdrawBytes = .good 5 (.withdraw 0x0201) := by decide +kernel
theorem test_wrong_check_is_bad : verdict ([0xDA, 5, 2, 2, 1] ++ [0, 0]) = .bad false := by decide +kernel
theorem test_long_length_byte_ignores_the_bus : verdict [0xDA, 5, 17] = .bad true := by decide
theorem test_truncated_frame_is_bad : verdict [0xDA, 5, 2, 2] = .bad false := by decide
theorem test_source_zero_is_bad : verdict (withCheck [0xDA, 0, 2, 2, 1]) = .bad false := by decide +kernel
theorem test_unknown_kind_is_ignored : verdict (withCheck [0xFF, 5, 0]) = .ignored := by decide +kernel
theorem test_wrong_length_is_bad : verdict (withCheck [0xDA, 5, 1, 2]) = .bad false := by decide +kernel

/-- The TEMPO of station 40 with count 17 in IN_STEP. -/
theorem test_tempo_frame_starts :
    ((TxPayload.tempo 17 .inStep).frameBytes 40).take 5 = [0x48, 40, 2, 17, 2] := by decide

/-! ### One running part

Four panels (LOBBY, DESTINATION, CAR, LANTERN), two cars, five landings. Car slot 0 stands at landing 1, TRACKED and
anchored; slot 1 is as after a start. -/

def entry (mark period phase : Nat) (p : Page) : ShowEntry :=
  { mark := mark, period := period, phase := phase, action := .page p }

def panelRow (kind : PanelKind) (landing slot : Nat) (deck : Deck) (cars : List Nat) (keypads : List Byte)
    (list : List ShowEntry) : PanelRow :=
  { kind := kind, width := 8, lines := 2, landing := landing, slot := slot, deck := deck, cars := cars,
    keypads := keypads, timing := 0, list := list, listFaulted := false, warn := 6, awake := 12, dim := 3,
    mayDark := true }

def lobby : PanelRow := panelRow .lobby 1 0 .lower [0, 1] [] [entry 0 1 0 .floor, entry 500 2 1 (.text 0)]
def destination : PanelRow := panelRow .destination 0 0 .lower [] [200] [entry 0 1 0 .prompts]
def carPanel : PanelRow := panelRow .car 0 1 .upper [] [] [entry 0 1 0 .stops]
def lanternPanel : PanelRow := panelRow .lantern 2 0 .lower [0] [] []

def firstCar : CarRow := { number := 5, label := [0x41], lo := 0, hi := 3, step := 0 }
def secondCar : CarRow := { number := 6, label := [0x42], lo := 0, hi := 2, step := 1 }

def landingAt (height : Nat) : Landing :=
  { height := height, label := [0x47], express := false, skyLobby := false, hidden := false }

def timingSet : TimingSet :=
  { scroll := 1000, promptHold := 10000, boardingHold := 5000, reassignHold := 4000, linger := 2000, quiet := 60,
    lead := 200 }

def copy : Image :=
  { tempoEligible := true, lc := 2000, zone := 3, amax := 1000, tlead := 1500, gmax := 1500, hyst := 100,
    announce := 3000, timings := List.replicate 4 timingSet,
    landings := [landingAt 0, landingAt 4000, landingAt 8000, landingAt 12000, landingAt 16000],
    cars := [firstCar, secondCar], panels := [lobby, destination, carPanel, lanternPanel],
    senses := [{ function := .wake, mask := 0x01 }, { function := .test, mask := 0x02 },
               { function := .language, mask := 0x01 }, { function := .report, mask := 0 }],
    texts := [{ primary := [0x41], secondary := [] }, { primary := [0x42], secondary := [] }], clamped := false }

def parkedCar : CarRec :=
  { CarRec.start with
    anchor := true, pos := 4000, level := some 1, mark := 9500, tracking := .tracked, indicated := some 1,
    q := some 4000 }

def runningCar : CarRec := { parkedCar with motion := .runningUp, vel := 500, timer := some 9900 }

def upLink : LinkRec := { LinkRec.start with state := .up, tag := 9 }
def inFlight (m : LinkMsg) (attempt : Nat) : InFlight := { msg := m, tag := 9, attempt := attempt, expiry := 9999 }
def busyLink (m : LinkMsg) : LinkRec := { upLink with inFlight := some (inFlight m 1) }

def darkLantern : Lantern := { panel := 3, slot := 0, state := .dark, dir := .none, deck := none, linger := none }

def sample : State :=
  { State.reset with
    loader := { state := .running, fault := none, copy := copy, bitRate := .kbit125 },
    bus := { State.reset.bus with station := 40 },
    cycle := { clock := 10000, base := 9000, count := 7, sync := .inStep, pendingTempo := false, lastTempo := none,
               crossed := false, event := none },
    cars := [parkedCar, CarRec.start],
    stops := { decks := [CarDecks.start, CarDecks.start], lanterns := [darkLantern] },
    prompts := { pool := [], levels := List.replicate 4 .open_ },
    mode := { State.reset.mode with
      quiet := List.replicate 4 { state := .awake, timer := some 60000 }, pins := List.replicate 4 false,
      lamps := List.replicate 4 none, captures := List.replicate 4 { armed := true, latest := none } },
    schedules := [Schedule.start .lobby, Schedule.start .destination, Schedule.start .car, Schedule.start .lantern],
    links := [upLink, upLink, upLink, upLink] ++ List.replicate 4 LinkRec.start }

/-- A frame of another station. -/
def rx : Rx := { source := 5 }

/-- A state in which one thing of each kind falls due in the next millisecond. -/
def dueSample : State :=
  { sample with
    cycle := { sample.cycle with clock := 11499 },
    cars := [{ runningCar with timer := some 11500 }, CarRec.start],
    stops := { sample.stops with
      lanterns := [{ panel := 3, slot := 0, state := .linger, dir := .up, deck := some .lower, linger := some 11500 }] },
    prompts := { sample.prompts with
      pool := [{ ticket := 77, panel := 1, dest := 2, slot := 0, deck := none, access := false, lang := .primary,
                 state := .shown, expiry := 11500, merges := 0 }] },
    mode := { sample.mode with
      claims := [{ source := 9, text := 0, expiry := 11500 }],
      quiet := [{ state := .awake, timer := some 11500 }, { state := .awake, timer := some 11501 }],
      lamps := [some 11500, some 11501] },
    schedules := [{ Schedule.start .lobby with pointer := some 1, instants := 1, scroll := some 11500 },
                  { Schedule.start .destination with pointer := none, instants := 1, scroll := some 11501 }],
    links := [{ upLink with inFlight := some { msg := .test true, tag := 9, attempt := 1, expiry := 11500 } },
              { upLink with state := .faulted, reprobe := some 11500 }, upLink] }

/-- Each clause of the second part of StepTakesTheFrontOfTheQueue: what is reached is due, what is a millisecond away or
crossed is not. -/
theorem test_hyp_StepTakesTheFrontOfTheQueue :
    dueSample.tick.pending =
        [.localRestart, .tempoThreshold, .indicationTimerExpiry 0, .lingerExpiry 3 0, .holdExpiry 77,
         .claimWatchExpiry 9, .quietTimerExpiry 0, .lampTestExpiry 0, .scrollExpiry 0, .preloadInstant 0, .showMark 0,
         .linkTimeout 0, .reprobeExpiry 1] ∧
      ({ dueSample with loader := { dueSample.loader with state := .imageFault } } : State).tick.pending =
        [.linkTimeout 0, .reprobeExpiry 1] ∧
      ({ dueSample with cycle := { dueSample.cycle with clock := 11498, crossed := true } } : State).tick.pending =
        [.preloadInstant 0, .showMark 0] := by decide +kernel

/-- A raise takes its item, and no other, out of a queued snapshot. -/
theorem test_hyp_CountsAndItemsStandAlone :
    let snap : Exceptions := { Exceptions.empty with carLost := 3, linkFault := 1 }
    let report (e : ReportEffect) : TxFrame :=
      { payload := .report .exceptions 0 [] e, state := .queued, withdrawn := false, held := 0 }
    let s : State := { sample with bus := { sample.bus with queue := [report (.snapshot snap), report .none] } }
    (s.raise (.carLost 1)).bus.queue =
      [report (.snapshot { snap with carLost := 1 }), report .none] := by decide

theorem test_sample_hears : sample.hears rx := ⟨by decide, by decide, by decide, by decide⟩
theorem test_sample_receives : sample.receivesFrom rx := ⟨by decide, by decide, by decide, by decide⟩
theorem test_sample_knows_first : sample.knows 5 0 firstCar := ⟨by decide, by decide, by decide⟩
theorem test_sample_knows_second : sample.knows 6 1 secondCar := ⟨by decide, by decide, by decide⟩

/-- The invariants hold of the running part too. -/
theorem test_sample_links : sample.linksOk := by
  refine ⟨by decide, fun l h => ?_⟩
  have e : l = upLink ∨ l = LinkRec.start := by
    simpa [sample] using h
  rcases e with rfl | rfl <;>
    exact ⟨by decide, by decide, by decide, by decide, by decide, by decide, (fun f h => by cases h), by decide⟩

theorem test_sample_cars : sample.carsOk := by
  intro r h
  have e : r = parkedCar ∨ r = CarRec.start := by simpa [sample] using h
  rcases e with rfl | rfl <;>
    exact ⟨by decide, by decide, by decide, by decide, by decide, by decide, by decide, by decide⟩

theorem test_sample_pool : sample.poolOk :=
  ⟨by decide, fun _ => Nat.zero_le _, by decide, by decide, by decide, by decide, by decide⟩

theorem test_sample_queue : sample.txOk :=
  ⟨trivial, by decide, by decide, by decide, by decide, by decide, by decide, by decide⟩

/-! ### The load -/

/-- An image of two landings, one car, one LOBBY panel and one show list, without texts. -/
def imageWords : List Nat :=
  [77, 0, 1, 2100, 3, 2, 1, 1, 1, 0, 65535, 1000, 1500, 100, 3000]
  ++ [1000, 10000, 5000, 4000, 2000, 60, 200] ++ [1000, 10000, 5000, 4000, 2000, 60, 200]
  ++ [1000, 10000, 5000, 4000, 2000, 60, 200] ++ [1000, 10000, 5000, 4000, 2000, 60, 200]
  ++ [0, 0, 0x4700, 0, 0, 4000, 0x3100, 0]
  ++ [5, 0x4100, 1, 0]
  ++ [0, 0x0802, 0, 0, 0, 0x0C03, 0x0100, 0, 0, 0, 0, 0, 0]
  ++ [1, 0, 0x0100, 0]
  ++ [1, 0x0101, 0x0201, 0x0300]

/-- The image memory with its check word. -/
def imageMemory : List Word16 := (imageWords ++ [65536 - imageWords.sum % 65536]).map (BitVec.ofNat 16)

/-- The copy that a load gives. -/
def Load.copy : Load → Image
  | .good c _ => c
  | .refused _ _ _ => Image.empty

theorem test_good_load : load imageMemory = .good (Load.copy (load imageMemory)) .kbit125 := by decide +kernel
theorem test_good_load_lc : (Load.copy (load imageMemory)).lc = 2000 ∧ (Load.copy (load imageMemory)).clamped = true := by
  decide +kernel
/-- The same image with the least Lc and a check word of its own: no value is corrected, the Amax marker being no
correction. -/
def plainMemory : List Word16 := imageMemory.set 3 2000 |>.set 76 ((imageMemory.getD 76 0) + 100)

theorem test_hyp_LoadChecksThenCorrects_plain :
    load plainMemory = .good (Load.copy (load plainMemory)) .kbit125 ∧ (Load.copy (load plainMemory)).clamped = false ∧
      (Load.copy (load plainMemory)).amax = 1000 ∧ (Load.copy (load plainMemory)).panels.map (·.warn) = [10] ∧
      (Load.copy (load plainMemory)).landings.map (·.height) = [0, 4000] ∧
      (Load.copy (load plainMemory)).landings.map (·.label) = [[0x47], [0x31]] ∧
      (Load.copy (load plainMemory)).cars = [{ number := 5, label := [0x41], lo := 0, hi := 1, step := 0 }] := by
  decide +kernel

theorem test_good_load_list :
    (Load.copy (load imageMemory)).panels.map (·.list) = [[entry 0 1 0 .floor]] := by decide +kernel

theorem test_hyp_load_length_below : imageLength [14] < 15 := by decide
theorem test_hyp_load_length_above : 8192 < imageLength [8193] := by decide
theorem test_hyp_load_check :
    15 ≤ imageLength [15] ∧ imageLength [15] ≤ 8192 ∧
      ((([15] : List Word16).take (imageLength [15])).map (·.toNat)).sum
        + 65535 * (imageLength [15] - ([15] : List Word16).length) = 917505 ∧ 917505 % 65536 ≠ 0 := by decide
theorem test_hyp_RefusedImageEndsInImageFault :
    State.reset.loader.state = .loading ∧ State.reset.bus.queue = [] ∧ load [] = .refused .length 255 .kbit125 := by decide
theorem test_hyp_RefusedImageEndsInImageFault_link : State.reset.links[7]? = some LinkRec.start := by decide
theorem test_hyp_StructureIsCheckedInOrder :
    15 ≤ imageLength imageMemory ∧ imageLength imageMemory ≤ 8192 ∧
      (readWords imageMemory (imageLength imageMemory)).sum % 65536 = 0 ∧
      (readWords imageMemory (imageLength imageMemory)).structureFault = none := by decide +kernel

/-- The image words with one word changed. -/
def wordsWith (i w : Nat) : Words := (imageWords ++ [0]).set i w

/-- The checks of the counts, as one condition to be decided. -/
theorem countsPass_of (ws : Words)
    (h : (2 ≤ ws.at 5 ∧ ws.at 5 ≤ 160) ∧ ws.at 6 ≤ 16 ∧ ws.at 7 ≤ 8 ∧ ws.at 8 ≤ 8 ∧
      (∀ k, k < ws.at 8 → ws.listPos k + 1 < ws.at 0 ∧ ws.at (ws.listPos k) ≤ 16) ∧ ws.at 9 ≤ 96 ∧
      ws.listPos (ws.at 8) + 4 + 25 * ws.at 9 + 1 ≤ ws.at 0) : ws.countsPass :=
  ⟨h.1, h.2.1, h.2.2.1, h.2.2.2.1, h.2.2.2.2.1, h.2.2.2.2.2.1, h.2.2.2.2.2.2⟩

theorem test_counts_pass : (wordsWith 0 77).countsPass := countsPass_of _ (by decide)

/-- One image for each check of the table that fails, with the row it names. -/
theorem test_hyp_StructureIsCheckedInOrder_rows :
    (wordsWith 1 2).structureFault = some (.header, 255) ∧ (wordsWith 5 1).structureFault = some (.count, 255) ∧
      (wordsWith 68 17).structureFault = some (.count, 0) ∧ (wordsWith 9 97).structureFault = some (.count, 255) ∧
      (wordsWith 48 0).structureFault = some (.heights, 1) ∧ (wordsWith 53 5).structureFault = some (.range, 0) ∧
      (wordsWith 51 33).structureFault = some (.carNumber, 0) ∧
      (wordsWith 55 0x0400).structureFault = some (.panelKind, 0) ∧
      (wordsWith 57 0x0900).structureFault = some (.reference, 0) ∧
      (wordsWith 72 0x0400).structureFault = some (.reference, 128) := by decide

theorem test_hyp_StructureIsCheckedInOrder_first :
    isFirst 2 (fun i => i ≠ 0 ∧ (wordsWith 48 0).height i ≤ (wordsWith 48 0).height (i - 1)) 1 ∧
      isFirst 1 (fun n => 3 < (wordsWith 55 0x0400).panelKind n) 0 ∧
      isFirst 4 (fun k => 3 < (wordsWith 72 0x0400).hi ((wordsWith 72 0x0400).listPos ((wordsWith 72 0x0400).at 8) + k)) 0 :=
  ⟨⟨by decide, by decide, by decide⟩,
    ⟨by decide, by decide, fun j h => absurd h (Nat.not_lt_zero j)⟩,
    ⟨by decide, by decide, fun j h => absurd h (Nat.not_lt_zero j)⟩⟩

/-- The entry's mark is beyond Lc: the list is faulted, and the counts still pass. -/
theorem test_counts_pass_faulted : (wordsWith 69 2100).countsPass := countsPass_of _ (by decide)

theorem test_hyp_ShowListsAreChecked_faulted : ((wordsWith 69 2100).panel 0).listFaulted = true := by decide

theorem test_hyp_ShowListsAreChecked :
    kindOf ((wordsWith 0 77).panelKind 0) = .lobby ∧ (wordsWith 0 77).at ((wordsWith 0 77).listPos 0) = 1 ∧
      ((wordsWith 0 77).panel 0).listFaulted = false := by decide

theorem test_hyp_GoodImageStartsEveryBlock :
    State.reset.loader.state = .loading ∧ State.reset.bus.queue = [] ∧
      load imageMemory = .good (Load.copy (load imageMemory)) .kbit125 :=
  ⟨rfl, rfl, test_good_load⟩

/-! ### RESTART -/

theorem test_hyp_RestartInRunning : sample.hears rx ∧ sample.addressed 255 = true ∧ sample.addressed 40 = true :=
  ⟨test_sample_hears, by decide, by decide⟩

/-- The part after a refused image. -/
def faulted : State :=
  { State.reset with
    loader := { state := .imageFault, fault := some (.length, 255), copy := Image.empty, bitRate := .kbit125 },
    bus := { State.reset.bus with station := 40 } }

theorem test_hyp_RestartInImageFault :
    faulted.receivesFrom rx ∧ faulted.loader.state = .imageFault ∧ faulted.loader.copy = Image.empty ∧
      faulted.addressed 255 = true ∧ faulted.links[7]? = some LinkRec.start :=
  ⟨⟨by decide, by decide, by decide, by decide⟩, by decide, by decide, by decide, by decide⟩

/-- A part without a station number, in LISTEN_ONLY, with a FAULTED link of a panel row and one beyond the rows: a RESTART
keeps LISTEN_ONLY and the second link's LINK_FAULT. -/
theorem test_hyp_RestartInRunning_held :
    let bad : LinkRec := { LinkRec.start with state := .faulted, reprobe := some 20000 }
    let s : State := { sample with
      bus := { sample.bus with station := 0, state := .listenOnly, failCount := 96 },
      links := [bad, upLink, upLink, upLink, bad] ++ List.replicate 3 LinkRec.start,
      status := { sample.status with exceptions := { Exceptions.empty with listenOnly := true, linkFault := 0x11 } } }
    let kept : Option Exceptions := match exec (.restart rx 255) s with
      | .next t => some t.status.exceptions
      | _ => none
    s.receives = true ∧ s.row 0 = some lobby ∧ s.row 4 = none ∧
      kept = some { Exceptions.empty with restarted := true, listenOnly := true, linkFault := 0x10 } := by decide +kernel

/-! ### Frames received -/

theorem test_hyp_FramesAreCheckedInOrder_kinds :
    kindTable 24 3 = some (3, false) ∧ kindTable 24 4 = some (3, true) ∧ kindTable 24 16 = some (3, true) ∧
      kindTable 30 1 = some (3, false) ∧ kindTable 8 2 = some (1, true) ∧ kindTable 16 9 = some (2, true) ∧
      kindTable 1 3 = some (0, true) ∧ kindTable 9 2 = none := by decide

theorem test_hyp_FramesAreCheckedInOrder_check :
    let header : Byte := 0xDA
    let passes := (0 : Byte) ++ (0 : Byte) = crc (header :: 5 :: 2 :: [2, 1])
    ¬ passes := by decide +kernel

theorem test_hyp_FramesAreCheckedInOrder_passes :
    let r := crc [0xDA, 5, 2, 2, 1]
    let r0 := crc [0xDA, 255, 2, 2, 1]
    let r1 := crc [0xFF, 5, 0]
    let r2 := crc [0x1A, 5, 2, 2, 1]
    hiByte r ++ loByte r = r ∧ hiByte r0 ++ loByte r0 = r0 ∧ hiByte r1 ++ loByte r1 = r1 ∧
      hiByte r2 ++ loByte r2 = r2 ∧ kindTable (0xFF % 64) 0 = none ∧ kindTable (0xDA % 64) 2 = some (3, true) ∧
      0x1A / 64 ≠ 3 := by decide +kernel

theorem test_hyp_FramesAreCheckedInOrder_part :
    sample.loader.state ≠ .loading ∧ sample.bus.ignoring = false ∧
      verdict [0xDA, 5, 17] = .bad true ∧ verdict [0xDA] = .bad false ∧ verdict (withCheck [0xFF, 5, 0]) = .ignored := by
  decide +kernel

/-- The part in LISTEN_ONLY. -/
def silent : State := { sample with bus := { sample.bus with state := .listenOnly, failCount := 96 } }

theorem test_hyp_StationClash :
    sample.loader.state ≠ .loading ∧ sample.bus.ignoring = false ∧ sample.validStation = true ∧
      silent.validStation = true ∧ sample.bus.state = .active ∧ silent.bus.state = .listenOnly ∧
      frameRx (.withdraw { source := 40 } 1) = some { source := 40 } ∧
      verdict (withCheck [0xDA, 40, 2, 2, 1]) = .good 40 (.withdraw 0x0201) := by
  decide +kernel

def modeFrame (mode text : Byte) : ModeFrame := { mode := mode, zones := 0x08, text := text }
def motionFrame (motion level doors : Byte) : MotionFrame :=
  { car := 5, position := 4100, velocity := 300, motion := motion, level := level, doors := doors }
def stepFrame (motion : Byte) (delta : Word16) : StepFrame := { car := 5, delta := delta, velocity := 300, motion := motion }
def callsFrame (car deck seq intent : Byte) : CallsFrame :=
  { car := car, deck := deck, seq := seq, intent := intent, stops := [2, 9, 3] }
def assignFrame (ticket : Word16) (dest car deck accessLang : Byte) : AssignFrame :=
  { keypad := 200, ticket := ticket, dest := dest, car := car, deck := deck, accessLang := accessLang }

theorem test_hyp_RefusedFramesAreCounted_codes :
    5 < (6 : Byte).toNat ∧ (modeFrame 0 2).zones.getLsbD sample.loader.copy.zone = true ∧
      sample.loader.copy.texts.length ≤ (2 : Byte).toNat ∧ 3 < (4 : Byte).toNat % 16 ∧ 3 < (0x40 : Byte).toNat / 16 ∧
      secondCar.step ≠ 0 ∧ firstCar.step = 0 := by decide

theorem test_hyp_RefusedFramesAreCounted_assign :
    sample.keypadPanel 201 = none ∧ sample.carSlot 7 = none ∧ sample.loader.copy.landings.length ≤ (5 : Byte).toNat ∧
      4095 < (4096 : Word16).toNat ∧ 2 < (3 : Byte).toNat ∧ 1 < (0x02 : Byte).toNat % 16 ∧ 1 < (0x20 : Byte).toNat / 16 := by
  decide

theorem test_hyp_FramesThatChangeNothing :
    State.reset.loader.state = .loading ∧ sample.addressed 41 = false ∧ sample.carSlot 7 = none ∧
      (modeFrame 1 0).mode.toNat ≤ 5 ∧ (0x07 : Byte).getLsbD sample.loader.copy.zone = false ∧
      (∀ p ∈ sample.prompts.pool, p.ticket ≠ (1 : Word16).toNat) ∧
      ((3 : Byte) - 3).toNat = 0 ∧ 127 < ((2 : Byte) - 3).toNat := by decide

/-! ### Building modes and cars -/

theorem test_hyp_BuildingModeChangesTheRecord :
    sample.hears rx ∧ (modeFrame 0 1).mode.toNat ≤ 5 ∧ (modeFrame 5 9).mode.toNat ≤ 5 ∧
      (modeFrame 0 1).zones.getLsbD sample.loader.copy.zone = true ∧
      ¬ ((modeFrame 0 1).mode = 0 ∧ sample.loader.copy.texts.length ≤ (modeFrame 0 1).text.toNat) ∧
      ¬ ((modeFrame 1 9).mode = 0 ∧ sample.loader.copy.texts.length ≤ (modeFrame 1 9).text.toNat) :=
  ⟨test_sample_hears, by decide⟩

/-- A NOTICE of another text while a notice stands: the level stays, the text changes. -/
theorem test_hyp_BuildingModeChangesTheRecord_text :
    let c : Claim := { source := 5, text := 0, expiry := 12000 }
    let s : State := { sample with mode := { sample.mode with claims := [c], level := .notice } }
    s.mode.claims.any (fun x => x.source == rx.source) = true ∧
      (s.busy.applyMode rx.source 1 .notice).mode.derived = s.mode.level ∧
      (s.busy.applyMode rx.source 1 .notice).mode.claims.getLast?.map (·.text) ≠ s.mode.claims.getLast?.map (·.text) ∧
      (s.busy.applyMode rx.source 0 .notice).mode.claims.getLast?.map (·.text) = s.mode.claims.getLast?.map (·.text) ∧
      (s.busy.applyMode rx.source 1 .evacuate).mode.derived = .evacuate := by decide

theorem test_hyp_CarServiceSetsTheState :
    sample.hears rx ∧ sample.knows 5 0 firstCar ∧ decodeService 0 = some (sample.carRec 0).service ∧
      decodeService 4 = some .inspection ∧ Service.inspection ≠ (sample.carRec 0).service :=
  ⟨test_sample_hears, test_sample_knows_first, by decide⟩

theorem test_hyp_CarMotionIsStored :
    sample.hears rx ∧ sample.knows 5 0 firstCar ∧ sample.knows 6 1 secondCar ∧ decodeMotion 2 = some .runningUp ∧
      decodeMotion 0 = some .parked ∧ (sample.carRec 0).tracking = .tracked ∧
      decodeDoor ((0x21 : Byte).toNat % 16) = some .opening ∧ decodeDoor ((0x21 : Byte).toNat / 16) = some .opened :=
  ⟨test_sample_hears, test_sample_knows_first, test_sample_knows_second, by decide⟩

/-- At 4,100 mm, in the window of landing 1, a level report of landing 2 disagrees and one of landing 1 does not. -/
theorem test_hyp_CarMotionIsStored_disagrees :
    let disagreed (level : Byte) : Option Nat := match exec (.carMotion rx (motionFrame 0 level 0)) sample with
      | .next t => some t.status.counters.levelDisagree
      | _ => none
    copy.boundary 0 ≤ 4100 ∧ 4100 < copy.boundary 1 ∧ disagreed 2 = some 1 ∧ disagreed 1 = some 0 := by decide +kernel

theorem test_hyp_CarStepMovesThePosition :
    sample.hears rx ∧ sample.knows 5 0 firstCar ∧ decodeMotion 4 = some .inspection ∧ (sample.carRec 0).anchor = true ∧
      0 ≤ ((sample.carRec 0).pos : Int) + (100 : Word16).toInt ∧
      ((sample.carRec 0).pos : Int) + (100 : Word16).toInt ≤ 1048575 ∧
      ((sample.carRec 0).pos : Int) + (0x8000 : Word16).toInt < 0 :=
  ⟨test_sample_hears, test_sample_knows_first, by decide⟩

theorem test_hyp_CarStepMovesThePosition_unanchored :
    sample.hears rx ∧ sample.knows 6 1 secondCar ∧ (stepFrame 4 0).motion.toNat ≤ 4 ∧ (sample.carRec 1).anchor = false :=
  ⟨test_sample_hears, test_sample_knows_second, by decide⟩

theorem test_hyp_IndicationFollowsTheRun :
    firstCar.lo ≤ firstCar.hi ∧ copy.height firstCar.lo ≤ copy.height firstCar.hi ∧
      runningCar.indicated = some 1 ∧ runningCar.motion = .runningUp ∧
      firstCar.lo < candidate copy firstCar 4000 ∧ candidate copy firstCar 4000 < firstCar.hi := by decide

/-- The stages of a run: lead ahead of an upward run, the rounding toward zero and the lead of the worked case of 5.18, a
velocity against the motion state, and both ends of the span. -/
theorem test_hyp_IndicationFollowsTheRun_stages :
    let q (tlead : Nat) (m : Motion) (pos : Nat) (v : Int) (age : Nat) : Int :=
      switching { copy with tlead := tlead } firstCar { parkedCar with motion := m, pos := pos, vel := v } age
    q 1500 .runningUp 4000 500 100 = 4800 ∧ q 250 .runningDown 10000 (-4999) 3 = 8737 ∧
      q 250 .runningDown 10000 4999 3 = 10000 ∧ q 250 .inspection 10000 4999 3 = 10000 ∧
      q 1500 .runningUp 11500 500 100 = 12000 ∧ q 1500 .runningDown 100 (-500) 0 = 0 ∧
      q 1500 .parked 20000 0 0 = 12000 := by decide

theorem test_hyp_IndicationFollowsTheRun_hysteresis :
    let at_ (q : Int) := candidate copy firstCar q
    at_ 4000 = 1 ∧ 1 < at_ 6050 ∧ ¬ (copy.boundary (at_ 6050 - 1) : Int) + copy.hyst ≤ 6050 ∧
      1 < at_ 6100 ∧ (copy.boundary (at_ 6100 - 1) : Int) + copy.hyst ≤ 6100 ∧
      at_ 1950 < 1 ∧ ¬ (1950 : Int) < (copy.boundary (at_ 1950) : Int) - copy.hyst ∧
      at_ 1899 < 1 ∧ (1899 : Int) < (copy.boundary (at_ 1899) : Int) - copy.hyst ∧ CarRec.start.indicated = none ∧
      (parkedCar.motion = .parked ∧ ¬ (runningCar.motion = .parked ∨ runningCar.motion = .levelling)) := by decide

/-- Landings by their flags: EXPRESS, HIDDEN (twice), plain, and a sky lobby that carries both flags. -/
def flagged : List Landing :=
  let l := landingAt 0
  [{ l with hidden := true }, { l with express := true, hidden := true }, { l with hidden := true }, l,
   { l with express := true, hidden := true, skyLobby := true }]

theorem test_hyp_IndicationFollowsTheRun_labels :
    (∀ l ∈ flagged[1]?, l.drawsExpress) ∧ (∀ l ∈ flagged[0]?, ¬ l.drawsExpress ∧ l.drawsHidden) ∧
      (∀ l ∈ flagged[2]?, ¬ l.drawsExpress ∧ l.drawsHidden) ∧ (∀ l ∈ flagged[3]?, ¬ l.drawsExpress ∧ ¬ l.drawsHidden) ∧
      (∀ l ∈ flagged[4]?, ¬ l.drawsExpress ∧ ¬ l.drawsHidden) ∧ secondCar.step ≠ 0 ∧ firstCar.step = 0 := by
  unfold Landing.drawsExpress Landing.drawsHidden
  decide

/-- Car slot 0 as its doors open at landing 1. -/
def openingCar : CarRec := { parkedCar with doorLower := .opening }

/-- The part as the car's doors open, with a stop and a prompt for landing 1 and a given lantern record. -/
def opening (r : Lantern) : State :=
  { sample with
    cars := [openingCar, CarRec.start],
    stops := { decks := [{ CarDecks.start with lower := { stops := [1, 2], intent := .up, lastSeq := some 1 } },
                         CarDecks.start],
               lanterns := [r] } }

theorem test_hyp_CarEventsActOnStopsAndPrompts :
    let s := opening darkLantern
    s.loader.copy.cars[0]? = some firstCar ∧ arrivalsOf firstCar parkedCar openingCar = [(.lower, 1)] ∧
      1 ∈ ((s.decksOf 0).get .lower).stops ∧ 3 ∉ ((s.decksOf 0).get .lower).stops ∧
      s.stops.lanterns[0]? = some darkLantern ∧ darkLantern.slot = 0 ∧ s.row darkLantern.panel = some lanternPanel ∧
      destination.kind = .destination ∧ (Deck.lower, destination.landing) ∈ arrivalsOf firstCar
        { parkedCar with level := some 0 } { openingCar with level := some 0 } := by decide

/-- Wakes of an arrival at landing 1, of a departure, and of a door of the upper deck turning OPENING; the lantern panel's
record is lit by its own arrival. -/
theorem test_hyp_CarEventsActOnStopsAndPrompts_wakes :
    wokenBy firstCar 0 parkedCar openingCar lobby = true ∧ wokenBy firstCar 0 parkedCar openingCar destination = false ∧
      wokenBy firstCar 0 parkedCar openingCar { destination with landing := 1 } = true ∧
      wokenBy secondCar 1 parkedCar runningCar carPanel = true ∧
      wokenBy secondCar 1 parkedCar { parkedCar with doorUpper := .opening } carPanel = true ∧
      wokenBy secondCar 1 parkedCar { parkedCar with doorLower := .opening } carPanel = false ∧
      sample.carPanels 0 = [0, 1, 3] ∧ sample.carPanels 1 = [0, 1, 2] ∧
      contentDiffers parkedCar openingCar false = false ∧ contentDiffers parkedCar openingCar true = true ∧
      contentDiffers parkedCar { parkedCar with service := .firefighter } false = true := by decide

theorem test_hyp_CarEventsActOnStopsAndPrompts_quiet :
    let s := opening { darkLantern with panel := 3 }
    let t := ({ s with
      loader := { s.loader with copy := { copy with panels := [lobby, destination, carPanel, { lanternPanel with landing := 1 }] } },
      mode := { s.mode with quiet := List.replicate 4 { state := .dim, timer := some 60000 } } } : State).raiseCarEvent
        0 parkedCar openingCar false
    t.mode.quiet = [{ state := .awake, timer := some 70000 }, { state := .dim, timer := some 60000 },
      { state := .dim, timer := some 60000 }, { state := .awake, timer := some 70000 }] := by decide +kernel

theorem test_hyp_CarEventsActOnStopsAndPrompts_leave :
    (runningCar.motion = .runningUp ∧ ¬ (parkedCar.motion = .runningUp ∨ parkedCar.motion = .runningDown)) ∧
      (parkedCar.tracking ≠ .lost ∧ ({ parkedCar with tracking := .lost } : CarRec).tracking = .lost) ∧
      (parkedCar.service = .normal ∧ ({ parkedCar with service := .inspection } : CarRec).service ≠ .normal) := by decide

/-- What the lantern panel's record of car slot 0 is judged by, the car running up to landing 2. -/
def approaching (m : Motion) (decks : CarDecks) : LanternView :=
  { copy := copy, landing := 2, car := firstCar,
    carRec := { parkedCar with motion := m, indicated := some 1, q := some 6000, vel := 500 }, decks := decks,
    now := 10000, linger := 2000, openUpper := false }

def stopsAtTwo : CarDecks := { CarDecks.start with lower := { stops := [2], intent := .up, lastSeq := some 1 } }

theorem test_hyp_LanternsFollowTheirCars_announce :
    let v := approaching .runningUp stopsAtTwo
    v.carRec.tracking = .tracked ∧ nextStop v.car v.carRec v.decks .lower = some v.landing ∧
      nextStop v.car v.carRec v.decks .upper ≠ some v.landing ∧ v.carRec.indicatedOf v.car .lower = some 1 ∧
      ((v.copy.height 2 : Int) - 6000).natAbs ≤ v.copy.announce ∧
      nextStop v.car v.carRec CarDecks.start .lower = none := by decide

theorem test_hyp_LanternsFollowTheirCars_level :
    let v : LanternView := { approaching .parked stopsAtTwo with landing := 1 }
    v.carRec.levelAt v.car .lower = some v.landing ∧ v.carRec.door .lower = .closed ∧ v.linger ≠ 0 ∧
      ({ v.carRec with doorLower := .opened } : CarRec).door .lower ≠ .closed ∧
      (approaching .parked stopsAtTwo).carRec.levelAt firstCar .lower ≠ some 2 := by decide

/-- A LINGER record whose deck is level, and one whose deck has left. -/
theorem test_hyp_LanternsFollowTheirCars_linger :
    let v : LanternView := { approaching .parked stopsAtTwo with landing := 1 }
    let r : Lantern :=
      { panel := 3, slot := 0, state := .linger, dir := .up, deck := some .lower, linger := some 12000 }
    v.carRec.tracking = .tracked ∧ r.state = .linger ∧ r.deck = some .lower ∧
      v.carRec.levelAt v.car .lower = some v.landing ∧ v.evaluate none r = .stay r ∧
      (approaching .parked stopsAtTwo).carRec.levelAt firstCar .lower ≠ some 2 ∧
      (approaching .parked stopsAtTwo).evaluate none r = .darken r := by decide

/-- An ANNOUNCED record whose two decks hold with the car at rest: landing 2 is the next stop of both. -/
theorem test_hyp_LanternsFollowTheirCars_both :
    let v : LanternView := { approaching .parked
      { lower := { stops := [2], intent := .up, lastSeq := some 1 },
        upper := { stops := [2], intent := .down, lastSeq := some 1 } } with car := secondCar }
    let r : Lantern :=
      { panel := 3, slot := 0, state := .announced, dir := .up, deck := some .lower, linger := none }
    v.carRec.tracking = .tracked ∧ v.carRec.motion = .parked ∧ v.car.step ≠ 0 ∧ r.state = .announced ∧
      nextStop v.car v.carRec v.decks .lower = some v.landing ∧
      nextStop v.car v.carRec v.decks .upper = some v.landing := by decide

theorem test_hyp_CarCallsReplaceTheStopSet :
    sample.hears rx ∧ sample.knows 6 1 secondCar ∧ decodeCallsDeck 1 = some .upper ∧
      ¬ (Deck.upper = .upper ∧ secondCar.step = 0) ∧ decodeIntent 2 = some .down ∧
      ((sample.decksOf 1).get .upper).lastSeq = none ∧
      1 ≤ ((127 : Byte) - 0).toNat ∧ ((127 : Byte) - 0).toNat ≤ 127 :=
  ⟨test_sample_hears, test_sample_knows_second, by decide⟩

theorem test_hyp_CarCallsReplaceTheStopSet_told :
    let old := (sample.decksOf 0).get .lower
    old.intent ≠ .up ∧ (sample.carRec 0).tracking = .tracked ∧ (sample.carRec 0).anchor = true ∧
      (sample.carRec 0).motion.atRest = true ∧ 0 < sample.stops.decks.length ∧ (sample.carRec 0).arrow ≠ .up ∧
      old.intent = Dir.none ∧ old.stops = [] ∧ sample.stops.lanterns[0]? = some darkLantern ∧ darkLantern.slot = 0 ∧
      sample.row darkLantern.panel = some lanternPanel ∧ ({ darkLantern with slot := 1 } : Lantern).slot ≠ 0 := by decide

/-! ### Prompts -/

def prompt (ticket dest : Nat) (st : PromptState) : Prompt :=
  { panel := 1, ticket := ticket, dest := dest, slot := 0, deck := none, access := false, lang := .primary, state := st,
    expiry := 10000, merges := 1 }

/-- The part with prompts on the DESTINATION panel. -/
def prompted (pool : List Prompt) : State := { sample with prompts := { sample.prompts with pool := pool } }

def twelvePrompts : List Prompt := (List.range 12).map (fun n => prompt n n .shown)

def placed : Placed := { panel := 1, ticket := 20, dest := 3, slot := 0, deck := none, access := false, lang := .primary }

theorem test_hyp_AssignIsPlaced :
    sample.testAssign (assignFrame 20 3 5 2 0) = none ∧ sample.testAssign (assignFrame 20 3 5 0 0) = some placed ∧
      sample.row placed.panel = some destination := by decide

/-- Every field at its far end: the last ticket and landing, the upper deck of a car with a deck step, both flags set. -/
theorem test_hyp_AssignIsPlaced_decoded :
    sample.testAssign (assignFrame 4095 4 6 2 0x11) =
        some { panel := 1, ticket := 4095, dest := 4, slot := 1, deck := some .upper, access := true, lang := .secondary } ∧
      sample.testAssign (assignFrame 4096 4 6 2 0x11) = none ∧ sample.testAssign (assignFrame 4095 5 6 2 0x11) = none ∧
      sample.testAssign (assignFrame 4095 4 6 3 0x11) = none ∧ sample.testAssign (assignFrame 4095 4 6 2 0x12) = none ∧
      sample.keypadPanel 200 = some 1 ∧ sample.carSlot 6 = some 1 := by decide

/-- A pool of three entries, two of one panel, landing and car that differ in deck, meets both invariants. -/
theorem test_hyp_EveryStepKeepsThePool :
    let s := prompted [prompt 7 3 .shown, { prompt 8 3 .boarding with deck := some .lower },
      { prompt 9 3 .reassign with slot := 1 }]
    s.poolOk ∧ s.promptsFit :=
  ⟨⟨by decide, fun n => Nat.le_trans (List.length_filter_le _ _) (by decide), by decide, by decide, by decide, by decide,
     by decide⟩, by
    intro p hp
    simp only [prompted, List.mem_cons, List.not_mem_nil, or_false] at hp
    rcases hp with rfl | rfl | rfl <;> decide⟩

theorem test_hyp_AssignIsPlaced_branches :
    (prompted [prompt 7 3 .shown]).prompts.pool.find? placed.mergesWith = some (prompt 7 3 .shown) ∧
      (prompted []).prompts.pool.find? placed.mergesWith = none ∧
      evictionFor (prompted []).prompts.pool 1 = none ∧
      (twelvePrompts.filter (fun p => p.dest != 3)).find? placed.mergesWith = none ∧
      evictionFor (twelvePrompts.map (fun p => { p with dest := 4 })) 1 = some { prompt 0 0 .shown with dest := 4 } := by
  decide

theorem test_hyp_AssignIsPlaced_quiet :
    sample.mode.level ≠ .evacuate ∧ sample.mode.quiet[placed.panel]? = some { state := .awake, timer := some 60000 } := by
  decide

theorem test_hyp_AssignIsPlaced_eviction :
    twelvePrompts.length ≤ 48 ∧ (onPanel 1 twelvePrompts).length = 12 ∧ (onPanel 1 [prompt 1 1 .shown]).length < 12 := by
  decide

theorem test_hyp_WithdrawAndHoldExpiry : sample.hears rx ∧ sample.loader.state = .running :=
  ⟨test_sample_hears, by decide⟩

theorem test_hyp_LoadLevelHasHysteresis :
    (12 : Nat) ≤ 12 ∧ 4 ≤ 4 ∧ 12 ≤ 12 ∧ (1 : Nat) + 2 < 4 ∧ 4 ≤ 2 + 2 ∧ 2 < 4 ∧ 11 ≤ 11 := by decide

theorem test_hyp_LoadLevelHasHysteresis_report :
    let s := prompted twelvePrompts
    s.row 1 = some destination ∧ loadLevel (onPanel 1 s.prompts.pool).length destination.warn (s.levelOf 1) ≠ s.levelOf 1 ∧
      loadLevel (onPanel 1 sample.prompts.pool).length destination.warn (sample.levelOf 1) = sample.levelOf 1 := by
  decide

theorem test_hyp_PageFillsThePanel : sample.row 0 = some lobby ∧ 1 ≤ lobby.lines ∧ 1 ≤ lobby.width := by decide

/-- The levels of a page: a notice on two lines and on one, and an evacuation with its text. -/
theorem test_hyp_PageFillsThePanel_levels :
    let short : PanelRow := { lobby with lines := 1 }
    let s : State := { sample with
      loader := { sample.loader with copy := { copy with panels := [short] } },
      mode := { sample.mode with
        claims := [{ source := 9, text := 1, expiry := 12000 }], evacText := some 0, level := .notice } }
    s.row 0 = some short ∧ short.lines < 2 ∧ 2 ≤ lobby.lines ∧ s.schedules[0]? = some (Schedule.start .lobby) ∧
      s.mode.claims.getLast?.map (·.text) = some 1 ∧ sample.mode.claims.getLast?.map (·.text) = none ∧
      s.mode.evacText = some 0 ∧ sample.mode.evacText = none ∧ s.mode.level = .notice ∧ sample.mode.level = .normal ∧
      short.kind ≠ .lantern ∧ lanternPanel.kind = .lantern ∧ carPanel.kind = .car := by decide

/-- FLOOR pages: the LOBBY panel has room for its two cars, one line of it for one only; a landing that the upper deck of
the second car serves alone. -/
theorem test_hyp_FloorPagesShowTheCars :
    let room (row : PanelRow) := max 1 ((row.width + 1) / 9) * row.lines
    let cars : List (Nat × Deck) := [(0, .lower), (1, .lower)]
    lobby.kind ≠ .lantern ∧ lobby.kind = .lobby ∧ cars.map (·.1) = lobby.cars ∧ cars.length ≤ room lobby ∧
      room { lobby with lines := 1 } < cars.length ∧
      (cars.take 1).map (fun c => sample.cell c.1 c.2) = [] ++ [sample.cell 0 .lower] ∧
      sample.loader.copy.cars[1]? = some secondCar ∧ 0 < secondCar.step ∧ secondCar.lo + secondCar.step ≤ 3 ∧
      3 ≤ secondCar.hi + secondCar.step ∧ ¬ (secondCar.lo ≤ 3 ∧ 3 ≤ secondCar.hi) ∧
      ¬ ¬ (secondCar.lo ≤ lobby.landing ∧ lobby.landing ≤ secondCar.hi) ∧
      destination.kind = .destination ∧ cars.map (·.1) = List.range sample.loader.copy.cars.length := by decide

theorem test_hyp_FloorPagesShowTheCars_cells :
    let s (t : Tracking) : State := { sample with cars := [{ parkedCar with tracking := t }, CarRec.start] }
    ((s .tracked).carRec 0).tracking = .tracked ∧ ((s .stale).carRec 0).tracking = .stale ∧
      ((s .lost).carRec 0).tracking = .lost ∧ (sample.carRec 1).tracking = .unknown := by decide

theorem test_hyp_ItemPagesShowTheLists :
    sample.loader.copy.cars[carPanel.slot]? = some secondCar ∧ runningCar.motion = .runningUp ∧
      runningCar.indicatedOf firstCar .lower = some 1 ∧ parkedCar.motion = .parked ∧
      (CarDecks.start.get .lower).intent ≠ .up ∧ (CarDecks.start.get .lower).intent ≠ .down ∧
      (stopsAtTwo.get .lower).intent = .up ∧ CarRec.start.indicatedOf firstCar .lower = none := by decide

/-! ### The transmit queue -/

def senseFrame (st : AttemptState) (withdrawn : Bool) (held : Nat) : TxFrame :=
  { payload := .sense 3 1 7 400, state := st, withdrawn := withdrawn, held := held }
def loadFrame (st : AttemptState) : TxFrame := { payload := .panelLoad 1 .full 12, state := st, withdrawn := false, held := 0 }
def tempoFrame (st : AttemptState) : TxFrame := { payload := .tempo 8 .inStep, state := st, withdrawn := false, held := 0 }
def reportFrame (kind : QueryKind) (part : Nat) (effect : ReportEffect) (withdrawn : Bool) : TxFrame :=
  { payload := .report kind part [] effect, state := .sending, withdrawn := withdrawn, held := 0 }

/-- The part with a transmit queue, the bus being free. -/
def queued (q : List TxFrame) : State := { sample with bus := { sample.bus with queue := q, busFree := true } }

theorem test_hyp_RequestsAreAnsweredInOrder :
    silent.bus.state = .listenOnly ∧ faulted.bus.state = .active ∧ faulted.loader.state = .imageFault ∧
      (TxPayload.panelLoad 1 .full 12).header ≠ 222 ∧ (TxPayload.tempo 8 .inStep).header = 72 ∧
      (∀ g ∈ (queued [loadFrame .queued]).bus.queue, g.isTempo = false) ∧
      (∃ g ∈ (queued [loadFrame .queued]).bus.queue, g.takes (.panelLoad 1 .open_ 3) = true) ∧
      (∀ g ∈ (queued (List.replicate 7 (loadFrame .sending))).bus.queue, g.takes (.panelLoad 1 .open_ 3) = false) ∧
      7 ≤ frameCount TxFrame.shared (List.replicate 7 (loadFrame .sending)) ∧
      frameCount TxFrame.shared [loadFrame .sending] < 7 := by decide

theorem test_hyp_AttemptStartsWhenReady :
    let s := queued [tempoFrame .queued, loadFrame .queued]
    s.bus.busFree = true ∧ s.bus.state = .active ∧ s.bus.queue = tempoFrame .queued :: [loadFrame .queued] ∧
      (∀ g ∈ s.bus.queue, g.state = .queued) ∧ s.loader.state = .running ∧
      (∃ g ∈ (queued [loadFrame .sending]).bus.queue, g.state ≠ .queued) ∧ sample.bus.busFree = false ∧
      (∀ g ∈ faulted.bus.queue, g.payload.header ≠ 222) ∧ (queued []).bus.queue = [] ∧ silent.bus.state = .listenOnly ∧
      State.reset.loader.state = .loading ∧ (reportFrame .cars 0 .none false).payload.header = 222 ∧
      faulted.loader.state = .imageFault := by decide

/-- A millisecond at the watch threshold with a TEMPO queued on a free bus: the attempt begins, and it is not a command
that the local restart ahead of it could leave without its frame. -/
theorem test_tick_begins_the_attempt :
    let s : State := { queued [tempoFrame .queued] with cycle := { sample.cycle with clock := 11499, pendingTempo := true } }
    s.tick.bus.queue = [tempoFrame .contending] ∧ s.tick.bus.busFree = false ∧
      s.tick.pending.contains .localRestart = true ∧ s.tick.pending.contains .attemptStart = false := by decide +kernel

theorem test_hyp_AttemptsThatDoNotComplete_lost :
    (queued [loadFrame .contending]).frameIn .contending = some (loadFrame .contending) ∧
      (queued [senseFrame .contending true 0]).frameIn .contending = some (senseFrame .contending true 0) := by decide

theorem test_hyp_AttemptsThatDoNotComplete_failed :
    (queued [senseFrame .sending false 3]).attempting = some (senseFrame .sending false 3) ∧
      (queued [senseFrame .contending true 0]).attempting = some (senseFrame .contending true 0) ∧
      96 ≤ min 255 (92 + 4) ∧ ¬ 96 ≤ min 255 (91 + 4) ∧ sample.bus.state = .active := by decide

theorem test_hyp_AttemptsThatDoNotComplete_silenced : sample.mode.captures[3]? = some { armed := true, latest := none } := by decide

theorem test_hyp_PanelLoadAndSenseComplete :
    (queued [loadFrame .sending]).frameIn .sending = some (loadFrame .sending) ∧
      (queued [senseFrame .sending false 0]).frameIn .sending = some (senseFrame .sending false 0) := by decide

theorem test_hyp_PanelLoadAndSenseComplete_held :
    let s : State := { queued [senseFrame .sending false 2] with
      mode := { sample.mode with captures := List.replicate 4 { armed := false, latest := some (7, 900) } } }
    s.frameIn .sending = some (senseFrame .sending false 2) ∧ (senseFrame .sending false 2).held ≠ 0 ∧
      s.mode.captures[3]? = some { armed := false, latest := some (7, 900) } ∧
      (∀ g ∈ s.bus.queue.filter (fun g => g.state != AttemptState.sending), g.takes (.sense 3 2 7 900) = false) := by
  decide

theorem test_hyp_ReportCompletionsClear :
    let snap := { Exceptions.empty with powerUp := true }
    let f := reportFrame .exceptions 0 (.snapshot snap) false
    let q : Query := { kind := .exceptions, clear := true, part := 0, part0 := [] }
    let s : State := { queued [f] with status := { sample.status with query := some q } }
    s.frameIn .sending = some f ∧ s.status.query = some q ∧ q.kind = .exceptions := by decide

theorem test_hyp_ReportCompletionsClear_lower :
    let f := reportFrame .counters 1 (.lower (List.replicate 6 1 ++ List.replicate 6 2)) false
    let q : Query := { kind := .counters, clear := true, part := 1, part0 := List.replicate 6 1 }
    let s : State := { queued [f] with status := { sample.status with query := some q } }
    s.frameIn .sending = some f ∧ (List.replicate 6 1).length = 6 ∧ s.status.query = some q ∧ q.part ≠ 0 := by decide

theorem test_hyp_ReportCompletionsClear_next :
    let f := reportFrame .cars 0 .none false
    let q : Query := { kind := .cars, clear := false, part := 0, part0 := [] }
    let s : State := { queued [f] with status := { sample.status with query := some q } }
    s.frameIn .sending = some f ∧ s.nextPart q = some 1 ∧ s.bus.state = .active ∧
      frameCount TxFrame.shared (s.bus.queue.filter (fun g => g.state != AttemptState.sending)) < 7 := by decide

theorem test_hyp_ReportCompletionsClear_counters :
    let f := reportFrame .counters 0 .none false
    let q : Query := { kind := .counters, clear := true, part := 0, part0 := List.replicate 6 1 }
    let s : State := { queued [f] with status := { sample.status with query := some q } }
    s.frameIn .sending = some f ∧ s.nextPart q = some 1 ∧ s.nextPart { q with clear := false, part := 1 } = none ∧
      ([.framesBad] : List Counter)[0]? = some .framesBad := by decide

theorem test_hyp_StatusQueryRequestsTheReport :
    sample.receivesFrom rx ∧ sample.addressed 40 = true ∧ decodeQueryKind 0 = some .exceptions ∧
      decodeQueryKind 1 = some .counters ∧ decodeQueryKind 2 = some .cars ∧ decodeClear 1 = some true ∧
      sample.status.query = none ∧ sample.bus.state = .active ∧ silent.bus.state = .listenOnly ∧
      frameCount TxFrame.shared sample.bus.queue < 7 ∧ sample.loader.fault = none ∧
      faulted.loader.fault = some (.length, 255) ∧ faulted.loader.copy.cars = [] ∧ sample.loader.copy.cars ≠ [] ∧
      sample.cycle.lastTempo = none :=
  ⟨test_sample_receives, by decide⟩

/-- A query is superseded: its report in the queue goes, and leaves the shared slots full of other frames. -/
theorem test_hyp_StatusQueryRequestsTheReport_supersedes :
    let g := { reportFrame .cars 0 .none false with state := .queued }
    let q : Query := { kind := .cars, clear := false, part := 0, part0 := [] }
    let s : State := { queued (List.replicate 7 (senseFrame .queued false 0) ++ [g]) with
      status := { sample.status with query := some q } }
    s.receivesFrom rx ∧ s.status.query ≠ none ∧
      7 ≤ frameCount TxFrame.shared (s.bus.queue.filter
        (fun g => !(g.payload.header == 222 && !g.withdrawn && g.state == AttemptState.queued))) :=
  ⟨⟨by decide, by decide, by decide, by decide⟩, by decide, by decide⟩

/-! ### The cycle and the timers -/

theorem test_hyp_TempoHeardStartsACycle :
    sample.hears rx ∧ faulted.receivesFrom rx ∧ faulted.loader.state = .imageFault ∧ silent.validStation = true :=
  ⟨test_sample_hears, ⟨by decide, by decide, by decide, by decide⟩, by decide⟩

theorem test_hyp_OwnTempoIsHeard :
    (queued [tempoFrame .sending]).loader.state = .running ∧
      (queued [tempoFrame .sending]).frameIn .sending = some (tempoFrame .sending) ∧
      (tempoFrame .sending).payload = .tempo 8 .inStep ∧
      frameCount TxFrame.isTempo (queued [tempoFrame .sending]).bus.queue = 1 := by decide

/-- A pending TEMPO, queued and on the bus, as a cycle start withdraws it. -/
theorem test_hyp_TempoHeardStartsACycle_pending :
    let s (st : AttemptState) : State := { queued [tempoFrame st] with cycle := { sample.cycle with pendingTempo := true } }
    (s .queued).cycle.pendingTempo = true ∧ (s .queued).withdrawTempo.bus.queue = [] ∧
      (s .sending).withdrawTempo.bus.queue = [{ tempoFrame .sending with withdrawn := true }] ∧
      (s .contending).withdrawTempo.cycle.pendingTempo = true := by decide

/-- The part with a given cycle time. -/
def atCt (ct : Nat) : State := { sample with cycle := { sample.cycle with clock := 9000 + BitVec.ofNat 32 ct } }

theorem test_hyp_TempoThreshold :
    (atCt 2000).loader.copy.lc ≤ (atCt 2000).ct ∧ (atCt 2000).cycle.crossed = false ∧
      (atCt 2000).loader.copy.tempoEligible = true ∧ (atCt 2000).bus.state = .active ∧
      (∀ g ∈ (atCt 2000).bus.queue, g.isTempo = false) := by decide

theorem test_hyp_LocalRestart :
    (atCt 2500).loader.state = .running ∧
      (atCt 2500).loader.copy.lc + (atCt 2500).loader.copy.lc / 4 ≤ (atCt 2500).ct ∧
      (atCt 2500).cars[1]? = some CarRec.start ∧ (atCt 2500).loader.copy.cars[1]? = some secondCar := by decide

theorem test_hyp_CycleStart_counts : sample.status.counters.skippedMarks ≤ 65535 := by decide

/-- The LOBBY panel, its preload pending, with one entry that matched the old count and was not reached. -/
theorem test_hyp_CycleStartSkipsMarks :
    let pre : Preload := { entry := 1, page := .text 0, content := some [[]], state := .loading, load := 1 }
    let sc : Schedule := { Schedule.start .lobby with pointer := some 1, preload := some pre }
    let s : State := { sample with schedules := [sc] }
    s.row 0 = some lobby ∧ s.schedules[0]? = some sc ∧ sc.preload = some pre ∧ pre.state = .loading ∧
      s.suspended lobby = false ∧ s.skippedOf 0 7 = 1 ∧
      ({ cause := .heard, base := 9000, count := 8, endedCt := some 2100 } : CycleStart).cause ≠ .start := by decide

/-- A car with no frame heard in a cycle, and a car state change event's two cases. -/
theorem test_hyp_CycleStartSkipsMarks_silence :
    (atCt 2500).loader.copy.cars[1]? = some secondCar ∧ (atCt 2500).cars[1]? = some CarRec.start := by decide

theorem test_hyp_eventTaken :
    CarRec.start.differs { CarRec.start with anchor := true } ∧ ¬ CarRec.start.differs CarRec.start := by
  unfold CarRec.differs; decide

theorem test_hyp_IndicationTimerExpires :
    let s : State := { sample with cars := [runningCar, CarRec.start] }
    s.loader.copy.cars[0]? = some firstCar ∧ s.cars[0]? = some runningCar ∧ runningCar.timer = some 9900 ∧
      reached 9900 s.cycle.clock = true ∧ runningCar.tracking = .tracked ∧ runningCar.anchor = true := by decide

def lingering : Lantern := { darkLantern with state := .linger, dir := .up, deck := some .lower, linger := some 10000 }

theorem test_hyp_LingerExpiry :
    let s : State := { sample with stops := { sample.stops with lanterns := [lingering] } }
    s.stops.lanterns[0]? = some lingering ∧ lingering.panel = 3 ∧ lingering.slot = 0 ∧ lingering.state = .linger ∧
      lingering.linger = some 10000 ∧ reached 10000 s.cycle.clock = true ∧
      (∀ (other : Nat) (q : Lantern), s.stops.lanterns[other]? = some q → q.panel = 3 → q.slot = 0 → other = 0) := by
  refine ⟨by decide, by decide, by decide, by decide, by decide, by decide, fun other q h _ _ => ?_⟩
  cases other with
  | zero => rfl
  | succ n => cases h

theorem test_hyp_LevelChangesReachEveryPanel_claim :
    let c : Claim := { source := 9, text := 1, expiry := 10000 }
    let s : State := { sample with mode := { sample.mode with claims := [c], level := .notice } }
    let d : Claim := { c with source := 8, text := 0, expiry := 12000 }
    s.loader.state = .running ∧ c ∈ s.mode.claims ∧ reached c.expiry s.cycle.clock = true ∧
      ([c].filter (fun x => x.source != c.source)) = [] ∧
      ([d, c].filter (fun x => x.source != c.source)).getLast?.map (·.text) ≠ [d, c].getLast?.map (·.text) ∧
      ([c, d].filter (fun x => x.source != c.source)).getLast?.map (·.text) = [c, d].getLast?.map (·.text) := by decide

/-- The part at a level, with a quiet record and a lamp test of the LOBBY panel. -/
def leveled (level : Level) (q : QuietRec) (lamp : Option Clock) : State :=
  { sample with mode := { sample.mode with level := level, quiet := [q], lamps := [lamp] } }

theorem test_hyp_LevelChangesReachEveryPanel :
    let dark : QuietRec := { state := .dark, timer := none }
    let s := leveled .evacuate dark (some 12000)
    Level.night ≠ .evacuate ∧ s.mode.level = .evacuate ∧ s.row 0 = some lobby ∧ s.mode.quiet[0]? = some dark ∧
      s.mode.lamps[0]? = some (some 12000) ∧ s.isDark 0 = true ∧
      (leveled .notice { dark with state := .dim } none).mode.level = .notice ∧
      (leveled .normal dark none).mode.level = .normal ∧ s.schedules[0]? = some (Schedule.start .lobby) ∧
      lanternPanel.kind = .lantern := by decide

theorem test_hyp_QuietTimerExpires :
    sample.row 0 = some lobby ∧ sample.mode.quiet[0]? = some { state := .awake, timer := some 60000 } ∧
      reached 60000 (60000 : Clock) = true ∧ reached 60000 sample.cycle.clock = false ∧ lobby.mayDark = true ∧ Quiet.awake ≠ .dark := by decide

theorem test_hyp_QuietTimerExpires_dark :
    let s := leveled .night { state := .dim, timer := some 10000 } none
    s.row 0 = some lobby ∧ s.mode.quiet[0]? = some { state := .dim, timer := some 10000 } ∧ Quiet.dim ≠ .dark ∧
      reached 10000 s.cycle.clock = true ∧ s.mode.level = .night ∧ lobby.mayDark = true := by decide

theorem test_hyp_ContentChangesHandThePage_scroll :
    let sc : Schedule := { Schedule.start .destination with page := .prompts, scroll := some 10000 }
    let s : State := { prompted [prompt 1 1 .shown, prompt 2 2 .shown, prompt 3 3 .shown] with
      schedules := [Schedule.start .lobby, sc] }
    s.row 1 = some destination ∧ s.schedules[1]? = some sc ∧ sc.scroll = some 10000 ∧
      reached 10000 s.cycle.clock = true ∧ s.suspended destination = false ∧ 1 ≤ s.itemLines destination ∧
      s.itemLines destination < s.itemCount 1 destination sc.page := by decide

theorem test_hyp_ContentChangesHandThePage :
    let sc : Schedule := { Schedule.start .lobby with page := .floor }
    let pre : Preload := { entry := 1, page := .text 0, content := some [[]], state := .loading, load := 1 }
    let same : Schedule := { sc with last := some (sample.compose 0 .floor 0), preload := some pre }
    let s : State := { sample with schedules := [sc] }
    let t : State := { sample with schedules := [same] }
    s.row 0 = some lobby ∧ s.schedules[0]? = some sc ∧ s.isDark 0 = false ∧ s.linkUp 0 = true ∧
      sc.last ≠ some (s.compose 0 sc.page (s.settledSched 0 lobby sc).index) ∧
      same.last = some (t.compose 0 same.page (t.settledSched 0 lobby same).index) ∧
      pre.state ≠ .waiting ∧ pre.content ≠ some (t.compose 0 pre.page 0) ∧
      (leveled .night { state := .dark, timer := none } none).isDark 0 = true := by decide

/-! ### Sense lines -/

theorem test_hyp_sense_lines :
    (copy.senses.map (·.function)) = [.wake, .test, .language, .report] ∧ sample.loader.copy.senses[0]? = copy.senses[0]? ∧
      sample.mode.level ≠ .evacuate ∧ (0x01 : Byte).getLsbD 0 = true ∧ (0x01 : Byte).getLsbD 7 = false ∧
      (0x02 : Byte).getLsbD 1 = true ∧ sample.mode.lamps[1]? = some none ∧
      sample.mode.quiet[1]? = some { state := .awake, timer := some 60000 } := by decide

theorem test_hyp_WakeLineWakesItsPanels_dark :
    let s : State := { sample with mode := { sample.mode with quiet := [{ state := .dark, timer := none }] } }
    s.mode.quiet[0]? = some { state := .dark, timer := none } ∧ s.links[0]? = some upLink ∧
      s.schedules[0]? = some (Schedule.start .lobby) ∧ upLink.state = .up ∧ upLink.inFlight = none ∧
      upLink.queue = [] := by decide

theorem test_hyp_LampTestsRunAndEnd :
    let s : State := { sample with mode := { sample.mode with lamps := [none, some 10000] } }
    s.mode.lamps[1]? = some (some 10000) ∧ reached 10000 s.cycle.clock = true := by decide

theorem test_hyp_LanguageAndReportLines :
    (∀ g ∈ sample.bus.queue, g.takes (.sense 3 1 sample.cycle.count sample.ct) = false) ∧
      (∃ g ∈ (queued [senseFrame .queued false 0]).bus.queue, g.takes (.sense 3 1 7 1000) = true) ∧
      (queued [senseFrame .queued false 0]).ct = 1000 ∧
      (let q := List.replicate 7 (loadFrame .queued)
       (∀ g ∈ q, g.takes (.sense 3 1 7 1000) = false) ∧ 7 ≤ frameCount TxFrame.shared q) := by decide

theorem test_hyp_LanguageAndReportLines_pins :
    sample.mode.pins[0]? = some false ∧ (sample.row 0).isSome = true ∧ (0x01 : Byte).getLsbD 1 = false ∧
      silent.loader.copy.senses[3]? = some { function := .report, mask := 0 } := by decide

/-! ### The show -/

/-- The LOBBY panel shows FLOOR, its pointer at its second entry (a TEXT page at 500 in odd counts). -/
def shown (sc : Schedule) (ct : Nat) : State := { atCt ct with schedules := [sc] }
def floorShown : Schedule := { Schedule.start .lobby with page := .floor, pointer := some 1, instants := 1 }

theorem test_hyp_PreloadInstantLoadsThePage :
    let s := shown floorShown 300
    s.row 0 = some lobby ∧ s.schedules[0]? = some floorShown ∧ lobby.list[1]? = some (entry 500 2 1 (.text 0)) ∧
      s.cycle.count.toNat % 2 = 1 ∧ 500 - (s.timing lobby).lead ≤ s.ct ∧ s.isDark 0 = false ∧ s.linkUp 0 = true ∧
      s.suspended lobby = false ∧ floorShown.preload = none ∧ floorShown.flip = none ∧ Page.text 0 ≠ floorShown.page ∧
      lobby.list[1 + 1]? = none := by decide

theorem test_hyp_PreloadInstantLoadsThePage_others :
    let pre : Preload := { entry := 0, page := .floor, content := none, state := .waiting, load := 0 }
    let flipping := shown { floorShown with flip := some 2 } 300
    let pending := shown { floorShown with preload := some pre } 300
    flipping.schedules[0]? = some { floorShown with flip := some 2 } ∧ floorShown.preload = none ∧
      pending.schedules[0]? = some { floorShown with preload := some pre } ∧
      (shown { floorShown with page := .text 0 } 300).row 0 = some lobby ∧
      (leveled .night { state := .dark, timer := none } none).isDark 0 = true ∧
      ({ floorShown with waiting := [1] } : Schedule).waiting = [1] := by decide

theorem test_hyp_MarkMakesThePageCurrent :
    let pre : Preload := { entry := 1, page := .text 0, content := some [[]], state := .loaded, load := 1 }
    let s := shown { floorShown with preload := some pre } 500
    s.row 0 = some lobby ∧ s.schedules[0]? = some { floorShown with preload := some pre } ∧
      lobby.list[1]? = some (entry 500 2 1 (.text 0)) ∧ s.cycle.count.toNat % 2 = 1 ∧ 500 ≤ s.ct ∧
      nextMatch s.cycle.count (lobby.list.drop (1 + 1)) (1 + 1) = none ∧ s.suspended lobby = false ∧
      pre.content = some [[]] ∧ pre.state ≠ .waiting ∧ s.isDark 0 = false := by decide

theorem test_hyp_MarkMakesThePageCurrent_others :
    let other : Preload := { entry := 0, page := .floor, content := none, state := .waiting, load := 0 }
    let own : Preload := { entry := 1, page := .text 0, content := none, state := .waiting, load := 0 }
    let spoken : ShowEntry := { mark := 500, period := 1, phase := 0, action := .language .secondary }
    let row : PanelRow := { lobby with list := [entry 0 1 0 .floor, spoken] }
    let s : State := { shown floorShown 500 with
      loader := { sample.loader with copy := { copy with panels := [row] } } }
    s.row 0 = some row ∧ row.list[1]? = some spoken ∧ s.pin 0 = false ∧ floorShown.lang ≠ .secondary ∧
      s.suspended row = false ∧ (leveled .evacuate { state := .awake, timer := none } none).suspended lobby = true ∧
      (∀ pre, (some other) = some pre → pre.entry ≠ 1) ∧ own.entry = 1 ∧ own.state = .waiting ∧
      Page.text 0 = own.page ∧ (leveled .night { state := .dark, timer := none } none).isDark 0 = true := by decide

/-! ### The links -/

/-- The part with a given link 0. -/
def linked (l : LinkRec) : State := { sample with links := l :: sample.links.drop 1 }

theorem test_hyp_LinksTakeWork :
    LinkRec.start.state ≠ .up ∧ upLink.state = .up ∧ upLink.inFlight = none ∧ upLink.queue = [] ∧
      (busyLink (.bright 3)).inFlight = some (inFlight (.bright 3) 1) ∧ (busyLink (.bright 3)).queue.length ≤ 3 ∧
      (busyLink (.load [] 1)).queue.any LinkMsg.isLoad = false ∧
      ([LinkMsg.load [] 1] : List LinkMsg).any LinkMsg.isLoad = true := by decide

/-- Full queues by what R160 drops: a BRIGHT, a LOAD with the FLIP behind it, a CHIME. -/
theorem test_hyp_LinksTakeWork_full :
    let bright : List LinkMsg := [.load [] 1, .bright 3, .flip 2 false]
    let load : List LinkMsg := [.chime 1, .load [] 3, .flip 4 false]
    let chime : List LinkMsg := [.flip 2 false, .chime 1, .test true]
    bright.length = 3 ∧ bright = [.load [] 1] ++ .bright 3 :: [.flip 2 false] ∧
      ([.load [] 1] : List LinkMsg).any LinkMsg.isBright = false ∧
      load.length = 3 ∧ load.any LinkMsg.isBright = false ∧ load = [.chime 1] ++ .load [] 3 :: [.flip 4 false] ∧
      ([.chime 1] : List LinkMsg).any LinkMsg.isLoad = false ∧
      chime.length = 3 ∧ chime.any LinkMsg.isBright = false ∧ chime.any LinkMsg.isLoad = false ∧
      chime = [.flip 2 false] ++ .chime 1 :: [.test true] ∧
      ([.flip 2 false] : List LinkMsg).any LinkMsg.isChime = false ∧
      (bright.filter (fun x => !x.isBright)).length < 3 ∧ (load.filter (fun x => !x.isTest)).length = 3 := by decide

/-- A FLIP that a queued FLIP takes in, and queues whose FLIPs all stand before a LOAD. -/
theorem test_hyp_LinksTakeWork_flips :
    ([.load [] 1, .flip 2 true] : List LinkMsg) = [.load [] 1] ++ .flip 2 true :: [] ∧
      ([] : List LinkMsg).any LinkMsg.isFlip = false ∧ ([] : List LinkMsg).any LinkMsg.isLoad = false ∧
      mergeFlip 5 false [.flip 2 false, .load [] 3] = none ∧
      mergeFlip 5 true [.load [] 1, .flip 2 false] = some [.load [] 1, .flip 5 true] := by decide

theorem test_hyp_LinksTakeWork_noFlip (first : List LinkMsg) (w : Nat) (late : Bool) (rest : List LinkMsg)
    (h : ([] : List LinkMsg) = first ++ .flip w late :: rest) : rest.any LinkMsg.isLoad = true := by
  simp at h

theorem test_hyp_AckSendsTheNextMessage :
    (linked (busyLink (.bright 3))).links[0]? = some (busyLink (.bright 3)) ∧
      (busyLink (.bright 3)).state = .up ∧ (LinkMsg.bright 3).isFlip = false ∧
      (busyLink (.bright 3)).queue = [] ∧ (busyLink (.bright 3)).pageStale = false := by decide

theorem test_hyp_AckSendsTheNextMessage_queue :
    let l : LinkRec := { busyLink (.load [[]] 3) with queue := [.flip 4 true] }
    let stale : LinkRec := { busyLink (.bright 3) with pageStale := true, brightStale := true }
    (linked l).links[0]? = some l ∧ l.state = .up ∧ (LinkMsg.load [[]] 3).isFlip = false ∧ l.queue = .flip 4 true :: [] ∧
      (linked stale).links[0]? = some stale ∧ stale.queue = [] ∧ stale.pageStale = true ∧
      (linked stale).row 0 = some lobby ∧ (linked stale).schedules[0]? = some (Schedule.start .lobby) ∧
      (linked stale).isDark 0 = false ∧ sample.loader.state = .running := by decide

theorem test_hyp_AckOfAFlipFreesTheModule :
    let l := busyLink (.flip 4 false)
    let pre : Preload := { entry := 1, page := .text 0, content := none, state := .waiting, load := 0 }
    let sc : Schedule := { floorShown with flip := some 4, preload := some pre }
    let s : State := { linked l with schedules := [sc] }
    s.links[0]? = some l ∧ l.state = .up ∧ l.inFlight = some (inFlight (.flip 4 false) 1) ∧ l.queue = [] ∧
      s.schedules[0]? = some sc ∧ sc.flip = some 4 ∧ sc.preload = some pre ∧ pre.state = .waiting ∧ s.isDark 0 = false ∧
      floorShown.flip ≠ some 4 := by decide

theorem test_hyp_ProbesRestoreTheModule :
    let l : LinkRec := { busyLink (.probe 8 2) with state := .probing }
    (linked l).links[0]? = some l ∧ l.inFlight = some (inFlight (.probe 8 2) 1) ∧ sample.row 0 = some lobby ∧
      sample.schedules[0]? = some (Schedule.start .lobby) ∧ sample.isDark 0 = false ∧ (3 : Byte) ≠ 0 := by decide

theorem test_hyp_ProbesRestoreTheModule_others :
    let l : LinkRec := { busyLink (.probe 8 1) with state := .faulted, reprobe := some 15000 }
    let s : State := { faulted with links := l :: faulted.links.drop 1 }
    s.links[0]? = some l ∧ (l.state = .probing ∨ l.state = .faulted) ∧ l.inFlight = some (inFlight (.probe 8 1) 1) ∧
      s.loader.state = .imageFault ∧ (leveled .night { state := .dark, timer := none } none).isDark 0 = true := by decide

theorem test_hyp_FailedLinkAttemptIsRetried :
    reached 9999 sample.cycle.clock = true ∧ (inFlight (.bright 3) 2).attempt < 3 ∧ 3 ≤ (inFlight (.bright 3) 3).attempt ∧
      (busyLink (.bright 3)).state ≠ .faulted := by decide

theorem test_hyp_ProbesRestoreTheModule_reprobe :
    let l : LinkRec := { LinkRec.start with state := .faulted, reprobe := some 10000 }
    (linked l).links[0]? = some l ∧ reached 10000 sample.cycle.clock = true ∧ sample.row 5 = none := by decide

theorem test_hyp_EventsWithoutACause :
    parseReply [0x06, 9] = none ∧ sample.ct < sample.loader.copy.lc ∧ sample.mode.lamps[0]? = some none ∧
      (∀ g ∈ sample.bus.queue, g.state = .queued) ∧ sample.loader.state ≠ .loading := by decide

theorem test_hyp_EventsWithoutACause_replies :
    let a := crc [128, 9, 1, 0]
    let b := crc [129, 9, 0]
    parseReply [128, 9, 1, 0, hiByte a, loByte a] = some (.ack 9 0) ∧ hiByte a ++ loByte a = a ∧
      parseReply [129, 9, 0, hiByte b, loByte b] = some (.nak 9) ∧ sample.links[0]? = some upLink ∧
      upLink.inFlight = none ∧ upLink.reprobe = none := by decide +kernel

end Sys2Proof.Tests
end

section
/-! PROOFS. A station clash (R16): which commands reach it, what telling the owners of discarded frames dropped does (R14),
and the state that a clash leaves. -/

namespace Sys2Proof.Machine

/-! ### Owners told dropped (R14) -/

/-- Whether a frame is a SENSE of a sense line. -/
def TxFrame.sensesLine (line : Nat) (f : TxFrame) : Bool :=
  match f.payload with
  | .sense l _ _ _ => l == line
  | _ => false

/-- The captures after the owners of several frames are told dropped: those of their SENSE frames are ARMED (R133). -/
def armedBy (q : List TxFrame) (captures : List Capture) : List Capture :=
  captures.mapIdx (fun line c => { c with armed := c.armed || q.any (TxFrame.sensesLine line) })

/-- The owners of several frames told dropped, at once: `foldl_tellDropped` ties it to telling them one by one. -/
def State.toldDropped (q : List TxFrame) (s : State) : State :=
  { s with
    cycle := { s.cycle with pendingTempo := s.cycle.pendingTempo && !q.any TxFrame.isTempo },
    status := { s.status with query := if q.any TxFrame.isOpenReport then none else s.status.query },
    mode := { s.mode with captures := armedBy q s.mode.captures } }

theorem armedBy_getElem? {captures : List Capture} {line : Nat} {c : Capture} (h : captures[line]? = some c)
    (q : List TxFrame) :
    (armedBy q captures)[line]? = some { c with armed := c.armed || q.any (TxFrame.sensesLine line) } := by
  simp [armedBy, h]

/-- Frames none of which is a SENSE arm no capture. -/
theorem armedBy_of_no_sense {q : List TxFrame} (h : ∀ line, q.any (TxFrame.sensesLine line) = false)
    (captures : List Capture) : armedBy q captures = captures := by
  refine List.ext_getElem? (fun k => ?_)
  cases hc : captures[k]? <;> simp [armedBy, h, hc]

/-- A SENSE frame arms the capture of its line. -/
theorem armedBy_sense {f : TxFrame} {line edges ct : Nat} {count : BitVec 6}
    (h : f.payload = .sense line edges count ct) (captures : List Capture) :
    armedBy [f] captures = captures.modify line (fun c => { c with armed := true }) := by
  refine List.ext_getElem? (fun k => ?_)
  rw [List.getElem?_modify]
  cases hc : captures[k]? with
  | none => simp [armedBy, hc]
  | some c =>
    by_cases hk : line = k
    · simp [armedBy, TxFrame.sensesLine, h, hc, hk]
    · simp [armedBy, TxFrame.sensesLine, h, hc, hk, beq_false_of_ne hk]

theorem armedBy_cons (f : TxFrame) (q : List TxFrame) (captures : List Capture) :
    armedBy q (armedBy [f] captures) = armedBy (f :: q) captures := by
  simp [armedBy, Function.comp_def, Bool.or_assoc]

theorem toldDropped_nil (s : State) : s.toldDropped [] = s := by
  unfold State.toldDropped
  rw [armedBy_of_no_sense (fun _ => rfl)]
  simp

/-- Telling one owner, and then the others. -/
theorem toldDropped_cons (f : TxFrame) (q : List TxFrame) (s : State) :
    (s.toldDropped [f]).toldDropped q = s.toldDropped (f :: q) := by
  unfold State.toldDropped
  dsimp only
  rw [armedBy_cons]
  cases hf : f.isOpenReport <;> simp [Bool.and_assoc, hf]

theorem tellDropped_eq_toldDropped (f : TxFrame) (s : State) : s.tellDropped f = s.toldDropped [f] := by
  unfold State.tellDropped State.toldDropped
  cases hp : f.payload with
  | tempo | panelLoad =>
    simp [TxFrame.isTempo, TxFrame.isOpenReport, TxPayload.header, hp, armedBy_of_no_sense, TxFrame.sensesLine]
  | sense => simp [TxFrame.isTempo, TxFrame.isOpenReport, TxPayload.header, hp, armedBy_sense hp]
  | report =>
    cases hw : f.withdrawn <;>
      simp [TxFrame.isTempo, TxFrame.isOpenReport, TxPayload.header, hp, hw, armedBy_of_no_sense, TxFrame.sensesLine]

theorem foldl_tellDropped (q : List TxFrame) (s : State) :
    q.foldl (fun s f => s.tellDropped f) s = s.toldDropped q := by
  induction q generalizing s with
  | nil => exact (toldDropped_nil s).symm
  | cons f q ih => rw [List.foldl_cons, ih, tellDropped_eq_toldDropped, toldDropped_cons]

/-- Entry to LISTEN_ONLY with the owners told at once. -/
theorem enterListenOnly_eq (s : State) :
    s.enterListenOnly =
      ((({ s with bus := { s.bus with queue := [], state := .listenOnly } }).countN .framesDropped
        s.bus.queue.length).toldDropped s.bus.queue).raise .listenOnly :=
  congrArg (State.raise .listenOnly) (foldl_tellDropped s.bus.queue _)

/-! ### Owners do not look at snapshots -/

theorem dropItem_isTempo (i : ExcItem) (f : TxFrame) : (f.dropItem i).isTempo = f.isTempo := by
  unfold TxFrame.isTempo
  rw [dropItem_header]

theorem dropItem_withdrawn (i : ExcItem) (f : TxFrame) : (f.dropItem i).withdrawn = f.withdrawn := by
  unfold TxFrame.dropItem
  split <;> rfl

theorem dropItem_isOpenReport (i : ExcItem) (f : TxFrame) : (f.dropItem i).isOpenReport = f.isOpenReport := by
  unfold TxFrame.isOpenReport
  rw [dropItem_header, dropItem_withdrawn]

theorem dropItem_sensesLine (i : ExcItem) (line : Nat) (f : TxFrame) :
    (f.dropItem i).sensesLine line = f.sensesLine line := by
  unfold TxFrame.sensesLine TxFrame.dropItem
  cases hp : f.payload <;> simp [hp]

theorem toldDropped_map_dropItem (i : ExcItem) (q : List TxFrame) (s : State) :
    s.toldDropped (q.map (TxFrame.dropItem i)) = s.toldDropped q := by
  simp [State.toldDropped, armedBy, Function.comp_def, dropItem_isTempo, dropItem_isOpenReport, dropItem_sensesLine]

/-! ### The clash (R16) -/

/-- The state in which a clash silences the station: the item is raised, and the failure count is 96. -/
def State.clashed (s : State) : State :=
  { s.raise .stationClash with bus := { (s.raise .stationClash).bus with failCount := 96 } }

theorem clash_of_active {s : State} (h : s.bus.state = .active) : s.clash = s.clashed.enterListenOnly :=
  if_pos h

theorem clash_of_listenOnly {s : State} (h : s.bus.state = .listenOnly) : s.clash = s.clashed :=
  if_neg (show ¬ s.bus.state = .active by rw [h]; decide)

/-- The entry to LISTEN_ONLY after a clash, told of the queue as it stood before. -/
theorem clashed_enterListenOnly (s : State) :
    s.clashed.enterListenOnly =
      ((({ s.clashed with bus := { s.clashed.bus with queue := [], state := .listenOnly } }).countN .framesDropped
        s.bus.queue.length).toldDropped s.bus.queue).raise .listenOnly := by
  rw [enterListenOnly_eq]
  show ((State.countN _ (s.bus.queue.map (TxFrame.dropItem .stationClash)).length _).toldDropped
    (s.bus.queue.map (TxFrame.dropItem .stationClash))).raise _ = _
  rw [List.length_map, toldDropped_map_dropItem]

/-! ### The commands that are a clash -/

/-- A command is a good frame that bears the part's own station number, given by its fields or by its bytes. -/
def State.clashesWith (s : State) (c : Instr) : Prop :=
  (∃ rx, frameRx c = some rx ∧ rx.source = s.bus.station) ∨
    ∃ f g, c = .stationClash f ∧ verdict f.bytes = .good s.bus.station g

/-- A command that is a frame given by its fields is received. -/
theorem exec_of_frameRx {c : Instr} {rx : Rx} (h : frameRx c = some rx) :
    ∃ g, ∀ s, exec c s = .next (s.receive rx g) := by
  cases c <;> cases h
  all_goals exact ⟨_, fun _ => rfl⟩

theorem takeGood_own {s : State} {rx : Rx} (h : rx.source = s.bus.station) (hv : s.validStation = true) (mark : Clock)
    (g : GoodFrame) : s.takeGood rx mark g = s.clash := by
  have hs : rx.source.isStation = true := by
    rw [h]
    exact hv
  unfold State.takeGood
  rw [hs, if_neg (by decide), if_pos h]

/-- A clash is not routed, whatever the frame. -/
theorem exec_of_clashesWith {s : State} {c : Instr} (hl : s.loader.state ≠ .loading) (hi : s.bus.ignoring = false)
    (hv : s.validStation = true) (hc : s.clashesWith c) : exec c s = .next s.busy.clash := by
  have hr := receives_of hl hi
  rcases hc with ⟨rx, hrx, hs⟩ | ⟨f, g, rfl, hg⟩
  · obtain ⟨g, he⟩ := exec_of_frameRx hrx
    rw [he, State.receive, if_pos hr, takeGood_own (s := s.busy) hs hv]
  · show Host.Outcome.next (s.receiveRaw f) = _
    rw [State.receiveRaw, if_pos hr, hg]
    exact congrArg Host.Outcome.next (takeGood_own (s := s.busy) rfl hv _ g)

/-- A frame given by its bytes that is not received leaves only the bus not free. -/
theorem receiveRaw_unheard {s : State} (h : s.loader.state = .loading ∨ s.bus.ignoring = true) (f : RawFrame) :
    s.receiveRaw f = s.busy := by
  rw [State.receiveRaw, receives_not h]
  rfl

end Sys2Proof.Machine

open Sys2Proof Sys2Proof.Machine

/-- Settles O13: a clash reaches `State.clash` and no block (`exec_of_clashesWith`), and the station state decides between the
state so changed and the entry to LISTEN_ONLY from it (`clashed_enterListenOnly`). -/
theorem stationClashSilencesThePart : Obligations.StationClashSilencesThePart := by
  unfold Obligations.StationClashSilencesThePart
  refine ⟨fun s c hl hi hv hc => ⟨s.busy.clash, exec_of_clashesWith hl hi hv hc, ?_⟩, fun s hl => ⟨?_, ?_⟩, fun _ => rfl⟩
  · cases hb : s.bus.state with
    | active =>
      rw [clash_of_active (s := s.busy) hb, clashed_enterListenOnly]
      refine ⟨rfl, rfl, rfl, ⟨fun _ => ⟨(clashed_enterListenOnly s.busy).symm, rfl, rfl, rfl, rfl, rfl, ?_⟩, ?_⟩,
        rfl, rfl, rfl, rfl, rfl, rfl, rfl, rfl⟩
      · exact fun line c h => armedBy_getElem? h s.bus.queue
      · exact fun h => nomatch h
    | listenOnly =>
      rw [clash_of_listenOnly (s := s.busy) hb]
      exact ⟨rfl, rfl, hb, ⟨fun h => (nomatch h), fun _ => rfl⟩, rfl, rfl, rfl, rfl, rfl, rfl, rfl, rfl⟩
  · intro c rx hrx
    obtain ⟨g, he⟩ := exec_of_frameRx hrx
    rw [he, receive_unheard (.inl hl)]
  · exact fun f => congrArg Host.Outcome.next (receiveRaw_unheard (.inl hl) f)

end

section
/-! PROOFS. The tempo threshold (R37): what a TEMPO request is answered, and the state that the crossing leaves. -/

namespace Sys2Proof.Machine

/-! ### TEMPO requests (R7, R37) -/

theorem tempo_header (count : BitVec 6) (sync : SyncState) : (TxPayload.tempo count sync).header = 72 := rfl

/-- In LISTEN_ONLY a TEMPO is dropped without a count. -/
theorem request_tempo_of_listenOnly {s : State} (hb : s.bus.state = .listenOnly) (count : BitVec 6) (sync : SyncState) :
    s.request (.tempo count sync) = (.dropped, s) := by
  unfold State.request
  rw [if_pos hb, if_pos (tempo_header count sync)]

/-- A running part in ACTIVE queues its TEMPO in the free reserved slot. -/
theorem request_tempo_of_free {s : State} (hl : s.loader.state = .running) (hb : s.bus.state = .active)
    (hq : ∀ g ∈ s.bus.queue, g.isTempo = false) (count : BitVec 6) (sync : SyncState) :
    s.request (.tempo count sync) = (.accepted, s.enqueue (.tempo count sync)) := by
  have hnone : ¬ s.bus.queue.any TxFrame.isTempo = true := by simpa using hq
  unfold State.request
  rw [if_neg (by simp [hb]), if_neg (by simp [hl]), if_pos (tempo_header count sync)]
  exact if_neg hnone

/-! ### The crossing (R32, R37, R38) -/

/-- The state of a part that has crossed the tempo threshold of this cycle. -/
def State.crossedTempo (s : State) : State := { s with cycle := { s.cycle with crossed := true } }

theorem atTempo_iff (s : State) :
    s.atTempo = true ↔ s.loader.state = .running ∧ s.loader.copy.lc ≤ s.ct ∧ s.cycle.crossed = false := by
  simp [State.atTempo, State.running, and_assoc]

theorem exec_tempoThreshold_of_atTempo {s : State} (h : s.atTempo = true) :
    exec .tempoThreshold s = .next s.tempoThreshold := congrArg Host.Outcome.next (if_pos h)

theorem tempoThreshold_of_not_eligible {s : State} (he : s.loader.copy.tempoEligible = false) :
    s.tempoThreshold = s.crossedTempo := if_neg (by simp [he])

/-- An eligible part takes the answer to the request that it makes once it has crossed. -/
theorem tempoThreshold_of_request {s t : State} {answer : Answer} (he : s.loader.copy.tempoEligible = true)
    (hr : s.crossedTempo.request (.tempo (s.cycle.count + 1) s.cycle.sync) = (answer, t)) :
    s.tempoThreshold =
      { t with cycle := { t.cycle with pendingTempo := answer == .accepted || t.cycle.pendingTempo } } := by
  unfold State.crossedTempo at hr
  simp only [State.tempoThreshold, he, if_true, hr]

/-- A part in LISTEN_ONLY only crosses the threshold, eligible or not. -/
theorem tempoThreshold_of_listenOnly {s : State} (hb : s.bus.state = .listenOnly) : s.tempoThreshold = s.crossedTempo := by
  cases he : s.loader.copy.tempoEligible with
  | false => exact tempoThreshold_of_not_eligible he
  | true => exact tempoThreshold_of_request he (request_tempo_of_listenOnly (s := s.crossedTempo) hb _ _)

end Sys2Proof.Machine

open Sys2Proof Sys2Proof.Machine

/-- Settles O38: a part that makes no request, or whose request is dropped, only crosses the threshold; the request of an
eligible part in ACTIVE is accepted (`request_tempo_of_free`), which sets the flag. -/
theorem tempoThresholdQueuesTheTempo : Obligations.TempoThresholdQueuesTheTempo := by
  unfold Obligations.TempoThresholdQueuesTheTempo
  intro s hl hct hc
  rw [exec_tempoThreshold_of_atTempo ((atTempo_iff s).mpr ⟨hl, hct, hc⟩)]
  refine ⟨fun hsilent => congrArg Host.Outcome.next ?_, fun he hb hq => congrArg Host.Outcome.next ?_⟩
  · exact hsilent.elim tempoThreshold_of_not_eligible tempoThreshold_of_listenOnly
  · exact tempoThreshold_of_request he (request_tempo_of_free (s := s.crossedTempo) hl hb hq _ _)

end

section
/-! PROOFS. A WAKE line (R130): what composition reads of the state, what a wake event does to its own panel and leaves of
every other, and the wakes of a mask one panel at a time. -/

namespace Sys2Proof.Machine

/-! ### Composition does not look at quiet states, lamp tests or links (R140 to R147) -/

/-- A page draws on the fields that quiet handling never moves, and on the language in use of its panel. -/
theorem compose_of_forQuiet {s t : State} {n : Nat} (hf : t.forQuiet = s.forQuiet)
    (hl : t.langInUse n = s.langInUse n) (page : Page) (index : Nat) : t.compose n page index = s.compose n page index := by
  rw [eq_of_forQuiet hf] at hl ⊢
  unfold State.compose State.composeFor State.basePage State.evacLines State.noticeOneLine
  simp only [hl]
  rfl

theorem langInUse_of_lang {s t : State} {n : Nat} {sc sc' : Schedule} (hf : t.forQuiet = s.forQuiet)
    (hs : s.schedules[n]? = some sc) (ht : t.schedules[n]? = some sc') (hl : sc'.lang = sc.lang) :
    t.langInUse n = s.langInUse n := by
  have hpin : t.pin n = s.pin n := by
    rw [eq_of_forQuiet hf]
    rfl
  simp only [State.langInUse, State.schedule, hpin, hs, ht, hl]

theorem settledSched_of_forQuiet {s t : State} (hf : t.forQuiet = s.forQuiet) (n : Nat) (row : PanelRow) (sc : Schedule) :
    t.settledSched n row sc = s.settledSched n row sc := by
  rw [eq_of_forQuiet hf]
  rfl

/-- Settling brings the panel's own schedule in line with its page (R147). -/
theorem settlePaging_schedule {s : State} {n : Nat} {row : PanelRow} {sc : Schedule} (hr : s.row n = some row)
    (hs : s.schedules[n]? = some sc) : (s.settlePaging n).schedules[n]? = some (s.settledSched n row sc) := by
  unfold State.settlePaging
  rw [hr, State.setSched_schedules, List.getElem?_modify_eq, hs]
  refine congrArg some ?_
  by_cases hp : s.suspended row = false ∧ s.itemLines row < s.itemCount n row sc.page
  · by_cases hi : sc.index < (s.itemCount n row sc.page + (s.itemLines row - 1)) / s.itemLines row <;>
      cases hsc : sc.scroll <;>
        simp [State.settledSched, State.paged, pageViews, after, State.now, hp, hsc, hi]
  · simp [State.settledSched, State.paged, hp]

theorem settlePaging_links (n : Nat) (s : State) : (s.settlePaging n).links = s.links := by
  unfold State.settlePaging
  split <;> rfl

theorem settledContent_eq {s : State} {n : Nat} {row : PanelRow} {sc : Schedule} (hr : s.row n = some row)
    (hs : s.schedules[n]? = some sc) : s.settledContent n = s.compose n sc.page (s.settledSched n row sc).index := by
  have hf : (s.settlePaging n).forQuiet = s.forQuiet := forQuiet_of_forShow (settlePaging_forShow n s)
  have hset := settlePaging_schedule hr hs
  unfold State.settledContent State.currentContent State.schedule
  rw [hset]
  exact compose_of_forQuiet hf (langInUse_of_lang hf hs hset rfl) _ _

/-- The current page of a panel is the same in two states that quiet handling tells apart at other panels only. -/
theorem settledContent_of_forQuiet {s t : State} {n : Nat} {row : PanelRow} {sc : Schedule}
    (hf : t.forQuiet = s.forQuiet) (hr : s.row n = some row) (hs : s.schedules[n]? = some sc)
    (ht : t.schedules[n]? = some sc) : t.settledContent n = s.settledContent n := by
  have hrt : t.row n = some row := by
    rw [eq_of_forQuiet hf]
    exact hr
  rw [settledContent_eq hr hs, settledContent_eq hrt ht, settledSched_of_forQuiet hf]
  exact compose_of_forQuiet hf (langInUse_of_lang hf hs ht rfl) _ _

/-! ### Work handed to a panel (R150, R156) -/

theorem hand_link (n : Nat) (m : LinkMsg) (s : State) :
    (s.hand n m).links[n]? = (s.links[n]?).map (fun l => l.hand m s.now) :=
  List.getElem?_modify_eq ..

theorem handPage_link {s : State} {n : Nat} {sc : Schedule} {l : LinkRec} (hs : s.schedules[n]? = some sc)
    (hl : s.links[n]? = some l) (c : Content) (atMark : Bool) :
    (s.handPage n c atMark).links[n]? =
      some ((l.hand (.load c (sc.works + 1)) s.now).hand (.flip (sc.works + 2) atMark) s.now) := by
  unfold State.handPage State.schedule
  rw [hs, State.setSched_links, hand_link, hand_link, hl]
  rfl

theorem handPage_schedule {s : State} {n : Nat} {sc : Schedule} (hs : s.schedules[n]? = some sc) (c : Content)
    (atMark : Bool) : (s.handPage n c atMark).schedules[n]? = some { sc with
      works := sc.works + 2, last := some c, flip := some (sc.works + 2), preload := sc.preload.map Preload.displaced } := by
  have hhanded (m m' : LinkMsg) : ((s.hand n m).hand n m').schedules[n]? = some sc := hs
  unfold State.handPage State.schedule
  rw [hs, State.setSched_schedules, List.getElem?_modify_eq, hhanded]
  rfl

theorem handPage_lastContent {s : State} {n : Nat} {sc : Schedule} (hs : s.schedules[n]? = some sc) (c : Content)
    (atMark : Bool) : (s.handPage n c atMark).lastContent n = some c := by
  simp only [State.lastContent, State.schedule, handPage_schedule hs]

/-- A relight hands LOAD and FLIP of the settled current page and then BRIGHT (R150). -/
theorem relight_link {s : State} {n : Nat} {row : PanelRow} {sc : Schedule} {l : LinkRec} (hr : s.row n = some row)
    (hs : s.schedules[n]? = some sc) (hl : s.links[n]? = some l) (level : Nat) :
    (s.relight n level).links[n]? = some
      (((l.hand (.load (s.settledContent n) (sc.works + 1)) s.now).hand (.flip (sc.works + 2) false) s.now).hand
        (.bright level) s.now) := by
  have hnow : (s.settlePaging n).now = s.now := by
    rw [eq_of_forShow (settlePaging_forShow n s)]
    rfl
  have hpage := handPage_link (settlePaging_schedule hr hs) ((congrArg (·[n]?) (settlePaging_links n s)).trans hl)
    (s.settledContent n) false
  have hnow' : ((s.settlePaging n).handPage n (s.settledContent n) false).now = s.now := by
    rw [eq_of_forShow (handPage_forShow n (s.settledContent n) false (s.settlePaging n))]
    exact hnow
  show (((s.settlePaging n).handPage n (s.settledContent n) false).hand n (.bright level)).links[n]? = _
  rw [hand_link, hpage, hnow', hnow]
  rfl

theorem relight_lastContent {s : State} {n : Nat} {row : PanelRow} {sc : Schedule} (hr : s.row n = some row)
    (hs : s.schedules[n]? = some sc) (level : Nat) : (s.relight n level).lastContent n = some (s.settledContent n) :=
  handPage_lastContent (settlePaging_schedule hr hs) _ _

/-! ### A wake event by the panel's quiet state (R125) -/

/-- The state in which a panel is AWAKE with one quiet time to run and nothing has been handed to it yet. -/
def State.madeAwake (s : State) (n : Nat) (row : PanelRow) : State :=
  s.setQuiet n { state := .awake, timer := some (s.quietAhead row) }

theorem wake_eq {s : State} {n : Nat} {row : PanelRow} {q : QuietRec} (hr : s.row n = some row)
    (hl : s.mode.level ≠ .evacuate) (hq : s.mode.quiet[n]? = some q) :
    s.wake n = match q.state with
      | .awake => s.madeAwake n row
      | .dim => (s.madeAwake n row).hand n (.bright row.awake)
      | .dark => (s.madeAwake n row).relight n row.awake := by
  have hstate : s.quietOf n = q.state := by simp only [State.quietOf, hq]
  unfold State.wake State.awaken
  simp only [hr, if_neg hl, hstate]
  rfl

theorem wake_quiet {s : State} {n : Nat} {row : PanelRow} {q : QuietRec} (hr : s.row n = some row)
    (hl : s.mode.level ≠ .evacuate) (hq : s.mode.quiet[n]? = some q) :
    (s.wake n).mode.quiet[n]? = some { state := .awake, timer := some (s.quietAhead row) } := by
  rw [wake_mode hr hl]
  exact List.getElem?_set_self (List.getElem?_eq_some_iff.mp hq).1

/-- A wake event moves no lamp test. -/
theorem wake_lamps (n : Nat) (s : State) : (s.wake n).mode.lamps = s.mode.lamps := by
  cases hr : s.row n with
  | none => simp only [State.wake, hr]
  | some row =>
    by_cases hl : s.mode.level = .evacuate
    · rw [wake_evacuate n hl]
    · rw [wake_mode hr hl]

/-! ### Panel by panel -/

/-- What a wake event may move, of one panel: its quiet record, its link and its schedule. -/
structure PanelPart where
  quiet : Option QuietRec
  link : Option LinkRec
  sched : Option Schedule

/-- The part of a panel in a state. -/
def State.panelPart (s : State) (n : Nat) : PanelPart :=
  { quiet := s.mode.quiet[n]?, link := s.links[n]?, sched := s.schedules[n]? }

/-- Quiet handling of one panel does not touch the part of another. -/
theorem panelPart_quietAt {m n : Nat} (h : m ≠ n) (part : PanelPart) : QuietAt m (fun t => t.panelPart n = part) where
  sched := fun f s hs => by simpa [State.panelPart, List.getElem?_modify, h] using hs
  hand := fun w s hs => by simpa [State.panelPart, State.hand, List.getElem?_modify, h] using hs
  cancel := fun w s hs => by simpa [State.panelPart, State.cancelLoad, List.getElem?_modify, h] using hs
  quiet := fun q s hs => by simpa [State.panelPart, List.getElem?_set_ne h] using hs
  lamp := fun _ _ hs => hs

/-- Wake events leave the part of every panel that none of them is for. -/
theorem wakes_panelPart_of_notMem {l : List Nat} {n : Nat} (h : n ∉ l) (s : State) :
    (s.wakes l).panelPart n = s.panelPart n := by
  induction l generalizing s with
  | nil => rfl
  | cons m l ih =>
    have hne : m ≠ n := fun e => h (e ▸ List.mem_cons_self)
    exact (ih (fun hm => h (List.mem_cons_of_mem m hm)) (s.wake m)).trans
      (wake_at (panelPart_quietAt hne _) s rfl)

/-- Each panel of several takes its wake event in a state that has its part as it was before all of them. -/
theorem wakes_panelPart_of_mem {l : List Nat} {n : Nat} (hl : l.Nodup) (hn : n ∈ l) (s : State) :
    ∃ u : State, u.forQuiet = s.forQuiet ∧ u.panelPart n = s.panelPart n ∧
      (s.wakes l).panelPart n = (u.wake n).panelPart n := by
  obtain ⟨before, rest, rfl⟩ := List.append_of_mem hn
  obtain ⟨-, hrest, hdisjoint⟩ := List.nodup_append.mp hl
  have hbefore : n ∉ before := fun h => hdisjoint n h n List.mem_cons_self rfl
  refine ⟨s.wakes before, wakes_forQuiet before s, wakes_panelPart_of_notMem hbefore s, ?_⟩
  have hsplit : s.wakes (before ++ n :: rest) = ((s.wakes before).wake n).wakes rest := List.foldl_append
  rw [hsplit]
  exact wakes_panelPart_of_notMem (List.nodup_cons.mp hrest).1 _

theorem wakes_lamps (l : List Nat) (s : State) : (s.wakes l).mode.lamps = s.mode.lamps :=
  forEach_keeps (fun t => t.mode.lamps) _ wake_lamps l s

theorem wakes_evacuate (l : List Nat) {s : State} (hl : s.mode.level = .evacuate) : s.wakes l = s := by
  induction l with
  | nil => rfl
  | cons n l ih =>
    show (s.wake n).wakes l = s
    rw [wake_evacuate n hl, ih]

theorem lastContent_of_panelPart {s t : State} {n : Nat} (h : t.panelPart n = s.panelPart n) :
    t.lastContent n = s.lastContent n := by
  have hsched : t.schedules[n]? = s.schedules[n]? := congrArg PanelPart.sched h
  simp only [State.lastContent, State.schedule, hsched]

/-! ### The wakes of a mask, by the quiet state of each panel (R125, R130) -/

section woken
variable {s : State} {l : List Nat} {n : Nat} {row : PanelRow} {q : QuietRec}
  (hnodup : l.Nodup) (hn : n ∈ l) (hr : s.row n = some row) (hlevel : s.mode.level ≠ .evacuate)
  (hq : s.mode.quiet[n]? = some q)
include hnodup hn hr hlevel hq

/-- The panel's own wake, with the state that takes it told apart from the first one at other panels only. -/
theorem wakes_panelPart_eq :
    ∃ u : State, u.forQuiet = s.forQuiet ∧ u.panelPart n = s.panelPart n ∧ u.row n = some row ∧
      u.mode.level ≠ .evacuate ∧ u.mode.quiet[n]? = some q ∧ u.quietAhead row = s.quietAhead row ∧ u.now = s.now ∧
      (s.wakes l).panelPart n = (u.wake n).panelPart n := by
  obtain ⟨u, hf, hp, ht⟩ := wakes_panelPart_of_mem hnodup hn s
  have hu := eq_of_forQuiet hf
  refine ⟨u, hf, hp, ?_, ?_, (congrArg PanelPart.quiet hp).trans hq, ?_, ?_, ht⟩
  · rw [hu]; exact hr
  · rw [hu]; exact hlevel
  · rw [hu]; rfl
  · rw [hu]; rfl

theorem wakes_quiet :
    (s.wakes l).mode.quiet[n]? = some { state := .awake, timer := some (s.quietAhead row) } := by
  obtain ⟨u, -, -, hru, hlu, hqu, hahead, -, ht⟩ := wakes_panelPart_eq hnodup hn hr hlevel hq
  exact (congrArg PanelPart.quiet ht).trans (hahead ▸ wake_quiet hru hlu hqu)

theorem wakes_of_awake (hstate : q.state = .awake) :
    (s.wakes l).links[n]? = s.links[n]? ∧ (s.wakes l).schedules[n]? = s.schedules[n]? := by
  obtain ⟨u, -, hp, hru, hlu, hqu, -, -, ht⟩ := wakes_panelPart_eq hnodup hn hr hlevel hq
  rw [wake_eq hru hlu hqu, hstate] at ht
  exact ⟨(congrArg PanelPart.link ht).trans (congrArg PanelPart.link hp),
    (congrArg PanelPart.sched ht).trans (congrArg PanelPart.sched hp)⟩

theorem wakes_of_dim (hstate : q.state = .dim) :
    (s.wakes l).schedules[n]? = s.schedules[n]? ∧
      (s.wakes l).links[n]? = (s.links[n]?).map (fun k => k.hand (.bright row.awake) s.now) := by
  obtain ⟨u, -, hp, hru, hlu, hqu, -, hnow, ht⟩ := wakes_panelPart_eq hnodup hn hr hlevel hq
  rw [wake_eq hru hlu hqu, hstate] at ht
  have hlink : u.links[n]? = s.links[n]? := congrArg PanelPart.link hp
  refine ⟨(congrArg PanelPart.sched ht).trans (congrArg PanelPart.sched hp), (congrArg PanelPart.link ht).trans ?_⟩
  rw [← hlink, ← hnow]
  exact hand_link n _ (u.madeAwake n row)

theorem wakes_of_dark {k : LinkRec} {sc : Schedule} (hstate : q.state = .dark) (hk : s.links[n]? = some k)
    (hs : s.schedules[n]? = some sc) :
    (s.wakes l).lastContent n = some (s.settledContent n) ∧ (s.wakes l).links[n]? = some
      (((k.hand (.load (s.settledContent n) (sc.works + 1)) s.now).hand (.flip (sc.works + 2) false) s.now).hand
        (.bright row.awake) s.now) := by
  obtain ⟨u, hf, hp, hru, hlu, hqu, -, hnow, ht⟩ := wakes_panelPart_eq hnodup hn hr hlevel hq
  rw [wake_eq hru hlu hqu, hstate] at ht
  have hku : (u.madeAwake n row).links[n]? = some k := (congrArg PanelPart.link hp).trans hk
  have hsu : (u.madeAwake n row).schedules[n]? = some sc := (congrArg PanelPart.sched hp).trans hs
  have hcontent : (u.madeAwake n row).settledContent n = s.settledContent n :=
    settledContent_of_forQuiet ((setQuiet_forQuiet _ _ u).trans hf) hr hs hsu
  rw [← hcontent, ← hnow]
  exact ⟨(lastContent_of_panelPart ht).trans (relight_lastContent (s := u.madeAwake n row) hru hsu _),
    (congrArg PanelPart.link ht).trans (relight_link (s := u.madeAwake n row) hru hsu hku _)⟩

end woken

/-! ### The line (R128, R130) -/

theorem maskPanels_nodup (s : State) (mask : Byte) : (s.maskPanels mask).Nodup :=
  List.Nodup.filter _ List.nodup_range

theorem mem_maskPanels {s : State} {mask : Byte} {n : Nat} :
    n ∈ s.maskPanels mask ↔ (∃ row, s.row n = some row) ∧ mask.getLsbD n = true := by
  unfold State.maskPanels
  rw [List.mem_filter, mem_panelIds]

theorem not_mem_maskPanels {s : State} {mask : Byte} {n : Nat} (h : s.row n = none ∨ mask.getLsbD n = false) :
    n ∉ s.maskPanels mask := by
  rw [mem_maskPanels]
  rintro ⟨⟨row, hrow⟩, hbit⟩
  rcases h with hnone | hclear
  · simp [hnone] at hrow
  · simp [hclear] at hbit

/-- A falling edge on a WAKE line of a running part is a wake event for each panel of its mask. -/
theorem exec_senseLineEdge_of_wake {s : State} {line : Nat} {sense : SenseRow} (hrun : s.loader.state = .running)
    (hsense : s.loader.copy.senses[line]? = some sense) (hwake : sense.function = .wake) :
    exec (.senseLineEdge line) s = .next (s.wakes (s.maskPanels sense.mask)) := by
  have hrunning : s.running = true := by simp [State.running, hrun]
  have hedge : s.senseEdge line = s.wakes (s.maskPanels sense.mask) := by
    simp only [State.senseEdge, hsense, hwake]
  exact congrArg Host.Outcome.next ((if_pos hrunning).trans hedge)

end Sys2Proof.Machine

open Sys2Proof Sys2Proof.Machine

/-- Settles O46: the edge is the wakes of its mask's panels, which are distinct, so each panel takes its own wake with its
records as they were (`wakes_panelPart_eq`), and a panel outside the mask keeps them (`wakes_panelPart_of_notMem`). -/
theorem wakeLineWakesItsPanels : Obligations.WakeLineWakesItsPanels := by
  unfold Obligations.WakeLineWakesItsPanels
  intro s line sense hrun hsense hwake
  rw [exec_senseLineEdge_of_wake hrun hsense hwake]
  refine ⟨fun hl => by rw [wakes_evacuate _ hl], fun hl => ⟨_, rfl, eq_of_forQuiet (wakes_forQuiet _ s), wakes_lamps _ s,
    fun n row q hr hbit hq => ?_, fun n hout => ?_⟩⟩
  · have hnodup := maskPanels_nodup s sense.mask
    have hn : n ∈ s.maskPanels sense.mask := mem_maskPanels.mpr ⟨⟨row, hr⟩, hbit⟩
    exact ⟨wakes_quiet hnodup hn hr hl hq, wakes_of_awake hnodup hn hr hl hq, wakes_of_dim hnodup hn hr hl hq,
      fun _ _ hdark hk hs => wakes_of_dark hnodup hn hr hl hq hdark hk hs⟩
  · have hpart := wakes_panelPart_of_notMem (not_mem_maskPanels hout) s
    exact ⟨congrArg PanelPart.quiet hpart, congrArg PanelPart.link hpart, congrArg PanelPart.sched hpart⟩

end

section
/-! PROOFS. A failed link attempt (R153): which commands end an attempt in failure, and the state that a retry, the
entry to FAULTED (R154) and the failed attempt of a reprobe leave. -/

namespace Sys2Proof.Machine

/-! ### The message in flight on a link -/

theorem setLink_eq_set {s : State} {n : Nat} {l : LinkRec} (hl : s.links[n]? = some l) (f : LinkRec → LinkRec) :
    s.setLink n f = { s with links := s.links.set n (f l) } := by
  simp only [State.setLink, List.modify_eq_set_getElem?, hl, Option.map_eq_map, Option.map_some, Option.getD_some]

theorem linkUp_iff {s : State} {n : Nat} {l : LinkRec} (hl : s.links[n]? = some l) :
    s.linkUp n = true ↔ l.state = .up := by
  simp only [State.linkUp, State.link, hl, beq_iff_eq]

/-- A NAK with the tag of the message in flight matches it (R152). -/
theorem matching_of_inFlight {s : State} {n : Nat} {l : LinkRec} {f : InFlight} (hl : s.links[n]? = some l)
    (hf : l.inFlight = some f) : s.matching n f.tag = some f := by
  simp only [State.matching, State.link, hl, hf, if_true]

theorem timedOut_of_inFlight {s : State} {n : Nat} {l : LinkRec} {f : InFlight} (hl : s.links[n]? = some l)
    (hf : l.inFlight = some f) : s.timedOut n = reached f.expiry s.now := by
  simp only [State.timedOut, State.link, hl, hf]

/-- The matching NAK and the timeout reached are one event of the link: its attempt fails. -/
theorem exec_of_attempt_failed {s : State} {n : Nat} {l : LinkRec} {f : InFlight} {c : Instr}
    (hl : s.links[n]? = some l) (hf : l.inFlight = some f)
    (hc : c = .linkNak n f.tag ∨ (c = .linkTimeout n ∧ reached f.expiry s.cycle.clock = true)) :
    exec c s = .next (s.attemptFails n) := by
  refine hc.elim (fun hnak => ?_) (fun ⟨htimeout, hreached⟩ => ?_)
  · subst hnak
    refine congrArg Host.Outcome.next ?_
    simp only [State.nakTaken, matching_of_inFlight hl hf]
  · subst htimeout
    exact congrArg Host.Outcome.next (if_pos ((timedOut_of_inFlight hl hf).trans hreached))

/-! ### The three ways a failure is taken (R153, R154) -/

theorem attemptFails_eq {s : State} {n : Nat} {l : LinkRec} {f : InFlight} (hl : s.links[n]? = some l)
    (hf : l.inFlight = some f) :
    s.attemptFails n =
      if l.state = .faulted then s.setLink n (fun l => { l with inFlight := none })
      else if f.attempt < 3 then (s.count .linkRetries).setLink n (fun l => l.fly f.msg (f.attempt + 1) s.now)
      else s.linkFault n := by
  simp only [State.attemptFails, State.link, hl, hf]
  rfl

theorem attemptFails_of_faulted {s : State} {n : Nat} {l : LinkRec} {f : InFlight} (hl : s.links[n]? = some l)
    (hf : l.inFlight = some f) (hstate : l.state = .faulted) :
    s.attemptFails n = { s with links := s.links.set n { l with inFlight := none } } := by
  rw [attemptFails_eq hl hf, if_pos hstate, setLink_eq_set hl]

theorem attemptFails_of_retry {s : State} {n : Nat} {l : LinkRec} {f : InFlight} (hl : s.links[n]? = some l)
    (hf : l.inFlight = some f) (hstate : l.state ≠ .faulted) (hattempt : f.attempt < 3) :
    s.attemptFails n =
      { s.count .linkRetries with links := s.links.set n (l.fly f.msg (f.attempt + 1) s.now) } := by
  rw [attemptFails_eq hl hf, if_neg hstate, if_pos hattempt]
  exact setLink_eq_set (s := s.count .linkRetries) hl _

theorem attemptFails_of_last {s : State} {n : Nat} {l : LinkRec} {f : InFlight} (hl : s.links[n]? = some l)
    (hf : l.inFlight = some f) (hstate : l.state ≠ .faulted) (hattempt : 3 ≤ f.attempt) :
    s.attemptFails n = s.linkFault n := by
  rw [attemptFails_eq hl hf, if_neg hstate, if_neg (Nat.not_lt.mpr hattempt)]

/-! ### Entry to FAULTED (R154) -/

/-- The record of a link that becomes FAULTED. -/
def LinkRec.toFaulted (l : LinkRec) (now : Clock) : LinkRec :=
  { l with state := .faulted, inFlight := none, queue := [], pageStale := false, brightStale := false,
           reprobe := some (now + 5000) }

/-- The link's record and the item; the show scheduler hears of it where an UP link of a running part goes down. -/
theorem linkFault_eq {s : State} {n : Nat} {l : LinkRec} (hl : s.links[n]? = some l) :
    let t : State := { s.raise (.linkFault n) with links := s.links.set n (l.toFaulted s.now) }
    s.linkFault n = if l.state = .up ∧ s.loader.state = .running then t.schedLinkDown n else t := by
  have hset := setLink_eq_set hl (fun l => l.toFaulted s.now)
  have hup : (s.linkUp n = true ∧ s.running = true) ↔ (l.state = .up ∧ s.loader.state = .running) := by
    rw [linkUp_iff hl, State.running, decide_eq_true_iff]
  exact if_congr hup (congrArg (fun u => (u.raise (.linkFault n)).schedLinkDown n) hset)
    (congrArg (State.raise (.linkFault n)) hset)

/-- Beside the link's record and the panel's schedule, entry to FAULTED raises the item alone. -/
theorem linkFault_forShow {s : State} {n : Nat} {l : LinkRec} (hl : s.links[n]? = some l) :
    (s.linkFault n).forShow = (s.raise (.linkFault n)).forShow := by
  rw [linkFault_eq hl]
  split <;> rfl

theorem linkFault_links {s : State} {n : Nat} {l : LinkRec} (hl : s.links[n]? = some l) :
    (s.linkFault n).links = s.links.set n (l.toFaulted s.now) := by
  rw [linkFault_eq hl]
  split <;> rfl

theorem linkFault_schedules {s : State} {n : Nat} {l : LinkRec} (hl : s.links[n]? = some l) :
    (s.linkFault n).schedules = if l.state = .up ∧ s.loader.state = .running then
      s.schedules.modify n (fun sc => { sc with preload := none, waiting := [], flip := none, last := none })
      else s.schedules := by
  rw [linkFault_eq hl]
  split <;> rfl

end Sys2Proof.Machine

open Sys2Proof Sys2Proof.Machine

/-- Settles O55: both commands fail the attempt (`exec_of_attempt_failed`), and the link's state and the attempt's
number decide between the retry, the entry to FAULTED (`linkFault_eq`) and the end of a reprobe. -/
theorem failedLinkAttemptIsRetried : Obligations.FailedLinkAttemptIsRetried := by
  unfold Obligations.FailedLinkAttemptIsRetried
  intro s n l f c _ hl hf hc
  refine ⟨_, exec_of_attempt_failed hl hf hc, attemptFails_of_retry hl hf, fun hstate hattempt => ?_,
    attemptFails_of_faulted hl hf⟩
  rw [attemptFails_of_last hl hf hstate hattempt]
  have hframe := linkFault_forShow hl
  exact ⟨linkFault_links hl, (congrArg (fun u => u.status.exceptions) hframe :),
    (congrArg (fun u => u.status.counters) hframe :), linkFault_schedules hl, (congrArg State.cars hframe :),
    (congrArg State.prompts hframe :), (congrArg State.mode hframe :), (congrArg State.stops hframe :),
    (congrArg State.cycle hframe :), (congrArg State.loader hframe :)⟩

end

section
/-! PROOFS. The invariants of every step: each is closed under what a command does, and a millisecond moves the clock, the
transmit queue's head and the waiting commands alone. -/

namespace Sys2Proof.Machine

/-! ### One step (log 2) -/

/-- What every command keeps, the millisecond and the queue of waiting commands leave too, if it does not look at them. -/
theorem step_preserves {P : State → Prop} (hexec : ∀ c s t, P s → exec c s = .next t → P t)
    (hpending : ∀ q s, P s → P { s with pending := q }) (htick : ∀ s, P s → P s.advanceClock.beginAttempt)
    {s t : State} (h : P s) (e : step s = .next t) : P t := by
  unfold step at e
  split at e
  · exact hexec _ _ _ (hpending _ _ h) e
  · obtain rfl := Host.Outcome.next.inj e
    exact hpending _ _ (htick s h)

/-- What every event keeps, every step keeps. -/
theorem step_preserves_of_events {P : State → Prop} (C : EventClosed P) (hpending : ∀ q s, P s → P { s with pending := q })
    {s t : State} (h : P s) (e : step s = .next t) : P t :=
  step_preserves (exec_preserves C) hpending (fun _ hs => beginAttempt_preserves C _ (C.cycle _ _ hs)) h e

/-! ### The transmit queue (R6, R11, R13, R14, R17, R38) -/

/-- Outside LOADING a command that keeps the queue of a part that has started keeps it; in LOADING nothing of it moves. -/
theorem whenRunning_txOk {f : State → State} (hf : ∀ s, s.txRunning → (f s).txRunning) {s : State} (h : s.txOk) :
    (s.whenRunning f).txOk := by
  unfold State.whenRunning
  split
  · next hr => exact (hf s ⟨h, by rw [of_decide_eq_true hr]; decide⟩).1
  · exact h

/-- An outcome of the part's own attempt keeps the queue of a part that has started, and in LOADING there is no attempt. -/
theorem ownOutcome_txOk {f : State → State} (hf : ∀ s, s.txRunning → (f s).txRunning)
    (hempty : ∀ s : State, s.bus.queue = [] → f s = s) {s : State} (h : s.txOk) : (f s).txOk := by
  by_cases hl : s.loader.state = .loading
  · rw [hempty s (h.loading hl)]
    exact h
  · exact (hf s ⟨h, hl⟩).1

theorem frameIn_of_empty {s : State} (h : s.bus.queue = []) (st : AttemptState) : s.frameIn st = none := by
  simp [State.frameIn, h]

theorem attemptStart_txOk {s : State} (h : s.txOk) : s.attemptStart.txOk := by
  by_cases hl : s.loader.state = .loading
  · have hready : s.attemptReady = false := by simp [State.attemptReady, frameIn_of_empty (h.loading hl)]
    unfold State.attemptStart
    rw [if_neg (by simp [hready])]
    split
    · exact { h with }
    · exact h
  · exact (attemptStart_txRunning s ⟨h, hl⟩).1

theorem resetBy_txOk (c : ResetCause) (b : Byte) (s : State) : (s.resetBy c b).txOk :=
  txOk_empty rfl (Nat.zero_le _) rfl

theorem txRunning_of_running {s : State} (h : s.txOk) (hr : s.running = true) : s.txRunning :=
  ⟨h, by rw [of_decide_eq_true hr]; decide⟩

theorem nakTaken_txOk (n : Nat) (tag : Byte) {s : State} (h : s.txOk) : (s.nakTaken n tag).txOk := by
  unfold State.nakTaken
  split
  · exact h
  · exact attemptFails_txOk n s h

theorem replyTaken_txOk (n : Nat) (bytes : List Byte) {s : State} (h : s.txOk) : (s.replyTaken n bytes).txOk := by
  unfold State.replyTaken
  split
  · exact h
  · exact ackTaken_txOk _ _ _ _ h
  · exact nakTaken_txOk _ _ h

theorem exec_txOk (c : Instr) (s t : State) (h : s.txOk) (e : exec c s = .next t) : t.txOk := by
  have K := txRunning_tracker
  have hif : ∀ (b : Bool) (f : State → State), (b = true → (f s).txOk) → (if b then f s else s).txOk := by
    intro b f hf
    split
    · next hb => exact hf hb
    · exact h
  have hdue : ∀ (b : State → Bool) (f : State → State), (∀ s, s.txRunning → (f s).txRunning) →
      (s.whenRunning (fun s => if b s then f s else s)).txOk := by
    intro b f hf
    refine whenRunning_txOk (fun s hs => ?_) h
    split
    · exact hf s hs
    · exact hs
  cases c <;> obtain rfl := Host.Outcome.next.inj e
  case power => exact resetBy_txOk _ _ _
  case pinReset => exact resetBy_txOk _ _ _
  case endOfLoading =>
    split
    · next hl => exact loadEnded_txOk _ _ h hl
    · exact h
  case badFrame => exact receiveRaw_txOk _ _ h
  case stationClash => exact receiveRaw_txOk _ _ h
  case buildingMode => exact receive_txOk _ _ _ h
  case carService => exact receive_txOk _ _ _ h
  case restart => exact receive_txOk _ _ _ h
  case tempo => exact receive_txOk _ _ _ h
  case carMotion => exact receive_txOk _ _ _ h
  case carStep => exact receive_txOk _ _ _ h
  case carCalls => exact receive_txOk _ _ _ h
  case assign => exact receive_txOk _ _ _ h
  case withdraw => exact receive_txOk _ _ _ h
  case statusQuery => exact receive_txOk _ _ _ h
  case attemptStart => exact attemptStart_txOk h
  case arbitrationWon =>
    exact ownOutcome_txOk arbitrationWon_txRunning
      (fun s hq => by
        simp only [State.arbitrationWon, State.changeIn, hq, List.map_nil]
        rw [← hq]) h
  case lostArbitration =>
    exact ownOutcome_txOk lostArbitration_txRunning (fun s hq => by simp [State.lostArbitration, frameIn_of_empty hq]) h
  case failedAttempt =>
    exact ownOutcome_txOk failedAttempt_txRunning
      (fun s hq => by simp [State.failedAttempt, State.attempting, frameIn_of_empty hq]) h
  case attemptCompleted =>
    exact ownOutcome_txOk attemptCompleted_txRunning (fun s hq => by simp [State.attemptCompleted, frameIn_of_empty hq]) h
  case tempoThreshold =>
    exact hif _ _ fun ha => (tempoThreshold_txRunning s ⟨h, by rw [((atTempo_iff s).mp ha).1]; decide⟩).1
  case localRestart =>
    refine hif _ _ fun ha => (localRestart_txRunning s (txRunning_of_running h ?_)).1
    exact (Bool.and_eq_true_iff.mp ha).1
  case indicationTimerExpiry slot => exact hdue (fun s => s.indicationDue slot) _ (indicationExpiry_preserves K slot)
  case lingerExpiry panel slot => exact whenRunning_txOk (lingerExpiry_preserves K.toLanternClosed panel slot) h
  case holdExpiry => exact whenRunning_txOk (fun s hs => removal_txRunning _ s hs) h
  case claimWatchExpiry source => exact whenRunning_txOk (claimExpiry_txRunning source) h
  case quietTimerExpiry n => exact hdue (fun s => s.quietDue n) _ (quietExpiry_preserves K.toQuietClosed n)
  case senseLineEdge line => exact whenRunning_txOk (senseEdge_txRunning line) h
  case lampTestExpiry n => exact hdue (fun s => s.lampDue n) _ (lampEnd_preserves K.toQuietClosed n)
  case preloadInstant n => exact whenRunning_txOk (takeInstants_preserves K.toShowClosed n) h
  case showMark n => exact whenRunning_txOk (takeMarks_preserves K.toShowClosed n) h
  case scrollExpiry n => exact hdue (fun s => s.scrollDue n) _ (scrollExpiry_preserves K.toShowClosed n)
  case linkAck => exact ackTaken_txOk _ _ _ _ h
  case linkNak => exact nakTaken_txOk _ _ h
  case linkTimeout n => exact hif _ _ (fun _ => attemptFails_txOk n s h)
  case linkReplyBad => exact replyTaken_txOk _ _ h
  case reprobeExpiry n => exact hif _ (fun s => s.reprobe n) (fun _ => { h with })
  case busBecomesFree => exact { h with }

theorem advanceClock_txOk {s : State} (h : s.txOk) : s.advanceClock.txOk := { h with }

end Sys2Proof.Machine

open Sys2Proof Sys2Proof.Machine

/-- Settles O57: every command keeps the queue (`exec_txOk`), and so does the attempt that a millisecond begins. -/
theorem everyStepKeepsTheTransmitQueue : Obligations.EveryStepKeepsTheTransmitQueue := by
  unfold Obligations.EveryStepKeepsTheTransmitQueue
  exact fun _ _ => step_preserves exec_txOk (fun _ _ h => { h with }) (fun s h => beginAttempt_txOk _ (advanceClock_txOk h))

/-- Settles O58. -/
theorem everyStepKeepsTheLinks : Obligations.EveryStepKeepsTheLinks := by
  unfold Obligations.EveryStepKeepsTheLinks
  exact fun _ _ => step_preserves_of_events linksOk_events (fun _ _ h => h)

/-- Settles O59: the pool and the fit of its entries with their cars are two properties that every event keeps. -/
theorem everyStepKeepsThePool : Obligations.EveryStepKeepsThePool := by
  unfold Obligations.EveryStepKeepsThePool
  exact fun _ _ hpool hfit e =>
    ⟨step_preserves_of_events poolOk_events (fun _ _ h => { h with }) hpool e,
      step_preserves_of_events promptsFit_events (fun _ _ h => h) hfit e⟩

/-- Settles O60. -/
theorem everyStepKeepsTheCarRecords : Obligations.EveryStepKeepsTheCarRecords := by
  unfold Obligations.EveryStepKeepsTheCarRecords
  exact fun _ _ => step_preserves_of_events carsOk_events (fun _ _ h => h)

end

section
/-! PROOFS. Every command answers, what POWER and PIN leave, counters and exception items one by one, and load levels. -/

namespace Sys2Proof.Machine

/-! ### Answers and resets -/

/-- Every command answers a next state. -/
theorem exec_answers (c : Instr) (s : State) : ∃ t, exec c s = .next t := by
  cases c <;> exact ⟨_, rfl⟩

theorem reset_txOk : State.reset.txOk := txOk_empty rfl (Nat.zero_le _) rfl

theorem reset_linksOk : State.reset.linksOk := resetBy_linksOk .power 1 State.reset

theorem reset_poolOk : State.reset.poolOk := { PoolOk.nil with level := rfl, evacuated := fun _ => rfl }

theorem reset_promptsFit : State.reset.promptsFit := promptsFit_of_empty rfl

theorem reset_carsOk : State.reset.carsOk := fun _ h => nomatch h

/-! ### Counters (R167) -/

theorem Counters.get_set (c : Counters) (k j : Counter) (v : Nat) :
    (c.set k v).get j = if j = k then v else c.get j := by
  cases k <;> cases j <;> rfl

/-! ### Items (R165, R166) -/

theorem getLsbD_addMask {w : Nat} (m : BitVec w) (n k : Nat) :
    (m ||| maskBit w n).getLsbD k = true ↔ m.getLsbD k = true ∨ (k = n ∧ n < w) := by
  rw [BitVec.getLsbD_or, getLsbD_maskBit, Bool.or_eq_true, decide_eq_true_iff]
  refine or_congr_right ⟨fun ⟨hk, e⟩ => ⟨e, e ▸ hk⟩, fun ⟨e, hn⟩ => ⟨e ▸ hn, e⟩⟩

theorem getLsbD_dropMask {w : Nat} (m : BitVec w) (n k : Nat) :
    (m &&& ~~~ maskBit w n).getLsbD k = true ↔ m.getLsbD k = true ∧ k ≠ n := by
  rw [BitVec.getLsbD_and, BitVec.getLsbD_not, getLsbD_maskBit, Bool.and_eq_true]
  refine and_congr_right fun hk => ?_
  have hw : k < w := BitVec.lt_of_getLsbD hk
  simp [hw]

/-- Adding an item makes it present, and no other. -/
theorem Exceptions.has_add (e : Exceptions) (i j : ExcItem) :
    (e.add i).has j = true ↔ e.has j = true ∨ (j = i ∧ i.inRange = true) := by
  cases i <;> cases j <;> simp only [Exceptions.add, Exceptions.has, getLsbD_addMask, ExcItem.inRange] <;> simp

/-- Dropping an item from a record, or from a snapshot, takes that item and no other. -/
theorem Exceptions.has_drop (e : Exceptions) (i j : ExcItem) :
    (e.drop i).has j = true ↔ e.has j = true ∧ j ≠ i := by
  cases i <;> cases j <;> simp only [Exceptions.drop, Exceptions.has, getLsbD_dropMask] <;> simp

/-- A record without an item is the empty record. -/
theorem Exceptions.eq_empty_iff (e : Exceptions) : e = Exceptions.empty ↔ ∀ i, e.has i = false := by
  refine ⟨fun h i => by subst h; cases i <;> simp [Exceptions.has, Exceptions.empty], fun h => ?_⟩
  have mask8 : ∀ m : BitVec 8, (∀ n, m.getLsbD n = false) → m = 0 := fun m hm =>
    BitVec.eq_of_getLsbD_eq fun n _ => by simp [hm]
  have mask16 : ∀ m : BitVec 16, (∀ n, m.getLsbD n = false) → m = 0 := fun m hm =>
    BitVec.eq_of_getLsbD_eq fun n _ => by simp [hm]
  obtain ⟨_, _, _, _, _, _, _, _, showLists, ranges, lost, faults, modules⟩ := e
  have hlists := mask8 showLists fun n => h (.showListFault n)
  have hranges := mask16 ranges fun n => h (.positionRange n)
  have hlost := mask16 lost fun n => h (.carLost n)
  have hfaults := mask8 faults fun n => h (.linkFault n)
  have hmodules := mask8 modules fun n => h (.moduleFault n)
  subst hlists hranges hlost hfaults hmodules
  exact Exceptions.mk.injEq .. |>.mpr ⟨h .powerUp, h .pinReset, h .restarted, h .imageFault, h .imageClamped,
    h .stationClash, h .listenOnly, h .queueOverflow, rfl, rfl, rfl, rfl, rfl⟩

theorem dropItem_snapshot (i : ExcItem) {f : TxFrame} {kind : QueryKind} {part : Nat} {data : List Byte}
    {snap : Exceptions} (h : f.payload = .report kind part data (.snapshot snap)) :
    f.dropItem i = { f with payload := .report kind part data (.snapshot (snap.drop i)) } := by
  simp only [TxFrame.dropItem, h, ReportEffect.dropItem]

/-- A frame without a snapshot stays as it is. -/
theorem dropItem_of_no_snapshot (i : ExcItem) {f : TxFrame}
    (h : ∀ kind part data snap, f.payload ≠ .report kind part data (.snapshot snap)) : f.dropItem i = f := by
  obtain ⟨payload, _, _, _⟩ := f
  cases payload with
  | tempo | panelLoad | sense => rfl
  | report kind part data effect =>
    cases effect with
    | none | lower => rfl
    | snapshot snap => exact absurd rfl (h kind part data snap)

theorem faultPin_iff {s : State} (h : s.loader.state ≠ .loading) :
    s.faultPin = true ↔ ∃ i, s.status.exceptions.has i = true := by
  simp only [State.faultPin, decide_eq_false h, Bool.false_or, decide_eq_true_iff, ne_eq, Exceptions.eq_empty_iff,
    not_forall, Bool.not_eq_false]

/-! ### Load levels (R113, R114) -/

theorem loadLevel_full {length warn : Nat} (h : 12 ≤ length) (before : LoadLevel) :
    loadLevel length warn before = .full := if_pos h

theorem loadLevel_crowded {length warn : Nat} (hl : length < 12) (hw : warn ≤ length) (before : LoadLevel) :
    loadLevel length warn before = .crowded :=
  (if_neg (Nat.not_le.mpr hl)).trans (if_pos hw)

theorem loadLevel_open {length warn : Nat} (hl : length < 12) (hw : length + 2 < warn) (before : LoadLevel) :
    loadLevel length warn before = .open_ :=
  (if_neg (Nat.not_le.mpr hl)).trans ((if_neg (by omega)).trans (if_pos (by omega)))

/-- Between the marks the level before decides: only OPEN stays OPEN. -/
theorem loadLevel_between {length warn : Nat} (hl : length < 12) (hw : warn ≤ length + 2) (ho : length < warn)
    (before : LoadLevel) : loadLevel length warn before = if before = .open_ then .open_ else .crowded := by
  refine (if_neg (Nat.not_le.mpr hl)).trans ((if_neg (by omega)).trans ((if_neg (by omega)).trans ?_))
  cases before <;> rfl

theorem relevel_eq {s : State} {n : Nat} {row : PanelRow} (hr : s.row n = some row) :
    s.relevel n =
      (let length := (onPanel n s.prompts.pool).length
       let level := loadLevel length row.warn (s.levelOf n)
       if level = s.levelOf n then s
       else (({ s with prompts := { s.prompts with levels := s.prompts.levels.set n level } }).request
        (.panelLoad n level length)).2) := by
  unfold State.relevel
  rw [hr]
  rfl

end Sys2Proof.Machine

open Sys2Proof Sys2Proof.Machine

/-- Settles O2: every meaning is a next state, and no event touches the waiting commands (`pending_events`). -/
theorem everyCommandAnswers : Obligations.EveryCommandAnswers := by
  unfold Obligations.EveryCommandAnswers
  intro c s
  obtain ⟨t, ht⟩ := exec_answers c s
  exact ⟨t, ht, exec_preserves (pending_events s.pending) c s t rfl ht⟩

/-- Settles O3. -/
theorem powerAndPinBeginLoading : Obligations.PowerAndPinBeginLoading := by
  unfold Obligations.PowerAndPinBeginLoading
  exact ⟨fun straps s => ⟨s.resetBy .power straps, rfl, rfl, rfl, rfl, rfl, rfl, rfl, rfl, rfl, rfl, rfl, rfl, rfl, rfl⟩,
    reset_txOk, reset_linksOk, reset_poolOk, reset_promptsFit, reset_carsOk⟩

/-- Settles O4: one lemma for each of a counter set, an item added, an item dropped, and the empty record. -/
theorem countsAndItemsStandAlone : Obligations.CountsAndItemsStandAlone := by
  unfold Obligations.CountsAndItemsStandAlone
  refine ⟨fun k j s => ?_, fun _ _ => rfl, fun i j s => s.status.exceptions.has_add i j, fun _ _ => rfl,
    fun i s => ⟨List.length_map _, fun k f hf => ?_⟩, fun s => ⟨fun hl => by simp [State.faultPin, hl], faultPin_iff⟩⟩
  · refine (Counters.get_set ..).trans ?_
    by_cases hj : j = k
    · subst hj
      rfl
    · rw [if_neg hj, if_neg hj]
  · have hk : (s.raise i).bus.queue[k]? = some (f.dropItem i) := by simp [hf]
    refine ⟨fun kind part data snap hp => ⟨snap.drop i, ?_, snap.has_drop i⟩, fun hno => ?_⟩
    · rw [hk, dropItem_snapshot i hp]
    · rw [hk, dropItem_of_no_snapshot i hno]

/-- Settles O26: the rows of R113 one by one, and the recomputation and the report as they are defined. -/
theorem loadLevelHasHysteresis : Obligations.LoadLevelHasHysteresis := by
  unfold Obligations.LoadLevelHasHysteresis
  refine ⟨fun length warn before _ _ _ => ⟨fun h => loadLevel_full h.ge before,
    fun hw hl => loadLevel_crowded (by omega) hw before, fun h => loadLevel_open (by omega) h before,
    fun hl hw ho => loadLevel_between hl hw ho before⟩, fun s n row hr => ?_⟩
  refine ⟨fun h => ?_, fun h => ?_, ?_, fun placed hp => ?_⟩
  · rw [relevel_eq hr]
    exact if_pos h
  · rw [relevel_eq hr]
    exact if_neg h
  · simp [State.reportList]
  · simp [State.reportList, hp]

end

section
/-! PROOFS. The commands that a millisecond brings (log 2): which of the part's timers, thresholds and instants each of them
stands for. -/

namespace Sys2Proof.Machine

/-! ### What is due, kind by kind -/

/-- The commands that only a RUNNING part takes, and those of the links. -/
theorem mem_dueCommands {s : State} {c : Instr} :
    c ∈ s.dueCommands ↔
      (s.loader.state = .running ∧ (c ∈ s.dueCycle ∨ c ∈ s.dueRecords ∨ c ∈ s.dueShow)) ∨ c ∈ s.dueLinks := by
  unfold State.dueCommands State.running
  rw [List.mem_append]
  refine or_congr_left ?_
  by_cases h : s.loader.state = .running <;> simp [h]

theorem mem_dueCycle {s : State} {c : Instr} :
    c ∈ s.dueCycle ↔ (c = .localRestart ∧ s.atWatch = true) ∨ (c = .tempoThreshold ∧ s.atTempo = true) := by
  unfold State.dueCycle
  cases s.atWatch <;> cases s.atTempo <;> simp

theorem mem_dueRecords {s : State} {c : Instr} :
    c ∈ s.dueRecords ↔
      (∃ slot < s.cars.length, s.indicationDue slot = true ∧ .indicationTimerExpiry slot = c) ∨
      (∃ r ∈ s.stops.lanterns, r.lingerDue r.panel r.slot s.now = true ∧ .lingerExpiry r.panel r.slot = c) ∨
      (∃ p ∈ s.prompts.pool, reached p.expiry s.now = true ∧ .holdExpiry p.ticket = c) ∨
      (∃ x ∈ s.mode.claims, reached x.expiry s.now = true ∧ .claimWatchExpiry x.source = c) ∨
      (∃ n ∈ s.panelIds, s.quietDue n = true ∧ .quietTimerExpiry n = c) ∨
      (∃ n ∈ s.panelIds, s.lampDue n = true ∧ .lampTestExpiry n = c) := by
  simp only [State.dueRecords, List.mem_append, List.mem_map, List.mem_filter, mem_forThose, List.mem_range, and_assoc,
    or_assoc]

theorem mem_dueShow {s : State} {c : Instr} :
    c ∈ s.dueShow ↔
      (∃ n ∈ s.panelIds, s.scrollDue n = true ∧ .scrollExpiry n = c) ∨
      (∃ n ∈ s.panelIds, s.instantReachedNow n = true ∧ .preloadInstant n = c) ∨
      (∃ n ∈ s.panelIds, s.markReached n = true ∧ .showMark n = c) := by
  simp only [State.dueShow, List.mem_append, mem_forThose, or_assoc]

theorem mem_dueLinks {s : State} {c : Instr} :
    c ∈ s.dueLinks ↔ (∃ n < 8, s.timedOut n = true ∧ .linkTimeout n = c) ∨
      (∃ n < 8, s.reprobeDue n = true ∧ .reprobeExpiry n = c) := by
  simp only [State.dueLinks, List.mem_append, mem_forThose, List.mem_range]

/-! ### What each due test asks -/

theorem indicationDue_iff {s : State} {slot : Nat} :
    (slot < s.cars.length ∧ s.indicationDue slot = true) ↔
      ∃ r e, s.cars[slot]? = some r ∧ r.timer = some e ∧ (s.now - e).toNat < 2 ^ 31 := by
  unfold State.indicationDue State.carRec
  cases h : s.cars[slot]? with
  | none => simp [Nat.not_lt.mpr (List.getElem?_eq_none_iff.mp h)]
  | some r => simp [due_iff, (List.getElem?_eq_some_iff.mp h).1]

theorem lingerDue_iff {r : Lantern} {now : Clock} :
    r.lingerDue r.panel r.slot now = true ↔
      r.state = .linger ∧ ∃ e, r.linger = some e ∧ (now - e).toNat < 2 ^ 31 := by
  simp [Lantern.lingerDue, due_iff]

theorem quietDue_iff {s : State} {n : Nat} :
    s.quietDue n = true ↔ ∃ q e, s.mode.quiet[n]? = some q ∧ q.timer = some e ∧ (s.now - e).toNat < 2 ^ 31 := by
  unfold State.quietDue
  cases s.mode.quiet[n]? <;> simp [due_iff]

theorem lampDue_iff {s : State} {n : Nat} :
    s.lampDue n = true ↔ ∃ e, s.mode.lamps[n]? = some (some e) ∧ (s.now - e).toNat < 2 ^ 31 := by
  unfold State.lampDue State.lampOf
  cases s.mode.lamps[n]? <;> simp [due_iff]

theorem scrollDue_iff {s : State} {n : Nat} :
    s.scrollDue n = true ↔ ∃ sc e, s.schedules[n]? = some sc ∧ sc.scroll = some e ∧ (s.now - e).toNat < 2 ^ 31 := by
  unfold State.scrollDue State.schedule
  cases s.schedules[n]? <;> simp [due_iff]

theorem instantReachedNow_iff {s : State} {n : Nat} {row : PanelRow} (hr : s.row n = some row) :
    s.instantReachedNow n = true ↔ ∃ sc e, s.schedules[n]? = some sc ∧ row.list[sc.instants]? = some e ∧
      e.mark - (s.timing row).lead ≤ s.ct := by
  unfold State.instantReachedNow State.schedule State.showList State.preloadAt
  cases s.schedules[n]? with
  | none => simp
  | some sc =>
    rw [hr]
    cases h : row.list[sc.instants]? <;> simp [h]

theorem markReached_iff {s : State} {n : Nat} {row : PanelRow} (hr : s.row n = some row) :
    s.markReached n = true ↔ ∃ sc k e, s.schedules[n]? = some sc ∧ sc.pointer = some k ∧ row.list[k]? = some e ∧
      e.mark ≤ s.ct := by
  unfold State.markReached State.schedule State.showList
  cases s.schedules[n]? with
  | none => simp
  | some sc =>
    rw [hr]
    cases hp : sc.pointer with
    | none => simp [hp]
    | some k => cases h : row.list[k]? <;> simp [h, hp]

theorem timedOut_iff {s : State} {n : Nat} :
    s.timedOut n = true ↔ ∃ l f, s.links[n]? = some l ∧ l.inFlight = some f ∧ (s.now - f.expiry).toNat < 2 ^ 31 := by
  unfold State.timedOut State.link
  cases s.links[n]? with
  | none => simp
  | some l => cases h : l.inFlight <;> simp [reached_iff, h]

theorem reprobeDue_iff {s : State} {n : Nat} :
    s.reprobeDue n = true ↔ ∃ l e, s.links[n]? = some l ∧ l.state = .faulted ∧ l.reprobe = some e ∧
      (s.now - e).toNat < 2 ^ 31 := by
  unfold State.reprobeDue State.link
  cases s.links[n]? <;> simp [due_iff]

theorem ct_of_running {s : State} (h : s.loader.state = .running) : s.ct = (s.cycle.clock - s.cycle.base).toNat := by
  simp [State.ct, h, elapsed]

/-! ### The commands that are due, in the words of R31, R32 and log 2 -/

section due
variable {s : State}

theorem localRestart_due : .localRestart ∈ s.dueCommands ↔ s.loader.state = .running ∧ s.lw ≤ s.ct := by
  simp [mem_dueCommands, mem_dueCycle, mem_dueRecords, mem_dueShow, mem_dueLinks, State.atWatch, State.running]

theorem tempoThreshold_due : .tempoThreshold ∈ s.dueCommands ↔
    s.loader.state = .running ∧ s.loader.copy.lc ≤ s.ct ∧ s.cycle.crossed = false := by
  simp [mem_dueCommands, mem_dueCycle, mem_dueRecords, mem_dueShow, mem_dueLinks, atTempo_iff]

theorem indicationTimerExpiry_due (slot : Nat) : .indicationTimerExpiry slot ∈ s.dueCommands ↔
    s.loader.state = .running ∧ ∃ r e, s.cars[slot]? = some r ∧ r.timer = some e ∧ (s.now - e).toNat < 2 ^ 31 := by
  rw [← indicationDue_iff]
  simp [mem_dueCommands, mem_dueCycle, mem_dueRecords, mem_dueShow, mem_dueLinks]

theorem lingerExpiry_due (panel slot : Nat) : .lingerExpiry panel slot ∈ s.dueCommands ↔
    s.loader.state = .running ∧ ∃ r ∈ s.stops.lanterns, ∃ e, r.panel = panel ∧ r.slot = slot ∧ r.state = .linger ∧
      r.linger = some e ∧ (s.now - e).toNat < 2 ^ 31 := by
  simp only [mem_dueCommands, mem_dueCycle, mem_dueRecords, mem_dueShow, mem_dueLinks, lingerDue_iff]
  simp
  grind

theorem holdExpiry_due (ticket : Nat) : .holdExpiry ticket ∈ s.dueCommands ↔
    s.loader.state = .running ∧ ∃ p ∈ s.prompts.pool, p.ticket = ticket ∧ (s.now - p.expiry).toNat < 2 ^ 31 := by
  simp [mem_dueCommands, mem_dueCycle, mem_dueRecords, mem_dueShow, mem_dueLinks, reached_iff, and_comm]

theorem claimWatchExpiry_due (source : Byte) : .claimWatchExpiry source ∈ s.dueCommands ↔
    s.loader.state = .running ∧ ∃ c ∈ s.mode.claims, c.source = source ∧ (s.now - c.expiry).toNat < 2 ^ 31 := by
  simp [mem_dueCommands, mem_dueCycle, mem_dueRecords, mem_dueShow, mem_dueLinks, reached_iff, and_comm]

theorem quietTimerExpiry_due (n : Nat) : .quietTimerExpiry n ∈ s.dueCommands ↔
    s.loader.state = .running ∧ ∃ row q e, s.row n = some row ∧ s.mode.quiet[n]? = some q ∧ q.timer = some e ∧
      (s.now - e).toNat < 2 ^ 31 := by
  simp [mem_dueCommands, mem_dueCycle, mem_dueRecords, mem_dueShow, mem_dueLinks, mem_panelIds, quietDue_iff]

theorem lampTestExpiry_due (n : Nat) : .lampTestExpiry n ∈ s.dueCommands ↔
    s.loader.state = .running ∧ ∃ row e, s.row n = some row ∧ s.mode.lamps[n]? = some (some e) ∧
      (s.now - e).toNat < 2 ^ 31 := by
  simp [mem_dueCommands, mem_dueCycle, mem_dueRecords, mem_dueShow, mem_dueLinks, mem_panelIds, lampDue_iff]

theorem scrollExpiry_due (n : Nat) : .scrollExpiry n ∈ s.dueCommands ↔
    s.loader.state = .running ∧ ∃ row sc e, s.row n = some row ∧ s.schedules[n]? = some sc ∧ sc.scroll = some e ∧
      (s.now - e).toNat < 2 ^ 31 := by
  simp [mem_dueCommands, mem_dueCycle, mem_dueRecords, mem_dueShow, mem_dueLinks, mem_panelIds, scrollDue_iff]

theorem preloadInstant_due (n : Nat) : .preloadInstant n ∈ s.dueCommands ↔
    s.loader.state = .running ∧ ∃ row sc e, s.row n = some row ∧ s.schedules[n]? = some sc ∧
      row.list[sc.instants]? = some e ∧ e.mark - (s.timing row).lead ≤ s.ct := by
  have hmem : .preloadInstant n ∈ s.dueCommands ↔
      s.loader.state = .running ∧ ∃ row, s.row n = some row ∧ s.instantReachedNow n = true := by
    simp [mem_dueCommands, mem_dueCycle, mem_dueRecords, mem_dueShow, mem_dueLinks, mem_panelIds]
  rw [hmem]
  refine and_congr_right fun _ => exists_congr fun row => ?_
  simp only [exists_and_left]
  exact and_congr_right fun hr => by rw [instantReachedNow_iff hr]; simp only [exists_and_left]

theorem showMark_due (n : Nat) : .showMark n ∈ s.dueCommands ↔
    s.loader.state = .running ∧ ∃ row sc k e, s.row n = some row ∧ s.schedules[n]? = some sc ∧
      sc.pointer = some k ∧ row.list[k]? = some e ∧ e.mark ≤ s.ct := by
  have hmem : .showMark n ∈ s.dueCommands ↔
      s.loader.state = .running ∧ ∃ row, s.row n = some row ∧ s.markReached n = true := by
    simp [mem_dueCommands, mem_dueCycle, mem_dueRecords, mem_dueShow, mem_dueLinks, mem_panelIds]
  rw [hmem]
  refine and_congr_right fun _ => exists_congr fun row => ?_
  simp only [exists_and_left]
  exact and_congr_right fun hr => by rw [markReached_iff hr]; simp only [exists_and_left]

theorem linkTimeout_due (n : Nat) : .linkTimeout n ∈ s.dueCommands ↔
    n < 8 ∧ ∃ l f, s.links[n]? = some l ∧ l.inFlight = some f ∧ (s.now - f.expiry).toNat < 2 ^ 31 := by
  rw [← timedOut_iff]
  simp [mem_dueCommands, mem_dueCycle, mem_dueRecords, mem_dueShow, mem_dueLinks]

theorem reprobeExpiry_due (n : Nat) : .reprobeExpiry n ∈ s.dueCommands ↔
    n < 8 ∧ ∃ l e, s.links[n]? = some l ∧ l.state = .faulted ∧ l.reprobe = some e ∧
      (s.now - e).toNat < 2 ^ 31 := by
  rw [← reprobeDue_iff]
  simp [mem_dueCommands, mem_dueCycle, mem_dueRecords, mem_dueShow, mem_dueLinks]

/-- Nothing else is brought by time. -/
theorem kinds_of_due {c : Instr} (h : c ∈ s.dueCommands) :
    c = .localRestart ∨ c = .tempoThreshold ∨ ∃ n m x,
      c = .indicationTimerExpiry n ∨ c = .lingerExpiry n m ∨ c = .holdExpiry n ∨ c = .claimWatchExpiry x ∨
      c = .quietTimerExpiry n ∨ c = .lampTestExpiry n ∨ c = .scrollExpiry n ∨ c = .preloadInstant n ∨
      c = .showMark n ∨ c = .linkTimeout n ∨ c = .reprobeExpiry n := by
  cases c <;> simp [mem_dueCommands, mem_dueCycle, mem_dueRecords, mem_dueShow, mem_dueLinks] at h ⊢

end due

/-- The commands of a millisecond are those due at the clock it brings: an attempt that begins changes none of them. -/
theorem tick_pending (s : State) : s.tick.pending = s.advanceClock.dueCommands := by
  show s.advanceClock.beginAttempt.dueCommands = _
  rw [beginAttempt_eq]
  rfl

end Sys2Proof.Machine

open Sys2Proof Sys2Proof.Machine

/-- Settles O1: the commands of a millisecond (`tick_pending`), kind by kind. -/
theorem stepTakesTheFrontOfTheQueue : Obligations.StepTakesTheFrontOfTheQueue := by
  unfold Obligations.StepTakesTheFrontOfTheQueue
  refine ⟨fun _ _ _ => rfl, fun s => ⟨_, rfl, rfl, ?_⟩⟩
  dsimp only
  rw [tick_pending]
  refine ⟨?_, ?_, indicationTimerExpiry_due, lingerExpiry_due, holdExpiry_due, claimWatchExpiry_due, quietTimerExpiry_due,
    lampTestExpiry_due, scrollExpiry_due, ?_, ?_, linkTimeout_due, reprobeExpiry_due, fun _ => kinds_of_due⟩
  · refine localRestart_due.trans (and_congr_right fun h => ?_)
    rw [ct_of_running h]
    rfl
  · refine tempoThreshold_due.trans (and_congr_right fun h => ?_)
    rw [ct_of_running h]
    rfl
  · refine fun n => (preloadInstant_due n).trans (and_congr_right fun h => ?_)
    rw [ct_of_running h]
    rfl
  · refine fun n => (showMark_due n).trans (and_congr_right fun h => ?_)
    rw [ct_of_running h]
    rfl

end

section
/-! PROOFS. Received frames: the checks of R1 and R2 one after the other, and what a frame that fails one leaves. -/

namespace Sys2Proof.Machine

/-! ### The frame check (R2) -/

/-- One bit into the register by the generator x^16 + x^12 + x^5 + 1. -/
theorem crcBit_eq (r : Word16) (b : Bool) :
    crcBit r b = (r <<< 1) ^^^ (if r.msb = b then 0x0000 else 0x1021) := by
  unfold crcBit
  by_cases h : r.msb = b <;> simp [h]

theorem crc_snoc (bytes : List Byte) (b : Byte) :
    crc (bytes ++ [b]) = [7, 6, 5, 4, 3, 2, 1, 0].foldl
      (fun (r : Word16) i => (r <<< 1) ^^^ (if r.msb = b.getLsbD i then 0x0000 else 0x1021)) (crc bytes) := by
  simp only [← crcBit_eq]
  exact List.foldl_append

/-! ### The kinds (01 section 1.1) -/

/-- The kinds with their classes and the least and most payload length of each. -/
def kindRows : List (Nat × Nat × Nat × Nat) :=
  [(1, 0, 3, 3), (2, 0, 2, 2), (3, 0, 1, 1), (8, 1, 2, 2), (16, 2, 9, 9), (17, 2, 6, 6), (24, 3, 4, 16),
   (25, 3, 7, 7), (26, 3, 2, 2), (27, 3, 3, 3), (28, 3, 5, 5), (29, 3, 3, 3), (30, 3, 2, 16)]

theorem beq_eq_decide_span (n k : Nat) : (n == k) = decide (k ≤ n ∧ n ≤ k) := by
  rw [Bool.eq_iff_iff, beq_iff_eq, decide_eq_true_iff]
  omega

theorem kindTable_of_mem {kind cls least most : Nat} (h : (kind, cls, least, most) ∈ kindRows) (length : Nat) :
    kindTable kind length = some (cls, decide (least ≤ length ∧ length ≤ most)) := by
  simp only [kindRows, List.mem_cons, Prod.mk.injEq, List.not_mem_nil, or_false] at h
  rcases h with h | h | h | h | h | h | h | h | h | h | h | h | h <;> obtain ⟨rfl, rfl, rfl, rfl⟩ := h <;>
    simp [kindTable, beq_eq_decide_span]

theorem kindTable_of_notMem {kind : Nat} (h : kind ∉ kindRows.map (·.1)) (length : Nat) :
    kindTable kind length = none := by
  simp only [kindRows, List.map_cons, List.map_nil, List.mem_cons, List.not_mem_nil, or_false, not_or] at h
  unfold kindTable
  split <;> simp_all

/-- The kinds that the part only sends carry nothing that it decodes. -/
theorem parsePayload_sentKind {kind : Nat} (h : kind = 27 ∨ kind = 28 ∨ kind = 30) (payload : List Byte) :
    parsePayload kind payload = .sentKind := by
  rcases h with rfl | rfl | rfl <;> rfl

/-! ### The checks in their order (R1) -/

theorem verdict_of_long {header source length : Byte} (h : 16 < length.toNat) (rest : List Byte) :
    verdict (header :: source :: length :: rest) = .bad true := if_pos h

theorem verdict_of_truncated {header source length : Byte} {rest : List Byte} (hl : length.toNat ≤ 16)
    (h : rest.length < length.toNat + 2) : verdict (header :: source :: length :: rest) = .bad false := by
  refine (if_neg (Nat.not_lt.mpr hl)).trans ?_
  have hd : (rest.drop length.toNat).length < 2 := by
    rw [List.length_drop]
    omega
  match rest.drop length.toNat, hd with
  | [], _ => rfl
  | [_], _ => rfl

theorem verdict_of_short {bytes : List Byte} (h : bytes.length < 3) : verdict bytes = .bad false := by
  match bytes, h with
  | [], _ => rfl
  | [_], _ => rfl
  | [_, _], _ => rfl

/-- The verdict on a frame that is whole. -/
theorem verdict_of_whole {header source length c1 c2 : Byte} {payload rest : List Byte}
    (hn : payload.length = length.toNat) (hl : payload.length ≤ 16) :
    verdict (header :: source :: length :: (payload ++ c1 :: c2 :: rest)) =
      if c1 ++ c2 ≠ crc (header :: source :: length :: payload) then .bad false
      else if !source.isStation then .bad false
      else match kindTable (header.toNat % 64) payload.length with
        | none => .ignored
        | some (cls, ok) =>
          if header.toNat / 64 = cls ∧ ok = true then .good source (parsePayload (header.toNat % 64) payload)
          else .bad false := by
  unfold verdict
  simp only [← hn, List.take_left, List.drop_left]
  exact if_neg (Nat.not_lt.mpr hl)

theorem isStation_false {b : Byte} (h : b = 0 ∨ b = 255) : b.isStation = false := by
  rcases h with rfl | rfl <;> rfl

theorem isStation_true {b : Byte} (h0 : b ≠ 0) (h255 : b ≠ 255) : b.isStation = true := by
  rw [Byte.isStation, Bool.and_eq_true, bne_iff_ne, bne_iff_ne]
  exact ⟨h0, h255⟩

theorem receiveRaw_of_receives {s : State} (hl : s.loader.state ≠ .loading) (hi : s.bus.ignoring = false) (f : RawFrame) :
    s.receiveRaw f = s.busy.takeVerdict s.frameMark (verdict f.bytes) := if_pos (receives_of hl hi)

end Sys2Proof.Machine

open Sys2Proof Sys2Proof.Machine

/-- Settles O12: the check, the table of kinds, and the verdict by the first check that fails. -/
theorem framesAreCheckedInOrder : Obligations.FramesAreCheckedInOrder := by
  unfold Obligations.FramesAreCheckedInOrder
  refine ⟨⟨rfl, crc_snoc⟩, ⟨fun _ _ _ _ => kindTable_of_mem, fun _ length h => kindTable_of_notMem h length⟩, ?_,
    fun _ => verdict_of_short, fun _ _ _ rest h => verdict_of_long h rest, fun _ _ _ _ => verdict_of_truncated, ?_, ?_⟩
  · exact fun _ _ _ _ _ _ _ _ _ _ => ⟨rfl, rfl, rfl, rfl, rfl, rfl, rfl, rfl, rfl, rfl,
      fun _ payload h => parsePayload_sentKind h payload⟩
  · intro header source length c1 c2 payload rest hn hl
    dsimp only
    rw [verdict_of_whole hn hl]
    refine ⟨fun hp => if_pos hp, fun hp hs => ?_, fun hp h0 h255 hk => ?_, fun cls ok hp h0 h255 hk => ?_⟩
    · simp [hp, isStation_false hs]
    · simp [hp, isStation_true h0 h255, hk]
    · simp [hp, isStation_true h0 h255, hk]
  · intro s f hl hi
    refine ⟨fun ig hv => congrArg Host.Outcome.next ?_, fun hv => congrArg Host.Outcome.next ?_⟩
    · rw [receiveRaw_of_receives hl hi, hv]
      rfl
    · rw [receiveRaw_of_receives hl hi, hv]
      rfl

end

section
/-! PROOFS. Commands without an event of the part: refused frames, frames that reach no block, replies that match nothing, and
expiries of timers that do not run (log 2). -/

namespace Sys2Proof.Machine

/-! ### Frames that reach no block (R1, R4, R17) -/

theorem exec_of_unheard {s : State} {c : Instr} {rx : Rx} (hc : frameRx c = some rx)
    (h : s.loader.state = .loading ∨ s.bus.ignoring = true) : exec c s = .next s.busy := by
  obtain ⟨g, he⟩ := exec_of_frameRx hc
  rw [he, receive_unheard h]

/-- In IMAGE_FAULT no frame but TEMPO, RESTART and STATUS QUERY reaches a block. -/
theorem exec_of_imageFault {s : State} {c : Instr} {rx : Rx} (h : s.receivesFrom rx) (hl : s.loader.state = .imageFault)
    (hc : frameRx c = some rx) (htempo : ∀ count sync, c ≠ .tempo rx count sync)
    (hrestart : ∀ target, c ≠ .restart rx target) (hquery : ∀ f, c ≠ .statusQuery rx f) : exec c s = .next s.busy := by
  have hl' : s.busy.loader.state ≠ .running := by simp [hl]
  have hrun : s.busy.running = false := running_false hl'
  have hroute : ∀ g, s.receive rx g = s.busy.route rx s.frameMark g := receive_route h
  cases c <;> cases hc
  case buildingMode => exact congrArg Host.Outcome.next ((hroute _).trans (if_neg (by simp [hrun])))
  case carService => exact congrArg Host.Outcome.next ((hroute _).trans (routeCar_fault hl' _ _))
  case restart target => exact absurd rfl (hrestart target)
  case tempo count sync => exact absurd rfl (htempo count sync)
  case carMotion => exact congrArg Host.Outcome.next ((hroute _).trans (routeCar_fault hl' _ _))
  case carStep => exact congrArg Host.Outcome.next ((hroute _).trans (routeCar_fault hl' _ _))
  case carCalls => exact congrArg Host.Outcome.next ((hroute _).trans (routeCar_fault hl' _ _))
  case assign => exact congrArg Host.Outcome.next ((hroute _).trans (if_neg (by simp [hrun])))
  case withdraw => exact congrArg Host.Outcome.next ((hroute _).trans (if_neg (by simp [hrun])))
  case statusQuery f => exact absurd rfl (hquery f)

/-- A car frame whose number no row bears is filtered. -/
theorem receive_of_unknown_car {s : State} {rx : Rx} (h : s.receivesFrom rx) {car : Byte} (hs : s.carSlot car = none)
    {g : GoodFrame} {take : Nat → State → State} (hg : ∀ t : State, t.route rx s.frameMark g = t.routeCar car take) :
    s.receive rx g = s.busy := by
  rw [receive_route h, hg]
  exact routeCar_unknown (s := s.busy) hs take

/-! ### Frames refused or without effect -/

theorem carServiceTaken_refused {s : State} {slot : Nat} {row : CarRow} (hr : s.carRow slot = some row) {c : Byte}
    (hc : 4 < c.toNat) : s.carServiceTaken slot c = s.count .fieldRange := by
  simp only [State.carServiceTaken, hr, decodeService_none hc]

/-- A motion or a door code outside the table refuses the frame; the upper half is read for a double-deck car alone. -/
theorem decodeMotionFrame_none {row : CarRow} {f : MotionFrame}
    (h : 4 < f.motion.toNat ∨ 3 < f.doors.toNat % 16 ∨ (row.step ≠ 0 ∧ 3 < f.doors.toNat / 16)) :
    decodeMotionFrame row f = none := by
  unfold decodeMotionFrame
  rcases h with h | h | ⟨hstep, h⟩
  · rw [decodeMotion_none h]
  · rw [decodeDoor_none h]
    split <;> simp_all
  · rw [decodeDoor_none (n := f.doors.toNat / 16) h, if_neg hstep]
    split <;> simp_all

theorem carMotionTaken_refused {s : State} {slot : Nat} {row : CarRow} (hr : s.carRow slot = some row) {f : MotionFrame}
    (hf : decodeMotionFrame row f = none) (mark : Clock) : s.carMotionTaken slot mark f = s.count .fieldRange := by
  simp only [State.carMotionTaken, hr, hf]

theorem carStepTaken_refused {s : State} {slot : Nat} {row : CarRow} (hr : s.carRow slot = some row) {f : StepFrame}
    (hf : 4 < f.motion.toNat) (mark : Clock) : s.carStepTaken slot mark f = s.count .fieldRange := by
  simp only [State.carStepTaken, hr, decodeMotion_none hf]

theorem carCallsTaken_refused {s : State} {slot : Nat} {row : CarRow} (hr : s.carRow slot = some row) {f : CallsFrame}
    (hf : 1 < f.deck.toNat ∨ (f.deck = 1 ∧ row.step = 0) ∨ 2 < f.intent.toNat) :
    s.carCallsTaken slot f = s.count .fieldRange := by
  unfold State.carCallsTaken
  rcases hf with h | ⟨hdeck, hstep⟩ | h
  · simp only [hr, decodeCallsDeck_none h]
  · have hd : decodeCallsDeck f.deck = some .upper := by rw [hdeck]; rfl
    cases hi : decodeIntent f.intent <;> simp [hr, hd, hstep]
  · cases hd : decodeCallsDeck f.deck <;> simp [hr, decodeIntent_none h]

/-- CAR CALLS whose sequence is not newer than the deck's last change nothing (R88). -/
theorem carCallsTaken_of_older {s : State} {slot : Nat} {row : CarRow} (hr : s.carRow slot = some row) {f : CallsFrame}
    {d : Deck} {intent : Dir} {last : Byte} (hd : decodeCallsDeck f.deck = some d) (hs : ¬ (d = .upper ∧ row.step = 0))
    (hi : decodeIntent f.intent = some intent) (hl : ((s.decksOf slot).get d).lastSeq = some last)
    (hold : (f.seq - last).toNat = 0 ∨ 127 < (f.seq - last).toNat) : s.carCallsTaken slot f = s := by
  have hnew : (1 ≤ (f.seq - last).toNat && (f.seq - last).toNat ≤ 127) = false := by
    rw [Bool.and_eq_false_iff, decide_eq_false_iff_not, decide_eq_false_iff_not]
    omega
  simp only [State.carCallsTaken, hr, hd, hi, if_neg hs, hl, hnew]
  rfl

theorem buildingModeTaken_refused {s : State} {f : ModeFrame} (hf : 5 < f.mode.toNat) (source : Byte) :
    s.buildingModeTaken source f = s.count .fieldRange := by
  simp only [State.buildingModeTaken, decodeMode_none hf]

theorem buildingModeTaken_of_no_text {s : State} {f : ModeFrame} (hf : f.mode = 0)
    (hz : f.zones.getLsbD s.loader.copy.zone = true) (ht : s.loader.copy.texts.length ≤ f.text.toNat) (source : Byte) :
    s.buildingModeTaken source f = s.count .fieldRange := by
  have hm : decodeMode f.mode = some .notice := by rw [hf]; rfl
  simp [State.buildingModeTaken, hm, hz, State.textBeyond, ht]

theorem buildingModeTaken_of_other_zone {s : State} {f : ModeFrame} (hf : f.mode.toNat ≤ 5)
    (hz : f.zones.getLsbD s.loader.copy.zone = false) (source : Byte) : s.buildingModeTaken source f = s := by
  obtain ⟨code, hm⟩ := decodeMode_some hf
  simp only [State.buildingModeTaken, hm, hz, if_true]

/-- Each test of R100 refuses on its own. -/
theorem testAssign_refused {s : State} {f : AssignFrame}
    (h : s.mode.evacuation = true ∨ s.keypadPanel f.keypad = none ∨ s.carSlot f.car = none ∨
      s.loader.copy.landings.length ≤ f.dest.toNat ∨ 4095 < f.ticket.toNat ∨ 2 < f.deck.toNat ∨
      (∃ slot row, s.knows f.car slot row ∧ f.deck = 2 ∧ row.step = 0) ∨
      1 < f.accessLang.toNat % 16 ∨ 1 < f.accessLang.toNat / 16) : s.testAssign f = none := by
  unfold State.testAssign
  rcases h with h | h | h | h | h | h | ⟨slot, row, ⟨hslot, hrow, -⟩, hdeck, hstep⟩ | h
  · simp [h]
  · simp [h]
  · simp only [h]
    repeat' split
    all_goals rfl
  · simp only [h, if_true]
    repeat' (split; rfl)
    rfl
  · simp only [h, if_true]
    repeat' split
    all_goals rfl
  · simp only [decodeAssignDeck_none h]
    repeat' split
    all_goals rfl
  · have hd : decodeAssignDeck f.deck = some (some .upper) := by rw [hdeck]; rfl
    have hup : (s.carRow slot).map (·.step) = some 0 := by simp [State.carRow, hrow, hstep]
    simp only [hd, hslot, hup, and_self, if_true]
    repeat' split
    all_goals rfl
  · simp only [decodeAccessLang_none h]
    repeat' split
    all_goals rfl

theorem queryTaken_refused {s : State} {f : QueryFrame} (hf : 2 < f.kind.toNat ∨ 1 < f.clear.toNat) :
    s.queryTaken f = s.count .fieldRange := by
  unfold State.queryTaken
  rcases hf with h | h
  · rw [decodeQueryKind_none h]
  · rw [decodeClear_none h]
    split <;> simp_all

/-- Removing no entry changes nothing and reports nothing. -/
theorem removePrompts_of_none {s : State} {p : Prompt → Bool} (h : ∀ x ∈ s.prompts.pool, p x = false) :
    s.removePrompts p = s := by
  have hgone : s.prompts.pool.filter p = [] := List.filter_eq_nil_iff.mpr fun x hx => by simp [h x hx]
  have hkept : s.prompts.pool.filter (fun x => !p x) = s.prompts.pool :=
    List.filter_eq_self.mpr fun x hx => by simp [h x hx]
  simp only [State.removePrompts, hgone, hkept]
  simp [State.reportLists, forEach, State.setPool]

/-! ### Replies of a module (R152, R171) -/

theorem parseReply_ack_iff (bytes : List Byte) (tag moduleState : Byte) :
    parseReply bytes = some (.ack tag moduleState) ↔
      ∃ c1 c2 : Byte, bytes = [128, tag, 1, moduleState, c1, c2] ∧ c1 ++ c2 = crc [128, tag, 1, moduleState] := by
  constructor
  · intro h
    unfold parseReply at h
    split at h
    · next c1 c2 =>
      split at h
      · next hc =>
        obtain ⟨rfl, rfl, hcrc⟩ := hc
        simp only [Option.some.injEq, Reply.ack.injEq] at h
        obtain ⟨rfl, rfl⟩ := h
        exact ⟨c1, c2, rfl, hcrc⟩
      · cases h
    · split at h <;> cases h
    · cases h
  · rintro ⟨c1, c2, rfl, hcrc⟩
    exact if_pos ⟨rfl, rfl, hcrc⟩

theorem parseReply_nak_iff (bytes : List Byte) (tag : Byte) :
    parseReply bytes = some (.nak tag) ↔
      ∃ c1 c2 : Byte, bytes = [129, tag, 0, c1, c2] ∧ c1 ++ c2 = crc [129, tag, 0] := by
  constructor
  · intro h
    unfold parseReply at h
    split at h
    · split at h <;> cases h
    · next c1 c2 =>
      split at h
      · next hc =>
        obtain ⟨rfl, rfl, hcrc⟩ := hc
        simp only [Option.some.injEq, Reply.nak.injEq] at h
        subst h
        exact ⟨c1, c2, rfl, hcrc⟩
      · cases h
    · cases h
  · rintro ⟨c1, c2, rfl, hcrc⟩
    exact if_pos ⟨rfl, rfl, hcrc⟩

theorem matching_none {s : State} {n : Nat} {tag : Byte}
    (h : ∀ l f, s.links[n]? = some l → l.inFlight = some f → f.tag ≠ tag) : s.matching n tag = none := by
  unfold State.matching State.link
  cases hl : s.links[n]? with
  | none => rfl
  | some l =>
    cases hf : l.inFlight with
    | none => simp [hf]
    | some f => simp [hf, h l f hl hf]

theorem ackTaken_unmatched {s : State} {n : Nat} {tag : Byte} (h : s.matching n tag = none) (moduleState : Byte) :
    s.ackTaken n tag moduleState = s := by
  simp only [State.ackTaken, h]

theorem nakTaken_unmatched {s : State} {n : Nat} {tag : Byte} (h : s.matching n tag = none) : s.nakTaken n tag = s := by
  simp only [State.nakTaken, h]

/-! ### Timers that do not run (log 2) -/

theorem whenRunning_id {f : State → State} {s : State} (h : f s = s) : s.whenRunning f = s := by
  unfold State.whenRunning
  split
  · exact h
  · rfl

/-- An expiry that is not reached is no event. -/
theorem whenRunning_not_due {b : State → Bool} {f : State → State} {s : State} (h : b s = false) :
    s.whenRunning (fun t => if b t then f t else t) = s := whenRunning_id (if_neg (by simp [h]))

theorem frameIn_of_queued {s : State} (h : ∀ g ∈ s.bus.queue, g.state = .queued) {st : AttemptState} (hst : st ≠ .queued) :
    s.frameIn st = none :=
  List.find?_eq_none.mpr fun g hg => by simp [h g hg, hst.symm]

end Sys2Proof.Machine

open Sys2Proof Sys2Proof.Machine

/-- Settles O14: each block counts the refusal and stops. -/
theorem refusedFramesAreCounted : Obligations.RefusedFramesAreCounted := by
  unfold Obligations.RefusedFramesAreCounted
  intro s rx
  refine ⟨fun h => ⟨fun f hf => ?_, fun f hf hz ht => ?_, fun car service slot row k hc => ?_, fun f slot row k hf => ?_,
    fun f slot row k hf => ?_, fun f slot row k hf => ?_, fun f hf => ?_⟩, fun h f ha hf => ?_⟩
  · rw [exec_buildingMode h, buildingModeTaken_refused hf]
  · rw [exec_buildingMode h, buildingModeTaken_of_no_text (s := s.busy) hf hz ht]
  · rw [exec_carService h k, carServiceTaken_refused (carRow_of k) hc]
  · rw [exec_carMotion h k, carMotionTaken_refused (carRow_of k) (decodeMotionFrame_none hf)]
  · rw [exec_carStep h k, carStepTaken_refused (carRow_of k) hf]
  · rw [exec_carCalls h k, carCallsTaken_refused (carRow_of k) hf]
  · rw [exec_assign h]
    simp only [State.assignTaken, testAssign_refused (s := s.busy) hf]
  · rw [exec_statusQuery h ha, queryTaken_refused hf]

/-- Settles O15. -/
theorem framesThatChangeNothing : Obligations.FramesThatChangeNothing := by
  unfold Obligations.FramesThatChangeNothing
  intro s
  refine ⟨fun c rx hc h => exec_of_unheard hc h, fun f h => ⟨congrArg Host.Outcome.next (receiveRaw_unheard h f),
    congrArg Host.Outcome.next (receiveRaw_unheard h f)⟩, fun rx h => ?_, fun rx h => ?_⟩
  · refine ⟨fun hl c hc => exec_of_imageFault h hl hc, fun target ha => ?_, fun f ha => ?_, fun car service hs => ?_,
      fun f hs => ?_, fun f hs => ?_, fun f hs => ?_⟩
    · exact congrArg Host.Outcome.next ((receive_route h _).trans (if_neg (Bool.eq_false_iff.mp ha)))
    · exact congrArg Host.Outcome.next ((receive_route h _).trans (if_neg (Bool.eq_false_iff.mp ha)))
    · exact congrArg Host.Outcome.next (receive_of_unknown_car h hs fun _ => rfl)
    · exact congrArg Host.Outcome.next (receive_of_unknown_car h hs fun _ => rfl)
    · exact congrArg Host.Outcome.next (receive_of_unknown_car h hs fun _ => rfl)
    · exact congrArg Host.Outcome.next (receive_of_unknown_car h hs fun _ => rfl)
  · refine ⟨fun f hf hz => ?_, fun f slot row d intent last k hd hs hi hl hold => ?_, fun ticket hp => ?_⟩
    · rw [exec_buildingMode h, buildingModeTaken_of_other_zone (s := s.busy) hf hz]
    · rw [exec_carCalls h k, carCallsTaken_of_older (s := s.busy) (carRow_of k) hd hs hi hl hold]
    · rw [exec_withdraw h, State.withdrawTaken, removePrompts_of_none fun p hpool => by simpa using hp p hpool]

/-- Settles O56. -/
theorem eventsWithoutACauseChangeNothing : Obligations.EventsWithoutACauseChangeNothing := by
  unfold Obligations.EventsWithoutACauseChangeNothing
  refine ⟨parseReply_ack_iff, parseReply_nak_iff, fun s => ⟨fun n bytes h => ?_, fun n bytes tag m h => ?_,
    fun n bytes tag h => ?_, fun n tag m h => ?_, fun n h => ?_, fun n h => ?_, fun slot r hr ht => ?_, fun n q hq ht => ?_,
    fun n h => ?_, fun n sc hs ht => ?_, fun ticket h => ?_, fun source h => ?_, fun h => ?_, fun h => ?_, fun memory h => ?_⟩⟩
  · exact congrArg Host.Outcome.next (by simp only [State.replyTaken, h])
  · exact congrArg Host.Outcome.next (by simp only [State.replyTaken, h])
  · exact congrArg Host.Outcome.next (by simp only [State.replyTaken, h])
  · have hm := matching_none h
    refine ⟨congrArg Host.Outcome.next (ackTaken_unmatched hm m), congrArg Host.Outcome.next (nakTaken_unmatched hm),
      fun bytes hb => congrArg Host.Outcome.next ?_⟩
    rcases hb with hb | hb
    · simp only [State.replyTaken, hb, ackTaken_unmatched hm]
    · simp only [State.replyTaken, hb, nakTaken_unmatched hm]
  · have hout : s.timedOut n = false := by
      rw [Bool.eq_false_iff, Ne, timedOut_iff]
      rintro ⟨l, f, hl, hf, -⟩
      simp [h l hl] at hf
    exact congrArg Host.Outcome.next (if_neg (by simp [hout]))
  · have hdue : s.reprobeDue n = false := by
      rw [Bool.eq_false_iff, Ne, reprobeDue_iff]
      rintro ⟨l, e, hl, -, he, -⟩
      simp [h l hl] at he
    exact congrArg Host.Outcome.next (if_neg (by simp [hdue]))
  · exact congrArg Host.Outcome.next (whenRunning_not_due (b := fun t => t.indicationDue slot)
      (by simp [State.indicationDue, State.carRec, hr, ht, due]))
  · exact congrArg Host.Outcome.next (whenRunning_not_due (b := fun t => t.quietDue n)
      (by simp [State.quietDue, hq, ht, due]))
  · exact congrArg Host.Outcome.next (whenRunning_not_due (b := fun t => t.lampDue n)
      (by simp [State.lampDue, State.lampOf, h, due]))
  · exact congrArg Host.Outcome.next (whenRunning_not_due (b := fun t => t.scrollDue n)
      (by simp [State.scrollDue, State.schedule, hs, ht, due]))
  · exact congrArg Host.Outcome.next (whenRunning_id (removePrompts_of_none fun p hp => by simp [h p hp]))
  · refine congrArg Host.Outcome.next (whenRunning_id (if_neg ?_))
    simp only [List.any_eq_true, Bool.and_eq_true, beq_iff_eq, not_exists, not_and]
    exact fun c hc he => absurd he (h c hc)
  · have hwatch : s.atWatch = false := by
      have hlw : ¬ s.lw ≤ s.ct := by
        unfold State.lw
        omega
      simp [State.atWatch, hlw]
    have htempo : s.atTempo = false := by simp [State.atTempo, h]
    exact ⟨congrArg Host.Outcome.next (if_neg (by simp [htempo])), congrArg Host.Outcome.next (if_neg (by simp [hwatch]))⟩
  · have hsend : s.frameIn .sending = none := frameIn_of_queued h (by decide)
    have hcont : s.frameIn .contending = none := frameIn_of_queued h (by decide)
    refine ⟨congrArg Host.Outcome.next ?_, congrArg Host.Outcome.next ?_, congrArg Host.Outcome.next ?_⟩
    · simp only [State.lostArbitration, hcont]
    · simp only [State.failedAttempt, State.attempting, hsend, hcont]
    · simp only [State.attemptCompleted, hsend]
  · exact congrArg Host.Outcome.next (if_neg h)

end

section
/-! PROOFS. The transmit queue: what a request is answered, when an attempt begins, and what its outcomes leave (01 sections
1.4 to 1.7). -/

namespace Sys2Proof.Machine

/-! ### Requests (R7 to R9) -/

theorem request_of_listenOnly {s : State} (hb : s.bus.state = .listenOnly) (p : TxPayload) :
    s.request p = (.dropped, if p.header = 72 then s else s.count .framesDropped) := if_pos hb

theorem request_of_imageFault {s : State} (hb : s.bus.state = .active) (hl : s.loader.state = .imageFault) {p : TxPayload}
    (hp : p.header ≠ 222) : s.request p = (.dropped, s.count .framesDropped) :=
  (if_neg (by simp [hb])).trans (if_pos ⟨hl, hp⟩)

section answers
variable {s : State} {p : TxPayload} (hb : s.bus.state = .active) (hl : s.loader.state ≠ .imageFault ∨ p.header = 222)
include hb hl

/-- The cases of R7 that remain in ACTIVE once the loader state lets the request through. -/
theorem request_of_active : s.request p =
    if p.header = 72 then
      if s.bus.queue.any (fun f => f.payload.header == 72) then (.dropped, s) else (.accepted, s.enqueue p)
    else if s.bus.queue.any (fun f => f.takes p) then
      (.coalesced, { s with bus := { s.bus with
          queue := s.bus.queue.map (fun f => if f.takes p then f.coalesce p else f) } })
    else if 7 ≤ frameCount TxFrame.shared s.bus.queue then (.dropped, (s.count .framesDropped).raise .queueOverflow)
    else (.accepted, s.enqueue p) := by
  have hnot : ¬ (s.loader.state = .imageFault ∧ p.header ≠ 222) := fun ⟨h, hp⟩ => hl.elim (· h) hp
  exact (if_neg (by simp [hb])).trans (if_neg hnot)

theorem request_of_reserved_slot (hp : p.header = 72) (hq : ∀ g ∈ s.bus.queue, g.isTempo = false) :
    s.request p = (.accepted, s.enqueue p) := by
  have hfree : ¬ s.bus.queue.any (fun f => f.payload.header == 72) = true := by
    simpa [TxFrame.isTempo] using hq
  rw [request_of_active hb hl, if_pos hp, if_neg hfree]

theorem request_of_takes (hp : p.header ≠ 72) (hq : ∃ g ∈ s.bus.queue, g.takes p = true) :
    s.request p = (.coalesced, { s with bus := { s.bus with
      queue := s.bus.queue.map (fun f => if f.takes p then f.coalesce p else f) } }) := by
  rw [request_of_active hb hl, if_neg hp, if_pos (List.any_eq_true.mpr hq)]

theorem request_of_full (hp : p.header ≠ 72) (hq : ∀ g ∈ s.bus.queue, g.takes p = false)
    (hfull : 7 ≤ frameCount TxFrame.shared s.bus.queue) :
    s.request p = (.dropped, (s.count .framesDropped).raise .queueOverflow) := by
  rw [request_of_active hb hl, if_neg hp, if_neg (by simpa using hq), if_pos hfull]

theorem request_of_room (hp : p.header ≠ 72) (hq : ∀ g ∈ s.bus.queue, g.takes p = false)
    (hroom : frameCount TxFrame.shared s.bus.queue < 7) : s.request p = (.accepted, s.enqueue p) := by
  rw [request_of_active hb hl, if_neg hp, if_neg (by simpa using hq), if_neg (Nat.not_le.mpr hroom)]

end answers

theorem takes_panelLoad_iff {f : TxFrame} {m c' : Nat} {level' : LoadLevel} (h : f.payload = .panelLoad m level' c')
    (n c : Nat) (level : LoadLevel) :
    f.takes (.panelLoad n level c) = true ↔ n = m ∧ f.state ≠ .sending ∧ f.withdrawn = false := by
  simp only [TxFrame.takes, h, Bool.and_eq_true, beq_iff_eq, bne_iff_ne, Bool.not_eq_true']
  exact ⟨fun ⟨hw, hn, hs⟩ => ⟨hn, hs, hw⟩, fun ⟨hn, hs, hw⟩ => ⟨hw, hn, hs⟩⟩

theorem takes_sense_iff {f : TxFrame} {line' edges ct' : Nat} {c' : BitVec 6} (h : f.payload = .sense line' edges c' ct')
    (line k ct : Nat) (c : BitVec 6) :
    f.takes (.sense line k c ct) = true ↔ line = line' ∧ f.withdrawn = false := by
  simp [TxFrame.takes, h, and_comm]

/-- A STATUS REPORT coalesces with no frame. -/
theorem takes_report (f : TxFrame) (kind : QueryKind) (part : Nat) (data : List Byte) (effect : ReportEffect) :
    f.takes (.report kind part data effect) = false := by
  simp [TxFrame.takes]

theorem coalesce_sense {f : TxFrame} {line' edges ct' : Nat} {c' : BitVec 6} (h : f.payload = .sense line' edges c' ct')
    (line k ct : Nat) (c : BitVec 6) : f.coalesce (.sense line k c ct) =
      if f.state = .sending then { f with held := min 254 (f.held + k) }
      else { f with payload := .sense line' (min 255 (edges + k)) c' ct' } := by
  simp only [TxFrame.coalesce, h]

/-! ### The start of an attempt (R5, R11) -/

theorem frameIn_isNone_iff {s : State} {st : AttemptState} :
    (s.frameIn st).isNone = true ↔ ∀ g ∈ s.bus.queue, g.state ≠ st := by
  simp [State.frameIn]

theorem noAttempt_iff {s : State} : s.noAttempt = true ↔ ∀ g ∈ s.bus.queue, g.state = .queued := by
  rw [State.noAttempt, Bool.and_eq_true, frameIn_isNone_iff, frameIn_isNone_iff]
  refine ⟨fun ⟨hc, hs⟩ g hg => ?_, fun h => ⟨fun g hg => by simp [h g hg], fun g hg => by simp [h g hg]⟩⟩
  have hc := hc g hg
  have hs := hs g hg
  cases hst : g.state <;> simp_all

theorem frameIn_queued_of_head {s : State} {f : TxFrame} {rest : List TxFrame} (hq : s.bus.queue = f :: rest)
    (h : f.state = .queued) : s.frameIn .queued = some f := by
  simp [State.frameIn, hq, h]

theorem attemptReady_of_head {s : State} {f : TxFrame} {rest : List TxFrame} (hfree : s.bus.busFree = true)
    (hb : s.bus.state = .active) (hq : s.bus.queue = f :: rest) (hqueued : ∀ g ∈ s.bus.queue, g.state = .queued)
    (hl : s.loader.state = .running ∨ (s.loader.state = .imageFault ∧ f.payload.header = 222)) :
    s.attemptReady = true := by
  have hf : f.state = .queued := hqueued f (by simp [hq])
  have hstart : s.mayStart f = true := by
    rcases hl with hl | ⟨hl, hh⟩
    · simp [State.mayStart, hl]
    · simp [State.mayStart, hl, hh]
  simp [State.attemptReady, hfree, hb, noAttempt_iff.mpr hqueued, frameIn_queued_of_head hq hf, hstart]

/-- What keeps the part from beginning an attempt on the free bus. -/
theorem attemptReady_false {s : State}
    (h : s.bus.state = .listenOnly ∨ s.bus.queue = [] ∨ (∃ g ∈ s.bus.queue, g.state ≠ .queued) ∨
      s.loader.state = .loading ∨ (s.loader.state = .imageFault ∧ ∀ g ∈ s.bus.queue, g.payload.header ≠ 222)) :
    s.attemptReady = false := by
  unfold State.attemptReady
  rcases h with h | h | ⟨g, hg, hstate⟩ | h | ⟨hl, hq⟩
  · simp [h]
  · simp [frameIn_of_empty h]
  · have hno : s.noAttempt = false := by
      rw [Bool.eq_false_iff, Ne, noAttempt_iff]
      exact fun hall => hstate (hall g hg)
    simp [hno]
  · cases s.frameIn .queued <;> simp [State.mayStart, h]
  · cases hf : s.frameIn .queued with
    | none => simp
    | some f => simp [State.mayStart, hl, hq f (frameIn_spec hf).1]

theorem ownAttempt_of_head {s : State} {f : TxFrame} {rest : List TxFrame} (hq : s.bus.queue = f :: rest)
    (hf : f.state = .queued) : s.ownAttempt = { s with bus := { s.bus with
      queue := { f with state := .contending } :: rest, busFree := false, firstBit := some s.cycle.clock } } := by
  simp only [State.ownAttempt, State.firstBitNow, hq, startHead, hf, if_true]
  rfl

/-! ### Outcomes of an attempt (R9 to R14) -/

theorem tellWithdrawn_eq (f : TxFrame) (s : State) : s.tellWithdrawn f =
    { s with cycle := { s.cycle with pendingTempo := s.cycle.pendingTempo && !f.isTempo } } := by
  unfold State.tellWithdrawn TxFrame.isTempo
  cases hp : f.payload <;> simp [TxPayload.header]

theorem returnFrame_kept {s : State} {f : TxFrame} (h : f.withdrawn = false) :
    s.returnFrame f = s.changeIn f.state (fun g => { g with state := .queued }) := if_neg (by simp [h])

theorem returnFrame_removed {s : State} {f : TxFrame} (h : f.withdrawn = true) :
    s.returnFrame f = { s with
      bus := { s.bus with queue := s.bus.queue.filter (fun g => g.state != f.state) },
      cycle := { s.cycle with pendingTempo := s.cycle.pendingTempo && !f.isTempo } } :=
  (if_pos h).trans (tellWithdrawn_eq f _)

/-- A frame that has taken its held edges and is QUEUED again. -/
theorem map_addHeld_queued (st : AttemptState) (q : List TxFrame) :
    (q.map (fun g => if g.state = st then g.addHeld else g)).map
      (fun g => if g.state = st then { g with state := .queued } else g) =
    q.map (fun g => if g.state = st then { g.addHeld with state := .queued } else g) := by
  rw [List.map_map]
  refine List.map_congr_left fun g _ => ?_
  by_cases h : g.state = st
  · simp [h, (addHeld_spec g).2]
  · simp [h]

theorem filter_addHeld (st : AttemptState) (q : List TxFrame) :
    (q.map (fun g => if g.state = st then g.addHeld else g)).filter (fun g => g.state != st) =
      q.filter (fun g => g.state != st) := by
  induction q with
  | nil => rfl
  | cons g q ih =>
    by_cases h : g.state = st
    · simp [h, (addHeld_spec g).2, ih]
    · simp [h, ih]

/-- The state in which a failed attempt is counted. -/
def State.failCounted (s : State) : State :=
  { s.count .txFailures with bus := { s.bus with failCount := failRaised s.bus.failCount } }

theorem addHeld_owner (f : TxFrame) : f.addHeld.isTempo = f.isTempo ∧ f.addHeld.isOpenReport = f.isOpenReport ∧
    ∀ line, f.addHeld.sensesLine line = f.sensesLine line := by
  unfold TxFrame.addHeld TxFrame.isTempo TxFrame.isOpenReport TxFrame.sensesLine
  cases hp : f.payload <;> simp [hp, TxPayload.header]

/-- Whether a frame's held edges have joined its count is nothing to the owner of a discarded frame. -/
theorem toldDropped_addHeld (st : AttemptState) (q : List TxFrame) (s : State) :
    s.toldDropped (q.map (fun g => if g.state = st then g.addHeld else g)) = s.toldDropped q := by
  have hany : ∀ p : TxFrame → Bool, (∀ g : TxFrame, p g.addHeld = p g) →
      (q.map (fun g => if g.state = st then g.addHeld else g)).any p = q.any p := by
    intro p hp
    rw [List.any_map]
    refine List.any_congr rfl fun g => ?_
    by_cases h : g.state = st <;> simp [h, hp]
  simp only [State.toldDropped, armedBy, hany _ fun g => (addHeld_owner g).1, hany _ fun g => (addHeld_owner g).2.1,
    hany _ fun g => (addHeld_owner g).2.2 _]

theorem failedAttempt_eq {s : State} {f : TxFrame} (hf : s.attempting = some f) :
    s.failedAttempt =
      if s.bus.state = .active ∧ 96 ≤ min 255 (s.bus.failCount + 4) then
        (s.failCounted.changeIn f.state TxFrame.addHeld).enterListenOnly
      else (s.failCounted.changeIn f.state TxFrame.addHeld).returnFrame f := by
  simp only [State.failedAttempt, hf]
  rfl

/-- The frames discarded on the entry to LISTEN_ONLY are told of as they stood before the failure. -/
theorem failed_enterListenOnly (s : State) (st : AttemptState) :
    (s.changeIn st TxFrame.addHeld).enterListenOnly = s.enterListenOnly := by
  rw [enterListenOnly_eq, enterListenOnly_eq]
  show ((State.countN _ (s.bus.queue.map _).length _).toldDropped (s.bus.queue.map _)).raise _ = _
  rw [List.length_map, toldDropped_addHeld]
  rfl

end Sys2Proof.Machine

open Sys2Proof Sys2Proof.Machine

/-- Settles O30: R7 case by case, and what R8 and R9 make of a frame that takes the request. -/
theorem requestsAreAnsweredInOrder : Obligations.RequestsAreAnsweredInOrder := by
  unfold Obligations.RequestsAreAnsweredInOrder
  refine ⟨fun s p => ⟨fun hb => request_of_listenOnly hb p, fun hb hl hp => request_of_imageFault hb hl hp,
    fun hb hl => ⟨request_of_reserved_slot hb hl, request_of_takes hb hl, request_of_full hb hl, request_of_room hb hl⟩⟩,
    fun f n m level level' c c' h => ⟨takes_panelLoad_iff h n c level, ?_⟩,
    fun f line line' k edges ct ct' c c' h => ⟨takes_sense_iff h line k ct c, fun hs => ?_, fun hs => ?_⟩⟩
  · simp only [TxFrame.coalesce]
  · rw [coalesce_sense h, if_pos hs]
  · rw [coalesce_sense h, if_neg hs]

/-- Settles O31: the part's own attempt where it is ready (`attemptReady_of_head`), and another station's first bit where it
is not (`attemptReady_false`). -/
theorem attemptStartsWhenReady : Obligations.AttemptStartsWhenReady := by
  unfold Obligations.AttemptStartsWhenReady
  refine ⟨fun s f rest hfree hb hq hqueued hl => ?_, fun s hfree h => ?_, fun s hbusy => ?_, fun s => rfl⟩
  · have hready := attemptReady_of_head hfree hb hq hqueued hl
    have hown := ownAttempt_of_head hq (hqueued f (by simp [hq]))
    exact ⟨congrArg Host.Outcome.next ((if_pos hready).trans hown), (if_pos hready).trans hown⟩
  · have hready := attemptReady_false h
    exact ⟨congrArg Host.Outcome.next ((if_neg (by simp [hready])).trans (if_pos hfree)), if_neg (by simp [hready])⟩
  · have hready : s.attemptReady = false := by simp [State.attemptReady, hbusy]
    exact ⟨congrArg Host.Outcome.next ((if_neg (by simp [hready])).trans (if_neg (by simp [hbusy]))),
      if_neg (by simp [hready])⟩

/-- Settles O32. -/
theorem attemptsThatDoNotComplete : Obligations.AttemptsThatDoNotComplete := by
  unfold Obligations.AttemptsThatDoNotComplete
  refine ⟨fun s f hf => ?_, fun _ => rfl, fun s f hf => ?_, fun s => ?_⟩
  · obtain ⟨-, hstate⟩ := frameIn_spec hf
    have hlost : s.lostArbitration = s.returnFrame f := by simp only [State.lostArbitration, hf]
    refine ⟨fun hw => congrArg Host.Outcome.next ?_, fun hw => congrArg Host.Outcome.next ?_⟩
    · rw [hlost, returnFrame_kept hw, hstate]
      rfl
    · rw [hlost, returnFrame_removed hw, hstate]
  · refine ⟨s.failedAttempt, rfl, ?_⟩
    rw [failedAttempt_eq hf, failed_enterListenOnly]
    by_cases hs : s.bus.state = .active ∧ 96 ≤ min 255 (s.bus.failCount + 4)
    · rw [if_pos hs]
      refine ⟨?_, ?_, fun _ => ⟨?_, ?_, ?_, ?_, rfl⟩, fun h => absurd hs h, fun h => absurd hs h⟩
      all_goals
        rw [enterListenOnly_eq]
        rfl
    · rw [if_neg hs]
      cases hw : f.withdrawn with
      | false =>
        rw [returnFrame_kept hw]
        refine ⟨rfl, rfl, fun h => absurd h hs, fun _ _ => ?_, fun _ h => Bool.noConfusion h⟩
        have hq := map_addHeld_queued f.state s.bus.queue
        simp only [State.changeIn, State.failCounted, hq]
        rfl
      | true =>
        rw [returnFrame_removed hw]
        refine ⟨rfl, rfl, fun h => absurd h hs, fun _ h => Bool.noConfusion h, fun _ _ => ?_⟩
        have hq : (s.failCounted.changeIn f.state TxFrame.addHeld).bus.queue.filter (fun g => g.state != f.state) =
            s.bus.queue.filter (fun g => g.state != f.state) := filter_addHeld f.state s.bus.queue
        rw [hq]
        rfl
  · dsimp only
    rw [enterListenOnly_eq]
    exact ⟨rfl, rfl, rfl, fun line c h => armedBy_getElem? h s.bus.queue, rfl⟩

end

section
/-! PROOFS. Completed frames and the status unit's reports (01 section 1.5, 08 section 8.5, 11 sections 11.1 to 11.3). -/

namespace Sys2Proof.Machine

/-! ### The completion of a frame (R12, R13) -/

/-- The state of a part whose frame has just left the bus. -/
def State.completed (s : State) : State :=
  { s with bus := { s.bus with
      queue := s.bus.queue.filter (fun g => g.state != AttemptState.sending),
      failCount := s.bus.failCount - 1, firstBit := none } }

theorem attemptCompleted_eq {s : State} {f : TxFrame} (hf : s.frameIn .sending = some f) :
    s.attemptCompleted = s.completed.tellCompleted f s.frameMark := by
  simp only [State.attemptCompleted, hf]
  rfl

/-! ### SENSE frames (R132, R133) -/

theorem senseCompleted_of_none_held (line : Nat) (s : State) :
    s.senseCompleted line 0 = { s with mode := { s.mode with
      captures := s.mode.captures.modify line (fun c => { c with armed := true }) } } := rfl

theorem requestSense_of_room {s : State} {line edges : Nat} {pair : BitVec 6 × Nat} (hb : s.bus.state = .active)
    (hl : s.loader.state = .running) (hq : ∀ g ∈ s.bus.queue, g.takes (.sense line edges pair.1 pair.2) = false)
    (hroom : frameCount TxFrame.shared s.bus.queue < 7) :
    s.requestSense line edges pair = { s with
      bus := { s.bus with queue := insertFrame (newFrame (.sense line edges pair.1 pair.2)) s.bus.queue },
      mode := { s.mode with captures := s.mode.captures.modify line (fun c => { c with armed := false }) } } := by
  have hr := request_of_room (p := .sense line edges pair.1 pair.2) hb (.inl (by simp [hl])) (by simp [TxPayload.header])
    hq hroom
  simp only [State.requestSense, hr]
  rfl

theorem senseCompleted_of_held {s : State} {line held : Nat} (h : held ≠ 0) {c : Capture} {pair : BitVec 6 × Nat}
    (hc : s.mode.captures[line]? = some c) (hp : c.latest = some pair) :
    s.senseCompleted line held = (s.setCapture line (fun c => { c with armed := true })).requestSense line held pair := by
  have hpair : ((s.setCapture line (fun c => { c with armed := true })).mode.captures[line]?).bind (·.latest) =
      some pair := by
    simp [State.setCapture, hc, hp]
  simp only [State.senseCompleted, if_neg h, hpair]

/-! ### Completed reports (R164, R166, R167) -/

theorem request_failCount (p : TxPayload) (s : State) : (s.request p).2.bus.failCount = s.bus.failCount :=
  (congrArg (fun u : State => u.bus.failCount) (request_forRequest p s) :)

theorem requestPart_failCount (q : Query) (s : State) : (s.requestPart q).bus.failCount = s.bus.failCount := by
  refine (request_failCount _ _).trans ?_
  unfold State.takeFree
  split <;> rfl

theorem continueQuery_failCount (s : State) : s.continueQuery.bus.failCount = s.bus.failCount := by
  unfold State.continueQuery
  split
  · rfl
  · split
    · exact requestPart_failCount _ s
    · rfl

theorem reportEffect_bus (e : ReportEffect) (s : State) : (s.reportEffect e).bus = s.bus := by
  cases e <;> rfl

theorem reportCompleted_failCount (w : Bool) (e : ReportEffect) (s : State) :
    (s.reportCompleted w e).bus.failCount = s.bus.failCount := by
  unfold State.reportCompleted
  split
  · rw [reportEffect_bus]
  · rw [continueQuery_failCount, reportEffect_bus]

/-- A query with no next part ends. -/
theorem continueQuery_of_last {s : State} {q : Query} (hq : s.status.query = some q) (hn : s.nextPart q = none) :
    s.continueQuery = { s with status := { s.status with query := none } } := by
  simp only [State.continueQuery, hq, hn]

/-- A report whose query, if it is not superseded, has no next part. -/
theorem reportCompleted_of_last {s : State} {w : Bool} {e : ReportEffect}
    (h : w = true ∨ ∃ q, (s.reportEffect e).status.query = some q ∧ (s.reportEffect e).nextPart q = none) :
    s.reportCompleted w e = { s.reportEffect e with status := { (s.reportEffect e).status with
      query := if w then (s.reportEffect e).status.query else none } } := by
  unfold State.reportCompleted
  cases w with
  | true => rfl
  | false =>
    obtain ⟨q, hq, hn⟩ := h.resolve_left (by decide)
    exact continueQuery_of_last hq hn

theorem and_not_and_not (a b c : Bool) : (a && !(b && !c)) = (a && (!b || c)) := by
  cases b <;> cases c <;> simp

/-- What the completion of an EXCEPTIONS report leaves (R166). -/
theorem Exceptions.has_minus (e snap held : Exceptions) (i : ExcItem) :
    (e.minus snap held).has i = (e.has i && (!snap.has i || held.has i)) := by
  have mask : ∀ (w : Nat) (a b c : BitVec w) (n : Nat),
      (a &&& ~~~ (b &&& ~~~ c)).getLsbD n = (a.getLsbD n && (!b.getLsbD n || c.getLsbD n)) := by
    intro w a b c n
    rw [← and_not_and_not]
    by_cases hn : n < w
    · simp [hn]
    · simp [BitVec.getLsbD_of_ge _ _ (Nat.not_lt.mp hn)]
  cases i <;> simp only [Exceptions.minus, Exceptions.has, mask, and_not_and_not]

theorem Counters.get_lower_of_notMem {l : List (Counter × Nat)} {k : Counter} (h : k ∉ l.map (·.1)) (c : Counters) :
    (c.lower l).get k = c.get k := by
  induction l generalizing c with
  | nil => rfl
  | cons x l ih =>
    obtain ⟨hne, hl⟩ := not_or.mp (fun hm => h (List.mem_cons.mpr hm))
    exact (ih hl _).trans ((Counters.get_set ..).trans (if_neg hne))

/-- Lowering a list of counters, none twice, lowers each by its own value (R167). -/
theorem Counters.get_lower_of_mem {l : List (Counter × Nat)} (hl : (l.map (·.1)).Nodup) {k : Counter} {v : Nat}
    (h : (k, v) ∈ l) (c : Counters) : (c.lower l).get k = c.get k - v := by
  induction l generalizing c with
  | nil => cases h
  | cons x l ih =>
    obtain ⟨hx, hl⟩ := List.nodup_cons.mp hl
    rcases List.mem_cons.mp h with rfl | hm
    · exact (Counters.get_lower_of_notMem hx _).trans ((Counters.get_set ..).trans (if_pos rfl))
    · have hne : k ≠ x.1 := fun e => hx (List.mem_map.mpr ⟨_, hm, e⟩)
      exact (ih hl hm _).trans (by rw [Counters.get_set, if_neg hne])

/-- The twelve counters in the order of their values in a COUNTERS answer (R167). -/
theorem get_lower_of_order {values : List Nat} (hlen : values.length = 12) {i : Nat} {k : Counter} {v : Nat}
    (hk : (Counter.part0 ++ Counter.part1)[i]? = some k) (hv : values[i]? = some v) (c : Counters) :
    (c.lower ((Counter.part0 ++ Counter.part1).zip values)).get k = c.get k - v := by
  have hfst : ((Counter.part0 ++ Counter.part1).zip values).map (·.1) = Counter.part0 ++ Counter.part1 :=
    List.map_fst_zip (by simp [hlen, Counter.part0, Counter.part1])
  have hnodup : (Counter.part0 ++ Counter.part1).Nodup := by decide
  refine Counters.get_lower_of_mem (hfst.symm ▸ hnodup) (List.mem_of_getElem? (i := i) ?_) c
  simp [List.getElem?_zip_eq_some, hk, hv]

/-! ### The parts of an answer (R164, R166 to R168) -/

theorem request_report_of_room {s : State} (hb : s.bus.state = .active) (hroom : frameCount TxFrame.shared s.bus.queue < 7)
    (kind : QueryKind) (part : Nat) (data : List Byte) (effect : ReportEffect) :
    s.request (.report kind part data effect) = (.accepted, s.enqueue (.report kind part data effect)) :=
  request_of_room hb (.inr rfl) (by simp [TxPayload.header]) (fun g _ => takes_report g kind part data effect) hroom

theorem request_report_of_full {s : State} (hb : s.bus.state = .active) (hfull : 7 ≤ frameCount TxFrame.shared s.bus.queue)
    (kind : QueryKind) (part : Nat) (data : List Byte) (effect : ReportEffect) :
    s.request (.report kind part data effect) = (.dropped, (s.count .framesDropped).raise .queueOverflow) :=
  request_of_full hb (.inr rfl) (by simp [TxPayload.header]) (fun g _ => takes_report g kind part data effect) hfull

theorem request_report_of_listenOnly {s : State} (hb : s.bus.state = .listenOnly) (kind : QueryKind) (part : Nat)
    (data : List Byte) (effect : ReportEffect) :
    s.request (.report kind part data effect) = (.dropped, s.count .framesDropped) :=
  (request_of_listenOnly hb _).trans (by simp [TxPayload.header])

theorem takeFree_eq (c : Bool) (s : State) : s.takeFree c = { s with free := (s.takeFree c).free } := by
  cases c <;> rfl

/-- The request for a part that finds room. -/
theorem requestPart_of_room {s : State} (hb : s.bus.state = .active) (hroom : frameCount TxFrame.shared s.bus.queue < 7)
    (q : Query) : s.requestPart q = { s with
      bus := { s.bus with
        queue := insertFrame (newFrame (.report q.kind q.part (s.reportPart q).1 (s.reportPart q).2)) s.bus.queue },
      status := { s.status with query := some { q with part0 := s.partValues q } },
      free := (s.takeFree (s.takesAbsentSync q)).free } := by
  have hf := takeFree_eq (s.takesAbsentSync q) s
  have hr := request_report_of_room (s := s.takeFree (s.takesAbsentSync q)) (by rw [hf]; exact hb) (by rw [hf]; exact hroom)
    q.kind q.part (s.reportPart q).1 (s.reportPart q).2
  unfold State.requestPart
  dsimp only
  rw [hr, hf]
  rfl

/-- The next part of an answer is none of its first: it reads no more of the values of part 0, and no free value. -/
theorem nextPart_spec {s : State} {q : Query} {next : Nat} (h : s.nextPart q = some next) :
    (q.kind = .counters ∧ q.part = 0 ∧ next = 1) ∨
      (q.kind = .cars ∧ next = q.part + 1 ∧ q.part + 1 < s.loader.copy.cars.length) := by
  unfold State.nextPart at h
  cases hk : q.kind <;> simp only [hk] at h
  · cases h
  · split at h
    · next hp => exact .inl ⟨rfl, hp, (Option.some.inj h).symm⟩
    · cases h
  · split at h
    · next hp => exact .inr ⟨rfl, (Option.some.inj h).symm, hp⟩
    · cases h

/-- The query goes on with its next part. -/
theorem continueQuery_of_room {s : State} {q : Query} {next : Nat} (hq : s.status.query = some q)
    (hn : s.nextPart q = some next) (hb : s.bus.state = .active) (hroom : frameCount TxFrame.shared s.bus.queue < 7) :
    s.continueQuery = { s with
      bus := { s.bus with queue := insertFrame (newFrame (.report q.kind next (s.reportPart { q with part := next }).1
        (s.reportPart { q with part := next }).2)) s.bus.queue },
      status := { s.status with query := some { q with part := next } } } := by
  have hvalues : s.partValues { q with part := next } = q.part0 := by
    rcases nextPart_spec hn with ⟨-, -, rfl⟩ | ⟨hk, -, -⟩
    · exact if_neg (by simp)
    · exact if_neg (by simp [hk])
  have habsent : s.takesAbsentSync { q with part := next } = false := by
    rcases nextPart_spec hn with ⟨hk, -, -⟩ | ⟨hk, -, -⟩ <;> simp [State.takesAbsentSync, hk]
  simp only [State.continueQuery, hq, hn]
  rw [requestPart_of_room hb hroom, hvalues, habsent]
  rfl

theorem reportPart_counters {s : State} {q : Query} (hk : q.kind = .counters) {part : Nat} (hp : part ≠ 0) :
    s.reportPart { q with part := part } = ((s.counterValues Counter.part1).flatMap bytes2,
      if q.clear then .lower (q.part0 ++ s.counterValues Counter.part1) else .none) := by
  simp only [State.reportPart, hk, if_neg hp]

theorem reportPart_cars {s : State} {q : Query} (hk : q.kind = .cars) (part : Nat) :
    s.reportPart { q with part := part } = (if part = 255 then [] else (s.carRec part).reportData, .none) := by
  simp only [State.reportPart, hk]

end Sys2Proof.Machine

open Sys2Proof Sys2Proof.Machine

/-- Settles O33: the completed state, and what the owner of a PANEL LOAD or a SENSE makes of it. -/
theorem panelLoadAndSenseComplete : Obligations.PanelLoadAndSenseComplete := by
  unfold Obligations.PanelLoadAndSenseComplete
  intro s f hf
  have hexec : exec .attemptCompleted s = .next (s.completed.tellCompleted f s.frameMark) :=
    congrArg Host.Outcome.next (attemptCompleted_eq hf)
  rw [hexec]
  refine ⟨fun n level count hp => ?_, fun line edges count ct hp => ⟨fun hheld => ?_, ?_⟩⟩
  · simp only [State.tellCompleted, hp]
    rfl
  · simp only [State.tellCompleted, hp, hheld]
    rfl
  · intro c pairCount pairCt hheld hc hlatest hb hl hq hroom
    have hsense : s.completed.tellCompleted f s.frameMark = s.completed.senseCompleted line f.held := by
      simp only [State.tellCompleted, hp]
    refine congrArg Host.Outcome.next ?_
    rw [hsense, senseCompleted_of_held (s := s.completed) hheld hc hlatest]
    refine (requestSense_of_room (s := s.completed.setCapture line _) (pair := (pairCount, pairCt)) hb hl hq hroom).trans ?_
    have hmod : (s.mode.captures.modify line (fun c => { c with armed := true })).modify line
        (fun c => { c with armed := false }) = s.mode.captures.modify line (fun c => { c with armed := false }) := by
      rw [List.modify_modify_eq]
      rfl
    exact congrArg (fun captures => { s.completed with
      mode := { s.mode with captures := captures },
      bus := { s.completed.bus with
        queue := insertFrame (newFrame (.sense line f.held pairCount pairCt)) s.completed.bus.queue } }) hmod

/-- Settles O34: the effect of the report (`has_minus`, `get_lower_of_order`), and the query's end or next part. -/
theorem reportCompletionsClear : Obligations.ReportCompletionsClear := by
  unfold Obligations.ReportCompletionsClear
  intro s f kind part data effect hf hp
  have htold : s.completed.tellCompleted f s.frameMark = s.completed.reportCompleted f.withdrawn effect := by
    simp only [State.tellCompleted, hp]
  refine ⟨s.completed.reportCompleted f.withdrawn effect,
    congrArg Host.Outcome.next ((attemptCompleted_eq hf).trans htold), reportCompleted_failCount _ _ _, ?_, ?_, ?_, ?_⟩
  · rintro snap rfl h
    rw [reportCompleted_of_last]
    · exact ⟨fun i => Exceptions.has_minus .., rfl, rfl, rfl⟩
    · exact h.imp_right fun ⟨q, hq, hk⟩ => ⟨q, hq, by simp only [State.nextPart, hk]⟩
  · rintro values rfl hlen h
    rw [reportCompleted_of_last]
    · exact ⟨fun i k v hk hv => get_lower_of_order hlen hk hv _, rfl, rfl, rfl⟩
    · exact h.imp_right fun ⟨q, hq, hk, hpart⟩ => ⟨q, hq, by simp only [State.nextPart, hk, if_neg hpart]⟩
  · rintro q next rfl hw hq hn hb hroom
    have hgoes : s.completed.reportCompleted f.withdrawn .none = s.completed.continueQuery := by
      rw [hw]
      rfl
    rw [hgoes, continueQuery_of_room (s := s.completed) hq hn hb hroom]
    have hparts : s.completed.reportPart { q with part := next } = s.reportPart { q with part := next } := by
      rcases nextPart_spec hn with ⟨hk, -, rfl⟩ | ⟨hk, -, -⟩
      · rw [reportPart_counters hk one_ne_zero, reportPart_counters hk one_ne_zero]
        rfl
      · rw [reportPart_cars hk, reportPart_cars hk]
        rfl
    rw [hparts]
    refine ⟨rfl, rfl, fun hk => ?_, fun hk => ?_⟩
    · rcases nextPart_spec hn with ⟨-, hpart, rfl⟩ | ⟨hcars, -, -⟩
      · rw [reportPart_counters hk one_ne_zero]
        exact ⟨hpart, rfl, rfl, rfl⟩
      · simp [hk] at hcars
    · rcases nextPart_spec hn with ⟨hcounters, -, -⟩ | ⟨-, rfl, hlt⟩
      · simp [hk] at hcounters
      · rw [reportPart_cars hk]
        exact ⟨rfl, hlt, rfl, fun hne => if_neg hne⟩
  · rintro q rfl hw hq hn
    rw [reportCompleted_of_last (s := s.completed) (e := .none) (.inr ⟨q, hq, hn⟩), hw]
    exact ⟨rfl, rfl⟩

end

section
/-! PROOFS. A STATUS QUERY (R163, R164): the superseded query's frames, the first request, and the data of 12.2. -/

namespace Sys2Proof.Machine

/-! ### The superseded query (R10, R163) -/

theorem tellWithdrawn_of_report {f : TxFrame} (h : f.isOpenReport = true) (s : State) : s.tellWithdrawn f = s := by
  unfold State.tellWithdrawn
  cases hp : f.payload <;> simp [TxFrame.isOpenReport, TxPayload.header, hp] at h ⊢

/-- The transmit queue with the open report of a query in progress withdrawn. -/
def State.superseded (s : State) : List TxFrame :=
  if s.status.query = none then s.bus.queue
  else (s.bus.queue.filter (fun g => !(g.payload.header == 222 && !g.withdrawn && g.state == AttemptState.queued))).map
    (fun g => if g.payload.header = 222 ∧ g.withdrawn = false then { g with withdrawn := true } else g)

theorem withdrawFrames_reports (s : State) : s.withdrawFrames TxFrame.isOpenReport = { s with bus := { s.bus with
    queue := (s.bus.queue.filter (fun g => !(g.payload.header == 222 && !g.withdrawn && g.state == AttemptState.queued))).map
      (fun g => if g.payload.header = 222 ∧ g.withdrawn = false then { g with withdrawn := true } else g) } } := by
  have htold : ∀ (q : List TxFrame) (u : State), (∀ f ∈ q, f.isOpenReport = true) →
      q.foldl (fun u f => u.tellWithdrawn f) u = u := by
    intro q u hq
    induction q generalizing u with
    | nil => rfl
    | cons f q ih =>
      obtain ⟨hf, hq⟩ := List.forall_mem_cons.mp hq
      rw [List.foldl_cons, tellWithdrawn_of_report hf, ih u hq]
  have hmark : ∀ g : TxFrame, (if g.isOpenReport then { g with withdrawn := true } else g) =
      if g.payload.header = 222 ∧ g.withdrawn = false then { g with withdrawn := true } else g := fun g =>
    if_congr (by simp [TxFrame.isOpenReport]) rfl rfl
  unfold State.withdrawFrames
  dsimp only
  rw [htold _ _ fun f hf => (Bool.and_eq_true_iff.mp (List.mem_filter.mp hf).2).1]
  simp only [hmark]
  rfl

/-- The state in which the first part of a new query is requested. -/
def State.asked (s : State) : State := { s.busy with bus := { s.busy.bus with queue := s.superseded } }

theorem asked_eq (s : State) :
    (if s.busy.status.query.isSome then s.busy.withdrawFrames TxFrame.isOpenReport else s.busy) = s.asked := by
  unfold State.asked State.superseded
  cases hq : s.status.query with
  | none => simp [hq]; rfl
  | some q =>
    rw [if_pos (by simp [hq]), if_neg (by simp), withdrawFrames_reports]
    rfl

/-- The query in progress that a STATUS QUERY makes. -/
def State.firstQuery (s : State) (kind : QueryKind) (clear : Bool) : Query :=
  { kind := kind, clear := clear, part := s.firstPart kind, part0 := [] }

theorem exec_statusQuery_of_codes {s : State} {rx : Rx} {f : QueryFrame} {kind : QueryKind} {clear : Bool}
    (h : s.receivesFrom rx) (ha : s.addressed f.target = true) (hk : decodeQueryKind f.kind = some kind)
    (hc : decodeClear f.clear = some clear) :
    exec (.statusQuery rx f) s = .next (s.asked.requestPart (s.firstQuery kind clear)) := by
  rw [exec_statusQuery h ha, State.queryTaken]
  simp only [hk, hc, asked_eq]
  rfl

/-! ### The request (R7, R164) -/

theorem requestPart_of_listenOnly {s : State} (hb : s.bus.state = .listenOnly) (q : Query) :
    s.requestPart q = { s with
      status := { (s.count .framesDropped).status with query := none },
      free := (s.takeFree (s.takesAbsentSync q)).free } := by
  have hf := takeFree_eq (s.takesAbsentSync q) s
  have hr := request_report_of_listenOnly (s := s.takeFree (s.takesAbsentSync q)) (by rw [hf]; exact hb)
    q.kind q.part (s.reportPart q).1 (s.reportPart q).2
  unfold State.requestPart
  dsimp only
  rw [hr, hf]
  rfl

theorem requestPart_of_full {s : State} (hb : s.bus.state = .active) (hfull : 7 ≤ frameCount TxFrame.shared s.bus.queue)
    (q : Query) : s.requestPart q = { (s.count .framesDropped).raise .queueOverflow with
      status := { ((s.count .framesDropped).raise .queueOverflow).status with query := none },
      free := (s.takeFree (s.takesAbsentSync q)).free } := by
  have hf := takeFree_eq (s.takesAbsentSync q) s
  have hr := request_report_of_full (s := s.takeFree (s.takesAbsentSync q)) (by rw [hf]; exact hb) (by rw [hf]; exact hfull)
    q.kind q.part (s.reportPart q).1 (s.reportPart q).2
  unfold State.requestPart
  dsimp only
  rw [hr, hf]
  rfl

/-- The values of part 0 are kept with a COUNTERS query alone. -/
theorem partValues_firstQuery (s : State) (kind : QueryKind) (clear : Bool) :
    s.partValues (s.firstQuery kind clear) = if kind = .counters then s.counterValues Counter.part0 else [] := by
  cases kind <;> simp [State.partValues, State.firstQuery, State.firstPart]

/-! ### The EXCEPTIONS data (12.2) -/

/-- Offset 0: one bit for each item without a mask. -/
theorem itemByte_getLsbD (e : Exceptions) (i : Fin 8) :
    e.itemByte.getLsbD i = [e.powerUp, e.pinReset, e.restarted, e.imageFault, e.imageClamped, e.stationClash, e.listenOnly,
      e.queueOverflow][i]! := by
  have hbits : ∀ a b c d e f g h : Bool, ∀ i : Fin 8,
      (byte (bitAt a 0 + bitAt b 1 + bitAt c 2 + bitAt d 3 + bitAt e 4 + bitAt f 5 + bitAt g 6 + bitAt h 7)).getLsbD i =
        [a, b, c, d, e, f, g, h][i]! := by decide
  exact hbits ..

theorem bytes2_toNat (w : Word16) : bytes2 w.toNat = [hiByte w, loByte w] := by
  have hi : byte (w.toNat / 256) = hiByte w := by
    apply BitVec.eq_of_toNat_eq
    simp [byte, hiByte, Nat.shiftRight_eq_div_pow]
  have lo : byte w.toNat = loByte w := by
    apply BitVec.eq_of_toNat_eq
    simp [byte, loByte]
  rw [bytes2, hi, lo]

theorem byte_setWidth (c : BitVec 6) : byte c.toNat = c.setWidth 8 := by
  apply BitVec.eq_of_toNat_eq
  simp [byte]

/-- Offset 8 while a tempo has been heard. -/
theorem stateByte_of_some {s : State} {last : LastTempo} (h : s.cycle.lastTempo = some last) :
    s.stateByte = byte (s.status.cause.code + 4 * s.cycle.sync.code
      + (if s.bus.state = .listenOnly then 16 else 0) + 32 * last.sync.code + 128) := by
  simp [State.stateByte, h, bitAt, Nat.add_assoc]

/-- Offset 8 while none has: two bits are a free value (log 9). -/
theorem stateByte_of_none {s : State} (h : s.cycle.lastTempo = none) :
    ∃ x < 4, s.stateByte = byte (s.status.cause.code + 4 * s.cycle.sync.code
      + (if s.bus.state = .listenOnly then 16 else 0) + 32 * x) := by
  refine ⟨(Config.absentTempoSync s.free).toNat, (Config.absentTempoSync s.free).isLt, ?_⟩
  simp [State.stateByte, h, bitAt]

/-- The bytes of the last tempo record, offsets 10 and 11. -/
def State.tempoBytes (s : State) : List Byte :=
  match s.cycle.lastTempo with
  | some t => [t.source, byte t.count.toNat]
  | none => [0, 0]

/-- The bytes of the loader's fault, offsets 12 and 13. -/
def State.faultBytes (s : State) : List Byte :=
  match s.loader.fault with
  | some (reason, row) => [byte reason.code, byte row]
  | none => [0, 255]

theorem exceptionData_eq (s : State) :
    let e := s.status.exceptions
    ∃ t1 t2 f1 f2, s.tempoBytes = [t1, t2] ∧ s.faultBytes = [f1, f2] ∧
      s.exceptionData = [e.itemByte, e.showListFault, hiByte e.positionRange, loByte e.positionRange, hiByte e.carLost,
        loByte e.carLost, e.linkFault, e.moduleFault, s.stateByte, byte s.status.restarts, t1, t2, f1, f2] := by
  unfold State.exceptionData State.tempoBytes State.faultBytes
  simp only [bytes2_toNat]
  cases s.cycle.lastTempo <;> cases s.loader.fault <;> exact ⟨_, _, _, _, rfl, rfl, rfl⟩

end Sys2Proof.Machine

open Sys2Proof Sys2Proof.Machine

/-- Settles O35: the first part is requested of the state with the superseded query's frames withdrawn
(`exec_statusQuery_of_codes`), and R7 answers by the station state and the shared slots. -/
theorem statusQueryRequestsTheReport : Obligations.StatusQueryRequestsTheReport := by
  unfold Obligations.StatusQueryRequestsTheReport
  intro s rx f kind clear h ha hk hc
  rw [exec_statusQuery_of_codes h ha hk hc]
  refine ⟨fun hb => ⟨_, rfl, ?_⟩, fun hb hfull => ⟨_, rfl, ?_⟩, fun hb hroom => ?_⟩
  · rw [requestPart_of_listenOnly (s := s.asked) hb]
    rfl
  · rw [requestPart_of_full (s := s.asked) hb hfull]
    rfl
  · refine ⟨_, (s.asked.reportPart (s.firstQuery kind clear)).1, (s.asked.reportPart (s.firstQuery kind clear)).2,
      { s.firstQuery kind clear with part0 := s.asked.partValues (s.firstQuery kind clear) }, rfl, ?_⟩
    have hvalues : s.asked.partValues (s.firstQuery kind clear) =
        if kind = .counters then s.counterValues Counter.part0 else [] := partValues_firstQuery s.asked kind clear
    rw [requestPart_of_room (s := s.asked) hb hroom, hvalues]
    refine ⟨rfl, rfl, rfl, rfl, ?_, ?_, ?_⟩
    · rintro rfl
      obtain ⟨t1, t2, f1, f2, htempo, hfault, hdata⟩ := exceptionData_eq s
      have hpart : s.asked.reportPart (s.firstQuery .exceptions clear) = (s.exceptionData, .snapshot s.status.exceptions) :=
        rfl
      rw [hpart, hdata]
      refine ⟨rfl, rfl, fun i => congrArg some (itemByte_getLsbD _ i), rfl, rfl, rfl, rfl, rfl, rfl, rfl,
        fun last hlast => ?_, fun hlast => ?_, rfl, fun hf => ?_, fun reason row hf => ?_⟩
      · simp only [State.tempoBytes, hlast, List.cons.injEq, and_true] at htempo
        refine ⟨congrArg some (stateByte_of_some hlast), congrArg some htempo.1.symm, congrArg some ?_⟩
        exact htempo.2.symm.trans (byte_setWidth _)
      · simp only [State.tempoBytes, hlast, List.cons.injEq, and_true] at htempo
        obtain ⟨x, hx, hbyte⟩ := stateByte_of_none hlast
        exact ⟨⟨x, hx, congrArg some hbyte⟩, congrArg some htempo.1.symm, congrArg some htempo.2.symm⟩
      · simp only [State.faultBytes, hf, List.cons.injEq, and_true] at hfault
        exact ⟨congrArg some hfault.1.symm, congrArg some hfault.2.symm⟩
      · simp only [State.faultBytes, hf, List.cons.injEq, and_true] at hfault
        exact ⟨congrArg some hfault.1.symm, congrArg some hfault.2.symm⟩
    · rintro rfl
      exact ⟨rfl, rfl⟩
    · rintro rfl
      refine ⟨rfl, fun hcars => ?_, fun hcars => ?_⟩
      · simp [State.reportPart, State.firstQuery, State.firstPart, hcars]
      · simp [State.reportPart, State.firstQuery, State.firstPart, hcars]
        rfl

end

section
/-! PROOFS. The show scheduler's operations as equations: paging, the pages and preloads that are handed, content changes and
relights (09 sections 9.3, 9.5 and 9.6). -/

namespace Sys2Proof.Machine

/-! ### Work handed to a panel's link, and a panel's schedule set -/

/-- The state in which several messages have been handed to a panel's link, one after another. -/
def State.handedAll (s : State) (n : Nat) (work : List LinkMsg) : State :=
  { s with links := s.links.modify n (fun l => work.foldl (fun l m => l.hand m s.cycle.clock) l) }

theorem hand_eq_handedAll (n : Nat) (m : LinkMsg) (s : State) : s.hand n m = s.handedAll n [m] := rfl

theorem handedAll_hand (n : Nat) (work : List LinkMsg) (m : LinkMsg) (s : State) :
    (s.handedAll n work).hand n m = s.handedAll n (work ++ [m]) := by
  unfold State.hand State.setLink State.handedAll
  simp only [List.modify_modify_eq, Function.comp_def, List.foldl_append]
  rfl

theorem withSched_withSched (n : Nat) (sc sc' : Schedule) (s : State) :
    (s.withSched n sc).withSched n sc' = s.withSched n sc' := by
  simp [State.withSched]

theorem setSched_of_some {s : State} {n : Nat} {sc : Schedule} (hs : s.schedules[n]? = some sc) (f : Schedule → Schedule) :
    s.setSched n f = s.withSched n (f sc) := by
  simp only [State.setSched, State.withSched, List.modify_eq_set_getElem?, hs, Option.map_eq_map, Option.map_some,
    Option.getD_some]

theorem withSched_schedule {s : State} {n : Nat} {sc : Schedule} (hs : s.schedules[n]? = some sc) (sc' : Schedule) :
    (s.withSched n sc').schedules[n]? = some sc' :=
  List.getElem?_set_self (List.getElem?_eq_some_iff.mp hs).1

theorem withSched_self {s : State} {n : Nat} {sc : Schedule} (hs : s.schedules[n]? = some sc) : s.withSched n sc = s := by
  obtain ⟨hn, rfl⟩ := List.getElem?_eq_some_iff.mp hs
  simp [State.withSched]

theorem withSched_forQuiet (s : State) (n : Nat) (sc : Schedule) : (s.withSched n sc).forQuiet = s.forQuiet := rfl

/-- A page is composed alike whatever the panel's schedule is beside its language. -/
theorem compose_withSched {s : State} {n : Nat} {sc sc' : Schedule} (hs : s.schedules[n]? = some sc)
    (hl : sc'.lang = sc.lang) (page : Page) (index : Nat) :
    (s.withSched n sc').compose n page index = s.compose n page index :=
  compose_of_forQuiet (withSched_forQuiet s n sc') (langInUse_of_lang rfl hs (withSched_schedule hs sc') hl) page index

/-! ### Pages and preloads handed (R139, R148, R150) -/

theorem handPage_eq {s : State} {n : Nat} {sc : Schedule} (hs : s.schedules[n]? = some sc) (c : Content)
    (atMark : Bool) : s.handPage n c atMark =
      (s.handedAll n [.load c (sc.works + 1), .flip (sc.works + 2) atMark]).withSched n { sc with
        works := sc.works + 2, last := some c, flip := some (sc.works + 2),
        preload := sc.preload.map (fun p => { p with state := .waiting }) } := by
  simp only [State.handPage, State.schedule, hs, hand_eq_handedAll n (.load c (sc.works + 1)) s, handedAll_hand]
  exact setSched_of_some (s := s.handedAll n _) hs _

theorem handPreload_eq {s : State} {n : Nat} {sc : Schedule} (hs : s.schedules[n]? = some sc) (p : Preload) :
    s.handPreload n p = (s.handedAll n [.load (s.compose n p.page 0) (sc.works + 1)]).withSched n { sc with
      works := sc.works + 1,
      preload := some { p with content := some (s.compose n p.page 0), state := .loading, load := sc.works + 1 } } := by
  simp only [State.handPreload, State.schedule, hs, hand_eq_handedAll]
  exact setSched_of_some (s := s.handedAll n _) hs _

/-! ### Paging, content changes and relights of a panel with its row and schedule (R147, R148, R150) -/

section panel
variable {s : State} {n : Nat} {row : PanelRow} {sc : Schedule} (hr : s.row n = some row) (hs : s.schedules[n]? = some sc)
include hr hs

theorem settlePaging_eq : s.settlePaging n = s.withSched n (s.settledSched n row sc) := by
  have hset := settlePaging_schedule hr hs
  unfold State.settlePaging at hset ⊢
  rw [hr] at hset ⊢
  dsimp only at hset ⊢
  rw [setSched_of_some hs] at hset ⊢
  rw [withSched_schedule hs] at hset
  rw [Option.some.inj hset]

theorem settled_schedule : (s.settlePaging n).schedules[n]? = some (s.settledSched n row sc) := settlePaging_schedule hr hs

theorem settled_content : (s.settlePaging n).currentContent n = s.compose n sc.page (s.settledSched n row sc).index :=
  settledContent_eq hr hs

/-- Whether work reaches the panel's module is not for its schedule to say. -/
theorem settled_reachable : (s.settlePaging n).reachable n = s.reachable n := by
  rw [settlePaging_eq hr hs]
  rfl

theorem settled_lastContent : (s.settlePaging n).lastContent n = sc.last := by
  simp only [State.lastContent, State.schedule, settled_schedule hr hs]
  rfl

/-- The settled panel with its current page handed. -/
theorem settled_handPage (c : Content) (atMark : Bool) : (s.settlePaging n).handPage n c atMark =
    (s.handedAll n [.load c (sc.works + 1), .flip (sc.works + 2) atMark]).withSched n { s.settledSched n row sc with
      works := sc.works + 2, last := some c, flip := some (sc.works + 2),
      preload := sc.preload.map (fun p => { p with state := .waiting }) } := by
  rw [handPage_eq (settled_schedule hr hs), settlePaging_eq hr hs]
  exact withSched_withSched n _ _ (s.handedAll n _)

theorem contentChange_of_unreachable (h : s.reachable n = false) :
    s.contentChange n = s.withSched n (s.settledSched n row sc) := by
  unfold State.contentChange
  dsimp only
  rw [settled_reachable hr hs, h, settlePaging_eq hr hs]
  rfl

theorem contentChange_of_new (h : s.reachable n = true)
    (hnew : sc.last ≠ some (s.compose n sc.page (s.settledSched n row sc).index)) :
    s.contentChange n = (s.settlePaging n).handPage n (s.compose n sc.page (s.settledSched n row sc).index) false := by
  unfold State.contentChange
  dsimp only
  rw [settled_reachable hr hs, h, settled_lastContent hr hs, settled_content hr hs]
  exact if_neg hnew

theorem contentChange_of_equal (h : s.reachable n = true)
    (hequal : sc.last = some (s.compose n sc.page (s.settledSched n row sc).index)) :
    s.contentChange n = (s.settlePaging n).recomposePreload n := by
  unfold State.contentChange
  dsimp only
  rw [settled_reachable hr hs, h, settled_lastContent hr hs, settled_content hr hs]
  exact if_pos hequal

/-- Composing the preload of the settled panel again (R148, case Equal). -/
theorem settled_recomposePreload : (s.settlePaging n).recomposePreload n =
    match sc.preload with
    | none => s.settlePaging n
    | some p =>
      if p.state = .waiting then s.settlePaging n
      else if p.content = some (s.compose n p.page 0) then s.settlePaging n
      else (s.settlePaging n).handPreload n p := by
  have hpre : (s.settledSched n row sc).preload = sc.preload := rfl
  have hcompose (page : Page) : (s.settlePaging n).compose n page 0 = s.compose n page 0 := by
    rw [settlePaging_eq hr hs]
    exact compose_withSched (sc' := s.settledSched n row sc) hs rfl page 0
  simp only [State.recomposePreload, State.schedule, settled_schedule hr hs, hpre, hcompose] <;> rfl

theorem settled_handPreload (p : Preload) : (s.settlePaging n).handPreload n p =
    (s.handedAll n [.load (s.compose n p.page 0) (sc.works + 1)]).withSched n { s.settledSched n row sc with
      works := sc.works + 1,
      preload := some { p with content := some (s.compose n p.page 0), state := .loading, load := sc.works + 1 } } := by
  rw [handPreload_eq (settled_schedule hr hs), settlePaging_eq hr hs,
    compose_withSched (sc' := s.settledSched n row sc) hs rfl]
  exact withSched_withSched n _ _ (s.handedAll n _)

theorem relight_eq (level : Nat) : s.relight n level =
    (s.handedAll n [.load (s.compose n sc.page (s.settledSched n row sc).index) (sc.works + 1),
      .flip (sc.works + 2) false, .bright level]).withSched n { s.settledSched n row sc with
        works := sc.works + 2, last := some (s.compose n sc.page (s.settledSched n row sc).index),
        flip := some (sc.works + 2), preload := sc.preload.map (fun p => { p with state := .waiting }) } := by
  have hrelight : s.relight n level =
      ((s.settlePaging n).handPage n ((s.settlePaging n).currentContent n) false).hand n (.bright level) := rfl
  rw [hrelight, settled_content hr hs, settled_handPage hr hs]
  exact congrArg (fun u : State => u.withSched n _) (handedAll_hand n _ _ s)

/-- A content change leaves the settled page index and scroll timer, and page, pointer and language (R148). -/
theorem contentChange_schedule : ∃ sc', (s.contentChange n).schedules[n]? = some sc' ∧
    sc'.index = (s.settledSched n row sc).index ∧ sc'.scroll = (s.settledSched n row sc).scroll ∧
    sc'.page = sc.page ∧ sc'.pointer = sc.pointer ∧ sc'.lang = sc.lang := by
  have hkept : ∀ (u : State) (sc' : Schedule), u.schedules = s.schedules → sc'.index = (s.settledSched n row sc).index →
      sc'.scroll = (s.settledSched n row sc).scroll → sc'.page = sc.page → sc'.pointer = sc.pointer → sc'.lang = sc.lang →
      ∃ sc'', (u.withSched n sc').schedules[n]? = some sc'' ∧ sc''.index = (s.settledSched n row sc).index ∧
        sc''.scroll = (s.settledSched n row sc).scroll ∧ sc''.page = sc.page ∧ sc''.pointer = sc.pointer ∧
        sc''.lang = sc.lang := fun u sc' hu hi ht hp hpt hl =>
    ⟨sc', withSched_schedule (s := u) (by rw [hu]; exact hs) sc', hi, ht, hp, hpt, hl⟩
  cases h : s.reachable n with
  | false =>
    rw [contentChange_of_unreachable hr hs h]
    exact hkept s _ rfl rfl rfl rfl rfl rfl
  | true =>
    by_cases hlast : sc.last = some (s.compose n sc.page (s.settledSched n row sc).index)
    · rw [contentChange_of_equal hr hs h hlast, settled_recomposePreload hr hs]
      cases sc.preload with
      | none =>
        rw [settlePaging_eq hr hs]
        exact hkept s _ rfl rfl rfl rfl rfl rfl
      | some p =>
        dsimp only
        split
        · rw [settlePaging_eq hr hs]
          exact hkept s _ rfl rfl rfl rfl rfl rfl
        · split
          · rw [settlePaging_eq hr hs]
            exact hkept s _ rfl rfl rfl rfl rfl rfl
          · rw [settled_handPreload hr hs]
            exact hkept (s.handedAll n _) _ rfl rfl rfl rfl rfl rfl
    · rw [contentChange_of_new hr hs h hlast, settled_handPage hr hs]
      exact hkept (s.handedAll n _) _ rfl rfl rfl rfl rfl rfl

end panel

theorem reachable_iff {s : State} {n : Nat} : s.reachable n = true ↔ s.isDark n = false ∧ s.linkUp n = true := by
  simp [State.reachable]

/-- An expiry that a RUNNING part takes once it is reached. -/
theorem whenRunning_due {s : State} (hl : s.loader.state = .running) {b : State → Bool} {f : State → State}
    (h : b s = true) : s.whenRunning (fun t => if b t then f t else t) = f s :=
  (if_pos (running_of hl)).trans (if_pos h)

end Sys2Proof.Machine

open Sys2Proof Sys2Proof.Machine

/-- Settles O45: the equations of a content change and a relight; the page index and scroll timer of a scrolled page stay as
they are when it is settled. -/
theorem contentChangesHandThePage : Obligations.ContentChangesHandThePage := by
  unfold Obligations.ContentChangesHandThePage
  refine ⟨fun s n row sc hr hs => ?_, fun s n row sc e hl hr hs he hreached hsus hlines hitems => ?_⟩
  · refine ⟨settlePaging_eq hr hs, settledContent_eq hr hs, fun h => ?_, fun h hnew => ?_, fun h hequal => ⟨fun hp => ?_,
      fun p hp => ⟨fun hsame => ?_, fun hstate hcontent => ?_⟩⟩, relight_eq hr hs⟩
    · exact contentChange_of_unreachable hr hs (Bool.eq_false_iff.mpr (fun ht => h (reachable_iff.mp ht)))
    · exact (contentChange_of_new hr hs (reachable_iff.mpr h) hnew).trans (settled_handPage hr hs _ _)
    · rw [contentChange_of_equal hr hs (reachable_iff.mpr h) hequal, settled_recomposePreload hr hs, hp]
      exact settlePaging_eq hr hs
    · rw [contentChange_of_equal hr hs (reachable_iff.mpr h) hequal, settled_recomposePreload hr hs, hp,
        ← settlePaging_eq hr hs]
      rcases hsame with hw | hc
      · exact if_pos hw
      · exact (ite_congr rfl (fun _ => rfl) (fun _ => if_pos hc)).trans (ite_self _)
    · rw [contentChange_of_equal hr hs (reachable_iff.mpr h) hequal, settled_recomposePreload hr hs, hp]
      exact (if_neg hstate).trans ((if_neg hcontent).trans (settled_handPreload hr hs p))
  · have hdue : s.scrollDue n = true := scrollDue_iff.mpr ⟨sc, e, hs, he, (reached_iff ..).mp hreached⟩
    have hexec : exec (.scrollExpiry n) s = .next (s.scrollExpiry n) :=
      congrArg Host.Outcome.next (whenRunning_due (b := fun t => t.scrollDue n) hl hdue)
    intro views scrolled
    have hindex : scrolled.index < views := by
      have hviews : 0 < views := Nat.div_pos (by omega) hlines
      change (if sc.index + 1 < views then sc.index + 1 else 0) < views
      split <;> omega
    have hsettled : (s.withSched n scrolled).settledSched n row scrolled = scrolled := by
      have hpaged : (s.withSched n scrolled).suspended row = false ∧
          (s.withSched n scrolled).itemLines row < (s.withSched n scrolled).itemCount n row scrolled.page := ⟨hsus, hitems⟩
      simp only [State.settledSched, if_pos hpaged]
      exact congrArg (fun i => { scrolled with index := i }) (if_pos (And.intro hpaged hindex))
    have hscroll : s.scrollExpiry n = (s.withSched n scrolled).contentChange n := by
      simp only [State.scrollExpiry, hr, setSched_of_some hs]
      rfl
    obtain ⟨sc', hsc', hi, ht, hpage, hpointer, hlang⟩ :=
      contentChange_schedule (s := s.withSched n scrolled) hr (withSched_schedule hs scrolled)
    rw [hsettled] at hi ht
    exact ⟨_, sc', hexec.trans (congrArg Host.Outcome.next hscroll), rfl, hsc', hi, ht, hpage, hpointer, hlang,
      eq_of_forShow (contentChange_forShow n (s.withSched n scrolled))⟩

end

section
/-! PROOFS. Quiet timers, lamp tests and the LANGUAGE and REPORT lines (08 sections 8.3 to 8.5). -/

namespace Sys2Proof.Machine

/-! ### A quiet timer's expiry (R126) -/

theorem quietOf_of_record {s : State} {n : Nat} {q : QuietRec} (hq : s.mode.quiet[n]? = some q) :
    s.quietOf n = q.state := by
  simp only [State.quietOf, hq]

section quiet
variable {s : State} {n : Nat} {row : PanelRow} {q : QuietRec} (hr : s.row n = some row) (hq : s.mode.quiet[n]? = some q)
include hr

theorem quietExpiry_of_goesDark (h : s.mode.level = .night ∧ row.mayDark = true) :
    s.quietExpiry n = (s.setQuiet n { state := .dark, timer := none }).hand n (.bright 0) := by
  simp only [State.quietExpiry, hr, if_pos h]

include hq

theorem quietExpiry_of_awake (h : ¬ (s.mode.level = .night ∧ row.mayDark = true)) (hstate : q.state = .awake) :
    s.quietExpiry n =
      (s.setQuiet n { state := .dim, timer := some (s.quietAhead row) }).hand n (.bright row.dim) := by
  simp only [State.quietExpiry, hr, if_neg h, quietOf_of_record hq, hstate]

theorem quietExpiry_of_dim (h : ¬ (s.mode.level = .night ∧ row.mayDark = true)) (hstate : q.state = .dim) :
    s.quietExpiry n = s.setQuiet n { state := .dim, timer := some (s.quietAhead row) } := by
  simp only [State.quietExpiry, hr, if_neg h, quietOf_of_record hq, hstate]

end quiet

/-! ### Several panels, one after another -/

/-- What a panel's step reads and what it moves: a step for one panel leaves the part of every other panel, and so do the
steps of several. -/
theorem forEach_part_of_notMem {α : Type} {P : State → Nat → α} {f : Nat → State → State}
    (hP : ∀ m n, m ≠ n → ∀ s, P (f m s) n = P s n) {l : List Nat} {n : Nat} (h : n ∉ l) (s : State) :
    P (forEach l f s) n = P s n := by
  induction l generalizing s with
  | nil => rfl
  | cons m l ih =>
    obtain ⟨hne, hl⟩ := not_or.mp (mt List.mem_cons.mpr h)
    exact (ih hl (f m s)).trans (hP m n (Ne.symm hne) s)

/-- Each panel of several takes its step in a state that has its part as it was before all of them. -/
theorem forEach_part_of_mem {α β : Type} {P : State → Nat → α} {F : State → β} {f : Nat → State → State}
    (hF : ∀ m s, F (f m s) = F s) (hP : ∀ m n, m ≠ n → ∀ s, P (f m s) n = P s n) {l : List Nat} {n : Nat}
    (hl : l.Nodup) (hn : n ∈ l) (s : State) :
    ∃ u : State, F u = F s ∧ P u n = P s n ∧ P (forEach l f s) n = P (f n u) n := by
  obtain ⟨before, rest, rfl⟩ := List.append_of_mem hn
  obtain ⟨-, hrest, hdisjoint⟩ := List.nodup_append.mp hl
  have hbefore : n ∉ before := fun h => hdisjoint n h n List.mem_cons_self rfl
  refine ⟨forEach before f s, forEach_keeps F f hF before s, forEach_part_of_notMem hP hbefore s, ?_⟩
  have hsplit : forEach (before ++ n :: rest) f s = forEach rest f (f n (forEach before f s)) := List.foldl_append
  rw [hsplit]
  exact forEach_part_of_notMem hP (List.nodup_cons.mp hrest).1 _

/-! ### Lamp tests, panel by panel (R131) -/

/-- The part of a panel that a lamp test may move. -/
def State.lampPart (s : State) (n : Nat) : PanelPart × Option (Option Clock) := (s.panelPart n, s.mode.lamps[n]?)

/-- Quiet handling of one panel does not touch that part of another. -/
theorem lampPart_quietAt {m n : Nat} (h : m ≠ n) (part : PanelPart × Option (Option Clock)) :
    QuietAt m (fun t => t.lampPart n = part) :=
  have hpanel := panelPart_quietAt h part.1
  { sched := fun f t ht => Prod.ext (hpanel.sched f t (congrArg Prod.fst ht)) (congrArg Prod.snd ht :)
    hand := fun w t ht => Prod.ext (hpanel.hand w t (congrArg Prod.fst ht)) (congrArg Prod.snd ht :)
    cancel := fun w t ht => Prod.ext (hpanel.cancel w t (congrArg Prod.fst ht)) (congrArg Prod.snd ht :)
    quiet := fun q t ht => Prod.ext (hpanel.quiet q t (congrArg Prod.fst ht)) (congrArg Prod.snd ht :)
    lamp := fun e t ht => Prod.ext (hpanel.lamp e t (congrArg Prod.fst ht))
      ((List.getElem?_set_ne h).trans (congrArg Prod.snd ht :)) }

theorem lampStart_lampPart {m n : Nat} (h : m ≠ n) (s : State) : (s.lampStart m).lampPart n = s.lampPart n :=
  lampStart_at (lampPart_quietAt h _) s rfl

/-- A link's record once TEST on is handed where no test runs. -/
def LinkRec.tested (l : LinkRec) (lamp : Option Clock) (now : Clock) : LinkRec :=
  if lamp = none then l.hand (.test true) now else l

section lamp
variable {s : State} {n : Nat} {row : PanelRow} {lamp : Option Clock} (hr : s.row n = some row)
  (hlamp : s.mode.lamps[n]? = some lamp)
include hr hlamp

/-- The start of a lamp test is the wake event, the expiry 5,000 ms ahead, and TEST on where none runs. -/
theorem lampStart_eq : s.lampStart n =
    if lamp = none then ((s.wake n).setLamp n (some (s.cycle.clock + 5000))).hand n (.test true)
    else (s.wake n).setLamp n (some (s.cycle.clock + 5000)) := by
  have hlampOf : (s.wake n).lampOf n = lamp := by
    unfold State.lampOf
    rw [wake_lamps, hlamp]
    rfl
  have hnow : (s.wake n).now = s.now := by
    rw [eq_of_forQuiet (wake_forQuiet n s)]
    rfl
  simp only [State.lampStart, hr, hlampOf, hnow]
  cases lamp <;> rfl

theorem lampStart_quiet : (s.lampStart n).mode.quiet = (s.wake n).mode.quiet := by
  rw [lampStart_eq hr hlamp]
  split <;> rfl

theorem lampStart_schedules : (s.lampStart n).schedules = (s.wake n).schedules := by
  rw [lampStart_eq hr hlamp]
  split <;> rfl

theorem lampStart_lamps : (s.lampStart n).mode.lamps[n]? = some (some (s.cycle.clock + 5000)) := by
  have hset : ((s.wake n).mode.lamps.set n (some (s.cycle.clock + 5000)))[n]? = some (some (s.cycle.clock + 5000)) := by
    rw [wake_lamps]
    exact List.getElem?_set_self (List.getElem?_eq_some_iff.mp hlamp).1
  rw [lampStart_eq hr hlamp]
  split
  · exact hset
  · exact hset

theorem lampStart_link :
    (s.lampStart n).links[n]? = ((s.wake n).links[n]?).map (fun l => l.tested lamp s.cycle.clock) := by
  have hnow : (s.wake n).now = s.cycle.clock := by
    rw [eq_of_forQuiet (wake_forQuiet n s)]
    rfl
  rw [lampStart_eq hr hlamp]
  by_cases hl : lamp = none
  · rw [if_pos hl]
    refine (hand_link n (.test true) _).trans (congrArg (fun f => Option.map f _) (funext fun l => ?_))
    exact (congrArg (l.hand (.test true)) hnow).trans (if_pos hl).symm
  · rw [if_neg hl]
    have hid : (fun l : LinkRec => l.tested lamp s.cycle.clock) = id := funext fun l => if_neg hl
    rw [hid, Option.map_id]
    rfl

end lamp

/-- One panel of a lamp test takes its step with its part as it was before all of them. -/
theorem lampStarts_lampPart_of_mem {l : List Nat} {n : Nat} (hl : l.Nodup) (hn : n ∈ l) (s : State) :
    ∃ u : State, u.forQuiet = s.forQuiet ∧ u.lampPart n = s.lampPart n ∧
      (forEach l (fun n s => s.lampStart n) s).lampPart n = (u.lampStart n).lampPart n :=
  forEach_part_of_mem (P := State.lampPart) (F := State.forQuiet) (fun m s => lampStart_forQuiet m s)
    (fun _ _ h s => lampStart_lampPart h s) hl hn s

/-! ### Language pins (R129) -/

theorem forEach_togglePin (l : List Nat) (s : State) : forEach l (fun n s => s.togglePin n) s =
    { s with mode := { s.mode with pins := l.foldl (fun pins n => pins.modify n (fun p => !p)) s.mode.pins } } := by
  unfold forEach
  induction l generalizing s with
  | nil => rfl
  | cons n l ih => exact ih (s.togglePin n)

theorem toggledPins_getElem? {l : List Nat} (hl : l.Nodup) (pins : List Bool) (n : Nat) :
    (l.foldl (fun pins n => pins.modify n (fun p => !p)) pins)[n]? =
      (pins[n]?).map (fun p => if n ∈ l then !p else p) := by
  induction l generalizing pins with
  | nil => simp
  | cons m l ih =>
    obtain ⟨hm, hl⟩ := List.nodup_cons.mp hl
    rw [List.foldl_cons, ih hl, List.getElem?_modify]
    by_cases h : m = n
    · subst h
      simp [hm, Function.comp_def]
    · simp [h, Ne.symm h]

/-! ### Sense lines (R128, R132) -/

theorem exec_senseLineEdge {s : State} (hl : s.loader.state = .running) (line : Nat) :
    exec (.senseLineEdge line) s = .next (s.senseEdge line) := congrArg Host.Outcome.next (if_pos (running_of hl))

/-- The state of a part that has captured an edge on a line now, before the request it makes. -/
def State.captured (s : State) (line : Nat) : State :=
  s.setCapture line (fun c => { c with latest := some (s.cycle.count, s.ct) })

/-- A captured edge by the answer to the request it makes. -/
theorem captureEdge_of_request {s t : State} {line : Nat} {answer : Answer}
    (h : (s.captured line).request (.sense line 1 s.cycle.count s.ct) = (answer, t)) :
    s.captureEdge line = t.setCapture line (fun c => { c with armed := answer == .dropped }) := by
  unfold State.captured at h
  simp only [State.captureEdge, State.requestSense, h]

theorem captures_modify_twice (captures : List Capture) (line : Nat) (pair : BitVec 6 × Nat) (armed : Bool) :
    (captures.modify line (fun c => { c with latest := some pair })).modify line (fun c => { c with armed := armed }) =
      captures.modify line (fun _ => { armed := armed, latest := some pair }) := by
  rw [List.modify_modify_eq]
  rfl

end Sys2Proof.Machine

open Sys2Proof Sys2Proof.Machine

/-- Settles O44: the branches of a quiet expiry. -/
theorem quietTimerExpires : Obligations.QuietTimerExpires := by
  unfold Obligations.QuietTimerExpires
  intro s n row q e hl hr hq _ ht
  have hreached : reached e s.cycle.clock = s.quietDue n := by
    unfold State.quietDue
    simp only [hq, ht]
    rfl
  dsimp only
  rw [hreached]
  refine ⟨fun hnot => ?_, fun hdue => ?_⟩
  · exact congrArg Host.Outcome.next (whenRunning_not_due (b := fun t => t.quietDue n) hnot)
  · have hexec : exec (.quietTimerExpiry n) s = .next (s.quietExpiry n) :=
      congrArg Host.Outcome.next (whenRunning_due (b := fun t => t.quietDue n) hl hdue)
    rw [hexec]
    refine ⟨fun hdark => ?_, fun hnot ha => ?_, fun hnot hd => ?_⟩
    · exact congrArg Host.Outcome.next (quietExpiry_of_goesDark hr hdark)
    · exact congrArg Host.Outcome.next (quietExpiry_of_awake hr hq hnot ha)
    · exact congrArg Host.Outcome.next (quietExpiry_of_dim hr hq hnot hd)

/-- Settles O47: an edge is the test starts of its mask's panels, which are distinct, so each takes its own start with its
records as they were (`lampStarts_lampPart_of_mem`); a start is the panel's wake event with TEST on after it. -/
theorem lampTestsRunAndEnd : Obligations.LampTestsRunAndEnd := by
  unfold Obligations.LampTestsRunAndEnd
  refine ⟨fun s line sense hl hsense hf => ?_, fun s n e hl hlamp hreached => ?_⟩
  · have hedge : s.senseEdge line = if s.mode.level = .evacuate then s
        else forEach (s.maskPanels sense.mask) (fun n s => s.lampStart n) s := by
      simp only [State.senseEdge, hsense, hf]
    rw [exec_senseLineEdge hl, hedge]
    refine ⟨fun h => congrArg Host.Outcome.next (if_pos h), fun hlevel => ?_⟩
    refine ⟨_, congrArg Host.Outcome.next (if_neg hlevel), ?_, fun n row lamp q hr hbit hlamp hq => ?_, fun n hout => ?_⟩
    · exact eq_of_forQuiet (forEach_keeps State.forQuiet _ lampStart_forQuiet _ s)
    · have hn : n ∈ s.maskPanels sense.mask := mem_maskPanels.mpr ⟨⟨row, hr⟩, hbit⟩
      obtain ⟨u, hframe, hpart, htaken⟩ := lampStarts_lampPart_of_mem (maskPanels_nodup s sense.mask) hn s
      generalize forEach (s.maskPanels sense.mask) (fun n s => s.lampStart n) s = t at htaken ⊢
      have hu := eq_of_forQuiet hframe
      have hru : u.row n = some row := by rw [hu]; exact hr
      have hlu : u.mode.level ≠ .evacuate := by rw [hu]; exact hlevel
      have hahead : u.quietAhead row = s.quietAhead row := by rw [hu]; rfl
      have hnow : u.cycle.clock = s.cycle.clock := by rw [hu]; rfl
      have hpanel : u.panelPart n = s.panelPart n := congrArg Prod.fst hpart
      have hlink : u.links[n]? = s.links[n]? := congrArg PanelPart.link hpanel
      have hsched : u.schedules[n]? = s.schedules[n]? := congrArg PanelPart.sched hpanel
      have hqu : u.mode.quiet[n]? = some q := (congrArg PanelPart.quiet hpanel).trans hq
      have hlampu : u.mode.lamps[n]? = some lamp := (congrArg Prod.snd hpart :).trans hlamp
      have htpanel : t.panelPart n = (u.lampStart n).panelPart n := congrArg Prod.fst htaken
      have htlink : t.links[n]? = ((u.wake n).links[n]?).map (fun l => l.tested lamp s.cycle.clock) :=
        hnow ▸ (congrArg PanelPart.link htpanel).trans (lampStart_link hru hlampu)
      have hone : ([n] : List Nat).Nodup := List.nodup_singleton n
      have hmem : n ∈ [n] := List.mem_singleton_self n
      refine ⟨?_, ?_, fun hstate => ?_, fun hstate => ?_, fun l sc hstate hk hs => ?_⟩
      · exact hnow ▸ (congrArg Prod.snd htaken :).trans (lampStart_lamps hru hlampu)
      · refine (congrArg PanelPart.quiet htpanel).trans ?_
        exact (congrArg (·[n]?) (lampStart_quiet hru hlampu)).trans ((wake_quiet hru hlu hqu).trans
          (congrArg (fun timer => some (⟨.awake, some timer⟩ : QuietRec)) hahead))
      · have hwake : (u.wake n).links[n]? = u.links[n]? := (wakes_of_awake hone hmem hru hlu hqu hstate).1
        rw [htlink, hwake, hlink]
        rfl
      · have hwake : (u.wake n).links[n]? = (u.links[n]?).map (fun k => k.hand (.bright row.awake) u.cycle.clock) :=
          (wakes_of_dim hone hmem hru hlu hqu hstate).2
        rw [htlink, hwake, hlink, hnow, Option.map_map]
        rfl
      · have hdark := wakes_of_dark hone hmem hru hlu hqu hstate (hlink.trans hk) (hsched.trans hs)
        have hcontent : u.settledContent n = s.settledContent n :=
          settledContent_of_forQuiet hframe hr hs (hsched.trans hs)
        have hnow' : u.now = s.cycle.clock := hnow
        rw [hcontent, hnow'] at hdark
        obtain ⟨hlast, hwake⟩ := hdark
        refine ⟨(lastContent_of_panelPart htpanel).trans (Eq.trans ?_ hlast), ?_⟩
        · simp only [State.lastContent, State.schedule, lampStart_schedules hru hlampu]
          rfl
        · rw [htlink]
          exact congrArg (Option.map (fun l : LinkRec => l.tested lamp s.cycle.clock)) hwake
    · have hpart := forEach_part_of_notMem (P := State.lampPart) (f := fun n s => s.lampStart n)
        (fun _ _ h s => lampStart_lampPart h s) (not_mem_maskPanels hout) s
      have hpanel := congrArg Prod.fst hpart
      exact ⟨congrArg Prod.snd hpart, congrArg PanelPart.quiet hpanel, congrArg PanelPart.link hpanel,
        congrArg PanelPart.sched hpanel⟩
  · have hdue : s.lampDue n = true := lampDue_iff.mpr ⟨e, hlamp, (reached_iff ..).mp hreached⟩
    have hexec : exec (.lampTestExpiry n) s = .next (s.lampEnd n) :=
      congrArg Host.Outcome.next (whenRunning_due (b := fun t => t.lampDue n) hl hdue)
    have hlampOf : s.lampOf n = some e := by simp only [State.lampOf, hlamp, Option.getD_some]
    rw [hexec]
    simp only [State.lampEnd, hlampOf]
    rfl

/-- Settles O48: a LANGUAGE line toggles each pin of its mask once, its panels being distinct; a REPORT line is captured as
its SENSE request is answered. -/
theorem languageAndReportLines : Obligations.LanguageAndReportLines := by
  unfold Obligations.LanguageAndReportLines
  refine ⟨fun s line sense hl hsense hf => ?_, fun s line sense hl hsense hf => ?_⟩
  · have hedge : s.senseEdge line = (forEach (s.maskPanels sense.mask) (fun n s => s.togglePin n) s).contentChanges
        (s.maskPanels sense.mask) := by
      simp only [State.senseEdge, hsense, hf]
    rw [exec_senseLineEdge hl, hedge, forEach_togglePin]
    have hshow := eq_of_forShow (contentChanges_forShow (s.maskPanels sense.mask)
      { s with mode := { s.mode with
        pins := (s.maskPanels sense.mask).foldl (fun pins n => pins.modify n (fun p => !p)) s.mode.pins } })
    have hpins := congrArg (fun t : State => t.mode.pins) hshow
    refine ⟨_, _, rfl, fun n pin hpin => ?_, rfl, ?_⟩
    · have hmem : n ∈ s.maskPanels sense.mask ↔ (s.row n).isSome ∧ sense.mask.getLsbD n = true := by
        rw [mem_maskPanels, Option.isSome_iff_exists]
      refine (congrArg (·[n]?) hpins).trans ((toggledPins_getElem? (maskPanels_nodup s _) _ n).trans ?_)
      rw [hpin]
      exact congrArg some (if_congr hmem rfl rfl)
    · rw [hpins]
      exact hshow
  · have hedge : s.senseEdge line = s.captureEdge line := by
      simp only [State.senseEdge, hsense, hf]
    have hloader : s.loader.state ≠ .imageFault ∨ (TxPayload.sense line 1 s.cycle.count s.ct).header = 222 :=
      .inl (by simp [hl])
    have hheader : (TxPayload.sense line 1 s.cycle.count s.ct).header ≠ 72 := by simp [TxPayload.header]
    rw [exec_senseLineEdge hl, hedge]
    dsimp only
    refine ⟨fun hb => congrArg Host.Outcome.next ?_, fun hb hnone hroom => congrArg Host.Outcome.next ?_,
      fun hb hnone hfull => congrArg Host.Outcome.next ?_, fun hb htakes => congrArg Host.Outcome.next ?_⟩
    · rw [captureEdge_of_request (request_of_listenOnly (s := s.captured line) hb _), if_neg hheader,
        ← captures_modify_twice]
      rfl
    · rw [captureEdge_of_request (request_of_room (s := s.captured line) hb hloader hheader hnone hroom),
        ← captures_modify_twice]
      rfl
    · rw [captureEdge_of_request (request_of_full (s := s.captured line) hb hloader hheader hnone hfull),
        ← captures_modify_twice]
      rfl
    · rw [captureEdge_of_request (request_of_takes (s := s.captured line) hb hloader hheader htakes),
        ← captures_modify_twice]
      rfl

end

section
/-! PROOFS. Preload instants: which entries take one, what the preload of an entry begins, and the waiting entries
(09 section 9.4). -/

namespace Sys2Proof.Machine

theorem showList_of_row {s : State} {n : Nat} {row : PanelRow} (hr : s.row n = some row) : s.showList n = row.list := by
  simp only [State.showList, hr]

/-- R139: a preload may begin on a panel that is not DARK, with its link UP and its list not suspended. -/
theorem mayPreload_iff {s : State} {n : Nat} {row : PanelRow} (hr : s.row n = some row) :
    s.mayPreload n = true ↔ s.isDark n = false ∧ s.linkUp n = true ∧ s.suspended row = false := by
  simp [State.mayPreload, hr, State.reachable, and_assoc]

theorem matchesCount_iff {e : ShowEntry} {count : BitVec 6} :
    e.matchesCount count = true ↔ count.toNat % e.period = e.phase := beq_iff_eq

theorem notActed_iff {s : State} {n : Nat} {sc : Schedule} (hs : s.schedules[n]? = some sc) (i : Nat) :
    s.notActed n i = true ↔ ∃ p, sc.pointer = some p ∧ p ≤ i := by
  unfold State.notActed State.schedule
  rw [hs]
  cases h : sc.pointer <;> simp [h]

theorem hasPreload_eq {s : State} {n : Nat} {sc : Schedule} (hs : s.schedules[n]? = some sc) :
    s.hasPreload n = sc.preload.isSome := by
  simp only [State.hasPreload, State.schedule, hs]

/-! ### A preload begins (R139) -/

/-- The schedule once the LOAD of an entry's preload has been handed. -/
def Schedule.preloading (sc : Schedule) (entry : Nat) (page : Page) (content : Content) : Schedule :=
  { sc with
    works := sc.works + 1
    preload := some { entry := entry, page := page, content := some content, state := .loading, load := sc.works + 1 } }

/-- The schedule with an entry's preload WAITING for the module. -/
def Schedule.preloadWaits (sc : Schedule) (entry : Nat) (page : Page) : Schedule :=
  { sc with preload := some { entry := entry, page := page, content := none, state := .waiting, load := 0 } }

section entry
variable {s : State} {n i : Nat} {row : PanelRow} {sc : Schedule} {e : ShowEntry} {page : Page}
  (hr : s.row n = some row) (hs : s.schedules[n]? = some sc) (he : row.list[i]? = some e)
include hr hs he

theorem beginPreload_of_page (ha : e.action = .page page) : s.beginPreload n i =
    if s.mayPreload n = true ∧ page ≠ sc.page then
      match sc.flip with
      | some _ => s.withSched n (sc.preloadWaits i page)
      | none => (s.handedAll n [.load (s.compose n page 0) (sc.works + 1)]).withSched n
          (sc.preloading i page (s.compose n page 0))
    else s := by
  have hpage : e.page? = some page := by simp only [ShowEntry.page?, ha]
  unfold State.beginPreload State.schedule
  rw [showList_of_row hr, he, hs]
  dsimp only
  rw [hpage]
  cases hf : sc.flip with
  | none =>
    dsimp only
    rw [handPreload_eq hs]
    rfl
  | some work =>
    dsimp only
    rw [setSched_of_some hs]
    rfl

theorem beginPreload_of_language {lang : Lang} (ha : e.action = .language lang) : s.beginPreload n i = s := by
  have hpage : e.page? = none := by simp only [ShowEntry.page?, ha]
  simp only [State.beginPreload, State.schedule, showList_of_row hr, he, hs, hpage]

theorem beginPreload_of_not (ha : e.action = .page page) (h : s.mayPreload n = false ∨ page = sc.page) :
    s.beginPreload n i = s := by
  rw [beginPreload_of_page hr hs he ha]
  refine if_neg fun ⟨hmay, hne⟩ => ?_
  exact h.elim (fun hnot => by simp [hnot] at hmay) hne

theorem beginPreload_of_flip (ha : e.action = .page page) (hmay : s.mayPreload n = true) (hne : page ≠ sc.page)
    {work : Nat} (hf : sc.flip = some work) : s.beginPreload n i = s.withSched n (sc.preloadWaits i page) := by
  rw [beginPreload_of_page hr hs he ha, if_pos ⟨hmay, hne⟩, hf]

theorem beginPreload_of_free (ha : e.action = .page page) (hmay : s.mayPreload n = true) (hne : page ≠ sc.page)
    (hf : sc.flip = none) : s.beginPreload n i =
      (s.handedAll n [.load (s.compose n page 0) (sc.works + 1)]).withSched n
        (sc.preloading i page (s.compose n page 0)) := by
  rw [beginPreload_of_page hr hs he ha, if_pos ⟨hmay, hne⟩, hf]

/-! ### The preload instant of one entry (R139) -/

omit hr hs he in
theorem instantReached_of_not (h : s.mayPreload n = false ∨ ∃ lang, e.action = .language lang) :
    s.instantReached n i e = s := by
  unfold State.instantReached
  rcases h with hmay | ⟨lang, ha⟩
  · cases e.page? with
    | none => rfl
    | some page => exact if_neg (by simp [hmay])
  · simp only [ShowEntry.page?, ha]

omit hr he in
theorem instantReached_of_pending (ha : e.action = .page page) (hmay : s.mayPreload n = true) {pre : Preload}
    (hp : sc.preload = some pre) :
    s.instantReached n i e = s.withSched n { sc with waiting := sc.waiting ++ [i] } := by
  have hhas : s.hasPreload n = true := by rw [hasPreload_eq hs, hp]; rfl
  simp only [State.instantReached, ShowEntry.page?, ha, hmay, hhas, if_true]
  exact setSched_of_some hs _

omit hr he in
theorem instantReached_of_free (ha : e.action = .page page) (hmay : s.mayPreload n = true)
    (hp : sc.preload = none) : s.instantReached n i e = s.beginPreload n i := by
  have hhas : s.hasPreload n = false := by rw [hasPreload_eq hs, hp]; rfl
  simp [State.instantReached, ShowEntry.page?, ha, hmay, hhas]

end entry

/-- The beginning of a preload moves the preload and the number of works of the panel's schedule alone. -/
theorem beginPreload_schedule {s : State} {n : Nat} {sc : Schedule} (hs : s.schedules[n]? = some sc) (i : Nat) :
    ∃ preload works, (s.beginPreload n i).schedules[n]? = some { sc with preload := preload, works := works } := by
  have hkept : ∃ preload works, s.schedules[n]? = some { sc with preload := preload, works := works } :=
    ⟨sc.preload, sc.works, hs⟩
  cases hr : s.row n with
  | none => simpa only [State.beginPreload, State.showList, hr, List.getElem?_nil] using hkept
  | some row =>
    cases he : row.list[i]? with
    | none => simpa only [State.beginPreload, showList_of_row hr, he] using hkept
    | some e =>
      cases ha : e.action with
      | language lang =>
        rw [beginPreload_of_language hr hs he ha]
        exact hkept
      | page page =>
        rw [beginPreload_of_page hr hs he ha]
        split
        · split
          · exact ⟨_, sc.works, withSched_schedule hs _⟩
          · exact ⟨_, sc.works + 1, withSched_schedule (s := s.handedAll n _) hs _⟩
        · exact hkept

/-! ### The waiting entries (R139) -/

theorem startWaiting_of_schedule {s : State} {n : Nat} {sc : Schedule} (hs : s.schedules[n]? = some sc) :
    s.startWaiting n = startWaitingFrom n sc.waiting s := by
  simp only [State.startWaiting, State.schedule, hs]

theorem startWaiting_of_empty {s : State} {n : Nat} {sc : Schedule} (hs : s.schedules[n]? = some sc)
    (hw : sc.waiting = []) : s.startWaiting n = s := by
  rw [startWaiting_of_schedule hs, hw]
  rfl

section waiting
variable {s : State} {n i : Nat} {sc : Schedule} {rest : List Nat} (hs : s.schedules[n]? = some sc)
  (hw : sc.waiting = i :: rest)
include hs hw

theorem startWaiting_of_pending (hp : sc.preload ≠ none) : s.startWaiting n = s := by
  rw [startWaiting_of_schedule hs, hw]
  exact if_pos ((hasPreload_eq hs).trans (Option.isSome_iff_ne_none.mpr hp))

/-- The first waiting entry leaves the list, and the others follow it where its preload does not begin. -/
theorem startWaiting_of_free (hp : sc.preload = none) :
    s.startWaiting n = ((s.withSched n { sc with waiting := rest }).beginPreload n i).startWaiting n := by
  have hhas : ¬ s.hasPreload n = true := by simp [hasPreload_eq hs, hp]
  obtain ⟨preload, works, hbegun⟩ := beginPreload_schedule (withSched_schedule hs { sc with waiting := rest }) i
  rw [startWaiting_of_schedule hs, hw, startWaiting_of_schedule hbegun]
  exact (if_neg hhas).trans (congrArg (fun u => startWaitingFrom n rest (State.beginPreload n i u)) (setSched_of_some hs _))

end waiting

/-- The waiting entries that leave their list move nothing of the schedule but preload, works and the list itself. -/
theorem startWaiting_schedule {s : State} {n : Nat} {sc : Schedule} (hs : s.schedules[n]? = some sc) :
    ∃ preload works waiting, (s.startWaiting n).schedules[n]? =
      some { sc with preload := preload, works := works, waiting := waiting } := by
  have hpending : ∃ preload works waiting, s.schedules[n]? =
      some { sc with preload := preload, works := works, waiting := waiting } := ⟨_, _, _, hs⟩
  cases hw : sc.waiting with
  | nil =>
    rw [startWaiting_of_empty hs hw]
    exact hpending
  | cons i rest =>
    cases hp : sc.preload with
    | some p =>
      rw [startWaiting_of_pending hs hw (by simp [hp])]
      exact hpending
    | none =>
      rw [startWaiting_of_free hs hw hp]
      obtain ⟨preload, works, hbegun⟩ := beginPreload_schedule (withSched_schedule hs { sc with waiting := rest }) i
      obtain ⟨preload', works', waiting, hdone⟩ := startWaiting_schedule hbegun
      exact ⟨preload', works', waiting, hdone⟩
termination_by sc.waiting.length
decreasing_by simp [hw]

/-! ### The instants that CT has reached (R139) -/

/-- No instant of the entries that are left is reached. -/
theorem walkInstants_of_later {s : State} {n : Nat} {rest : List ShowEntry} (i : Nat)
    (h : ∀ later, rest.head? = some later → s.ct < s.preloadAt n later) :
    walkInstants n rest i s = s.setSched n (fun sc => { sc with instants := i }) := by
  cases rest with
  | nil => rfl
  | cons later rest => exact if_pos (h later rfl)

theorem preloadAt_of_row {s : State} {n : Nat} {row : PanelRow} (hr : s.row n = some row) (e : ShowEntry) :
    s.preloadAt n e = e.mark - (s.timing row).lead := by
  simp only [State.preloadAt, hr]

/-- The one instant that CT has reached is taken. -/
theorem exec_preloadInstant_of_one {s : State} {n i : Nat} {row : PanelRow} {sc : Schedule} {e : ShowEntry}
    (hl : s.loader.state = .running) (hr : s.row n = some row) (hs : s.schedules[n]? = some sc) (hi : sc.instants = i)
    (he : row.list[i]? = some e) (hct : e.mark - (s.timing row).lead ≤ s.ct)
    (hlater : ∀ later, row.list[i + 1]? = some later → s.ct < later.mark - (s.timing row).lead) :
    exec (.preloadInstant n) s = .next
      ((if e.matchesCount s.cycle.count = true ∧ s.notActed n i = true then s.instantReached n i e else s).setSched n
        (fun sc => { sc with instants := i + 1 })) := by
  have hrun : exec (.preloadInstant n) s = .next (s.takeInstants n) :=
    congrArg Host.Outcome.next (if_pos (running_of hl))
  have hdrop : row.list.drop i = e :: row.list.drop (i + 1) := by
    obtain ⟨hlt, hget⟩ := List.getElem?_eq_some_iff.mp he
    rw [List.drop_eq_getElem_cons hlt, hget]
  have hwalk : s.takeInstants n = walkInstants n (e :: row.list.drop (i + 1)) i s := by
    simp only [State.takeInstants, State.schedule, hs, hi, showList_of_row hr, hdrop]
  rw [hrun, hwalk]
  refine congrArg Host.Outcome.next ((if_neg ?_).trans (walkInstants_of_later (i + 1) fun later hhead => ?_))
  · rw [preloadAt_of_row hr]
    exact Nat.not_lt.mpr hct
  · rw [List.head?_drop] at hhead
    have hshow (u : State) (hu : u.forShow = s.forShow) : u.ct < u.preloadAt n later := by
      rw [eq_of_forShow hu]
      exact (preloadAt_of_row hr later).symm ▸ hlater later hhead
    split
    · exact hshow _ (instantReached_forShow n i e s)
    · exact hshow s rfl

end Sys2Proof.Machine

open Sys2Proof Sys2Proof.Machine

/-- Settles O49: the instant of the one entry reached, by what its preload finds (`instantReached_of_not`,
`instantReached_of_pending`, `beginPreload_of_flip`, `beginPreload_of_free`). -/
theorem preloadInstantLoadsThePage : Obligations.PreloadInstantLoadsThePage := by
  unfold Obligations.PreloadInstantLoadsThePage
  refine ⟨fun s n i row sc e hl hr hs hi he hct hlater => ?_, fun s n sc hs => ?_,
    fun s n i row sc e page hr hs he ha => ?_⟩
  · have hpass (sc' : Schedule) (u : State) (hu : u.schedules[n]? = some sc) :
        (u.withSched n sc').setSched n (fun sc => { sc with instants := i + 1 }) =
          u.withSched n { sc' with instants := i + 1 } := by
      rw [setSched_of_some (withSched_schedule hu sc'), withSched_withSched]
    have hstay := setSched_of_some hs (fun sc => { sc with instants := i + 1 })
    have htakes := (matchesCount_iff (e := e) (count := s.cycle.count)).and (notActed_iff hs i)
    dsimp only
    rw [exec_preloadInstant_of_one hl hr hs hi he hct hlater]
    refine ⟨fun h => congrArg Host.Outcome.next (Eq.trans ?_ hstay), fun page ht hmay ha => ?_⟩
    · refine congrArg (State.setSched n _) ?_
      rcases h with hnot | hnot | hlang
      · exact if_neg (mt htakes.mp hnot)
      · have hmay : s.mayPreload n = false := Bool.eq_false_iff.mpr (mt (mayPreload_iff hr).mp hnot)
        exact (ite_congr rfl (fun _ => instantReached_of_not (.inl hmay)) (fun _ => rfl)).trans (ite_self _)
      · exact (ite_congr rfl (fun _ => instantReached_of_not (.inr hlang)) (fun _ => rfl)).trans (ite_self _)
    · have hmay' := (mayPreload_iff hr).mpr hmay
      rw [if_pos (htakes.mpr ht)]
      refine ⟨fun pre hp => congrArg Host.Outcome.next ?_, fun hp hcont => congrArg Host.Outcome.next ?_,
        fun work hp hne hf => congrArg Host.Outcome.next ?_, fun hp hne hf => congrArg Host.Outcome.next ?_⟩
      · rw [instantReached_of_pending hs ha hmay' hp]
        exact hpass _ s hs
      · rw [instantReached_of_free hs ha hmay' hp, beginPreload_of_not hr hs he ha (.inr hcont)]
        exact hstay
      · rw [instantReached_of_free hs ha hmay' hp, beginPreload_of_flip hr hs he ha hmay' hne hf]
        exact hpass _ s hs
      · rw [instantReached_of_free hs ha hmay' hp, beginPreload_of_free hr hs he ha hmay' hne hf]
        exact hpass _ (s.handedAll n _) hs
  · exact ⟨startWaiting_of_empty hs, fun i rest hw => ⟨startWaiting_of_pending hs hw, startWaiting_of_free hs hw⟩⟩
  · have hmay := mayPreload_iff hr
    refine ⟨fun h => beginPreload_of_not hr hs he ha (h.imp_left fun hnot => ?_),
      fun work h hne hf => beginPreload_of_flip hr hs he ha (hmay.mpr h) hne hf,
      fun h hne hf => beginPreload_of_free hr hs he ha (hmay.mpr h) hne hf⟩
    exact Bool.eq_false_iff.mpr (mt hmay.mp hnot)

end

section
/-! PROOFS. Marks: what one entry does at its mark, with and without a preload of its own, and where the pointer then stands
(09 sections 9.2 and 9.4). -/

namespace Sys2Proof.Machine

/-! ### A page becomes current (R138, R139) -/

theorem setPage_eq {s : State} {n : Nat} {row : PanelRow} {sc : Schedule} (hr : s.row n = some row)
    (hs : s.schedules[n]? = some sc) (page : Page) : s.setPage n page =
      s.withSched n (s.settledSched n row { sc with page := page, index := 0, scroll := none }) := by
  have hset := setSched_of_some hs (fun sc => { sc with page := page, index := 0, scroll := none })
  have hsettle := settlePaging_eq (s := s.withSched n { sc with page := page, index := 0, scroll := none }) hr
    (withSched_schedule hs _)
  unfold State.setPage
  rw [hset, hsettle]
  exact withSched_withSched n _ _ s

section own
variable {s : State} {n : Nat} {row : PanelRow} {sc : Schedule} {p : Preload} (hr : s.row n = some row)
  (hs : s.schedules[n]? = some sc)

/-- The schedule of a panel whose entry's own preload makes its page current, before anything is handed. -/
def State.shownSched (s : State) (n : Nat) (row : PanelRow) (sc : Schedule) (page : Page) : Schedule :=
  { s.settledSched n row { sc with page := page, index := 0, scroll := none } with preload := none }

include hr hs

theorem flipPreload_shows : (s.setSched n (fun sc => { sc with preload := none })).setPage n p.page =
    s.withSched n (s.shownSched n row sc p.page) := by
  rw [setSched_of_some hs, setPage_eq (s := s.withSched n _) hr (withSched_schedule hs _), withSched_withSched]
  rfl

theorem flipPreload_of_dark (hd : s.isDark n = true) :
    s.flipPreload n p = s.withSched n (s.shownSched n row sc p.page) := by
  unfold State.flipPreload
  dsimp only
  rw [flipPreload_shows hr hs]
  exact if_pos hd

theorem flipPreload_of_waiting (hd : s.isDark n = false) (hp : p.state = .waiting) : s.flipPreload n p =
    (s.handedAll n [.load (s.compose n p.page 0) (sc.works + 1), .flip (sc.works + 2) true]).withSched n
      { s.shownSched n row sc p.page with
        works := sc.works + 2, last := some (s.compose n p.page 0), flip := some (sc.works + 2) } := by
  have hcompose : (s.withSched n (s.shownSched n row sc p.page)).compose n p.page 0 = s.compose n p.page 0 :=
    compose_withSched (sc' := s.shownSched n row sc p.page) hs rfl _ _
  have hflip : s.flipPreload n p =
      (s.withSched n (s.shownSched n row sc p.page)).handPage n (s.compose n p.page 0) true := by
    unfold State.flipPreload
    dsimp only
    rw [flipPreload_shows hr hs, hp, hcompose]
    exact if_neg (by simp [hd])
  rw [hflip, handPage_eq (withSched_schedule hs _)]
  exact withSched_withSched n _ _ (s.handedAll n _)

theorem flipPreload_of_composed (hd : s.isDark n = false) (hp : p.state ≠ .waiting) {content : Content}
    (hc : p.content = some content) : s.flipPreload n p =
    (s.handedAll n [.flip (sc.works + 1) true]).withSched n
      { s.shownSched n row sc p.page with
        works := sc.works + 1, last := some content, flip := some (sc.works + 1) } := by
  have hs1 := withSched_schedule hs (s.shownSched n row sc p.page)
  have hflip : s.flipPreload n p =
      ((s.withSched n (s.shownSched n row sc p.page)).hand n (.flip (sc.works + 1) true)).setSched n (fun sc =>
        { sc with works := sc.works + 1, last := some content, flip := some (sc.works + 1) }) := by
    unfold State.flipPreload State.schedule
    dsimp only
    rw [flipPreload_shows hr hs, hs1, hc]
    refine (if_neg (by simp [hd])).trans ?_
    cases hst : p.state with
    | waiting => exact absurd hst hp
    | loading => rfl
    | loaded => rfl
  have hhanded : ((s.withSched n (s.shownSched n row sc p.page)).hand n (.flip (sc.works + 1) true)).schedules[n]? =
      some (s.shownSched n row sc p.page) := hs1
  rw [hflip, setSched_of_some hhanded]
  exact withSched_withSched n (s.shownSched n row sc p.page) _ (s.handedAll n [.flip (sc.works + 1) true])

end own

/-! ### The action of one entry (R136, R138, R139) -/

section action
variable {s : State} {n i : Nat} {row : PanelRow} {sc : Schedule} {e : ShowEntry} (hr : s.row n = some row)
  (hs : s.schedules[n]? = some sc)

section row
include hr

theorem act_of_suspended (h : s.suspended row = true) : s.act n i e = s := by
  simp only [State.act, hr, h, if_true]

theorem act_of_language (h : s.suspended row = false) {lang : Lang} (ha : e.action = .language lang) :
    s.act n i e = s.actLanguage n lang := by
  simp [State.act, hr, h, ha]

theorem act_of_page (h : s.suspended row = false) {page : Page} (ha : e.action = .page page) :
    s.act n i e = s.actPage n i page := by
  simp [State.act, hr, h, ha]

end row

include hs

theorem langInUse_of_unpinned (hp : s.pin n = false) : s.langInUse n = sc.lang := by
  simp [State.langInUse, State.schedule, hp, hs]

theorem actLanguage_of_ignored {lang : Lang} (h : s.pin n = true ∨ sc.lang = lang) : s.actLanguage n lang = s := by
  unfold State.actLanguage
  cases hp : s.pin n with
  | true => rfl
  | false =>
    have hlang : sc.lang = lang := h.resolve_left (by simp [hp])
    rw [langInUse_of_unpinned hs hp]
    exact if_pos hlang

theorem actLanguage_of_new {lang : Lang} (hp : s.pin n = false) (h : sc.lang ≠ lang) :
    s.actLanguage n lang = (s.withSched n { sc with lang := lang }).contentChange n := by
  unfold State.actLanguage
  rw [hp, langInUse_of_unpinned hs hp, setSched_of_some hs]
  exact if_neg h

/-- An entry with a preload of its own. -/
theorem actPage_of_own {page : Page} {pre : Preload} (hp : sc.preload = some pre) (he : pre.entry = i) :
    s.actPage n i page = (s.flipPreload n pre).startWaiting n := by
  simp only [State.actPage, State.schedule, hs, hp, if_pos he]

/-- An entry without a preload of its own is judged against the current page (log 15). -/
theorem actPage_of_other {page : Page} (hp : ∀ pre, sc.preload = some pre → pre.entry ≠ i) :
    s.actPage n i page = if page = sc.page then s else (s.setPage n page).contentChange n := by
  simp only [State.actPage, State.schedule, hs]
  cases hpre : sc.preload with
  | none => rfl
  | some pre => exact if_neg (hp pre hpre)

end action

/-! ### The marks that CT has reached (R136) -/

/-- No matching entry of those that are left has its mark reached: the pointer moves to the first of them. -/
theorem walkMarks_of_later {s : State} {n : Nat} {list : List ShowEntry} : ∀ (rest : List ShowEntry) (i : Nat),
    list.drop i = rest →
    (∀ j later, nextMatch s.cycle.count rest i = some j → list[j]? = some later → s.ct < later.mark) →
    walkMarks n rest i s = s.setPointer n (nextMatch s.cycle.count rest i)
  | [], _, _, _ => rfl
  | e :: rest, i, hdrop, h => by
    have hget : list[i]? = some e := by rw [← List.head?_drop, hdrop]; rfl
    have htail : list.drop (i + 1) = rest := by rw [← List.tail_drop, hdrop]; rfl
    cases hm : e.matchesCount s.cycle.count with
    | true =>
      have hnext : nextMatch s.cycle.count (e :: rest) i = some i := if_pos hm
      rw [hnext] at h ⊢
      exact (if_pos hm).trans (if_neg (Nat.not_le.mpr (h i e rfl hget)))
    | false =>
      have hnext : nextMatch s.cycle.count (e :: rest) i = nextMatch s.cycle.count rest (i + 1) :=
        if_neg (by simp [hm])
      rw [hnext] at h ⊢
      exact (if_neg (by simp [hm])).trans (walkMarks_of_later rest (i + 1) htail h)

theorem setPointer_self {s : State} {n : Nat} {sc : Schedule} {p : Option Nat} (hs : s.schedules[n]? = some sc)
    (hp : sc.pointer = p) : s.setPointer n p = s := by
  subst hp
  exact (setSched_of_some hs _).trans (withSched_self hs)

/-- The one mark that CT has reached is taken: the entry acts with the pointer moved on, and where its action keeps the
pointer, that is all. -/
theorem exec_showMark_of_one {s : State} {n i : Nat} {row : PanelRow} {sc : Schedule} {e : ShowEntry}
    (hl : s.loader.state = .running) (hr : s.row n = some row) (hs : s.schedules[n]? = some sc) (hi : sc.pointer = some i)
    (he : row.list[i]? = some e) (hm : s.cycle.count.toNat % e.period = e.phase) (hct : e.mark ≤ s.ct)
    (hlater : ∀ j later, nextMatch s.cycle.count (row.list.drop (i + 1)) (i + 1) = some j → row.list[j]? = some later →
      s.ct < later.mark) {t : State} {sc' : Schedule}
    (ht : (s.withSched n { sc with
      pointer := nextMatch s.cycle.count (row.list.drop (i + 1)) (i + 1) }).act n i e = t)
    (hs' : t.schedules[n]? = some sc')
    (hp' : sc'.pointer = nextMatch s.cycle.count (row.list.drop (i + 1)) (i + 1)) : exec (.showMark n) s = .next t := by
  have hrun : exec (.showMark n) s = .next (s.takeMarks n) := congrArg Host.Outcome.next (if_pos (running_of hl))
  have hdrop : row.list.drop i = e :: row.list.drop (i + 1) := by
    obtain ⟨hlt, hget⟩ := List.getElem?_eq_some_iff.mp he
    rw [List.drop_eq_getElem_cons hlt, hget]
  have hwalk : s.takeMarks n = walkMarks n (e :: row.list.drop (i + 1)) i s := by
    simp only [State.takeMarks, State.schedule, hs, hi, showList_of_row hr, hdrop]
  have hshow : t.forShow = s.forShow := by
    rw [← ht]
    exact act_forShow n i e (s.withSched n _)
  have hcount : t.cycle.count = s.cycle.count := (congrArg (fun u : State => u.cycle.count) hshow :)
  have htime : t.ct = s.ct := (congrArg State.ct hshow :)
  rw [hrun, hwalk]
  refine congrArg Host.Outcome.next ((if_pos (matchesCount_iff.mpr hm)).trans ((if_pos hct).trans ?_))
  rw [State.setPointer, setSched_of_some hs, ht,
    walkMarks_of_later (list := row.list) _ (i + 1) rfl (by rw [hcount, htime]; exact hlater), hcount]
  exact setPointer_self hs' hp'

end Sys2Proof.Machine

open Sys2Proof Sys2Proof.Machine

/-- Settles O50: the entry acts by its action and its preload, and no action moves the pointer again
(`exec_showMark_of_one`). -/
theorem markMakesThePageCurrent : Obligations.MarkMakesThePageCurrent := by
  unfold Obligations.MarkMakesThePageCurrent
  intro s n i row sc e hl hr hs hi he hm hct next hlater x moved shows
  have hexec {t : State} {sc' : Schedule} (ht : (s.withSched n moved).act n i e = t)
      (hs' : t.schedules[n]? = some sc') (hp' : sc'.pointer = next) : x = .next t :=
    exec_showMark_of_one hl hr hs hi he hm hct hlater ht hs' hp'
  have hmoved : (s.withSched n moved).schedules[n]? = some moved := withSched_schedule hs moved
  have hrow : (s.withSched n moved).row n = some row := hr
  refine ⟨fun hsus => hexec (act_of_suspended hrow hsus) hmoved rfl, fun lang hsus ha => ⟨fun h => ?_, fun hp hne => ?_⟩,
    fun page hsus ha => ⟨fun hother => ⟨fun hcont => ?_, fun hne => ?_⟩, fun pre hp hentry hpage => ?_⟩⟩
  · refine hexec ((act_of_language hrow hsus ha).trans (actLanguage_of_ignored hmoved h)) hmoved rfl
  · have hact := (act_of_language (i := i) hrow hsus ha).trans (actLanguage_of_new hmoved hp hne)
    rw [withSched_withSched] at hact
    obtain ⟨sc', hsc', -, -, -, hpointer, -⟩ :=
      contentChange_schedule (s := s.withSched n { moved with lang := lang }) hr (withSched_schedule hs _)
    exact hexec hact hsc' hpointer
  · exact hexec ((act_of_page hrow hsus ha).trans ((actPage_of_other hmoved hother).trans (if_pos hcont))) hmoved rfl
  · have hset : (s.withSched n moved).setPage n page = s.withSched n (shows page) := by
      rw [setPage_eq hrow hmoved, withSched_withSched]
      rfl
    have hact := (act_of_page (i := i) hrow hsus ha).trans ((actPage_of_other hmoved hother).trans (if_neg hne))
    rw [hset] at hact
    obtain ⟨sc', hsc', hindex, -, hpage, hpointer, hlang⟩ :=
      contentChange_schedule (s := s.withSched n (shows page)) hr (withSched_schedule hs _)
    have hshown : (shows page).index = 0 := ite_self _
    have hzero : sc'.index = 0 := by
      rw [hindex]
      simp only [State.settledSched, hshown, ite_self]
    have hx := hexec hact hsc' hpointer
    exact ⟨hx, _, sc', hx, eq_of_forShow (contentChange_forShow n (s.withSched n (shows page))), hsc', hpage, hzero,
      hpointer, hlang⟩
  · subst hpage
    have hact := (act_of_page (i := i) hrow hsus ha).trans (actPage_of_own hmoved hp hentry)
    have hwaiting {u : State} {sc' : Schedule} (hflip : (s.withSched n moved).flipPreload n pre = u)
        (hs' : u.schedules[n]? = some sc') (hp' : sc'.pointer = next) : x = .next (u.startWaiting n) := by
      obtain ⟨preload, works, waiting, hdone⟩ := startWaiting_schedule hs'
      exact hexec (hact.trans (congrArg (State.startWaiting n) hflip)) hdone hp'
    have hcompose : (s.withSched n moved).compose n pre.page 0 = s.compose n pre.page 0 :=
      compose_withSched (sc' := moved) hs rfl _ _
    have htwice (work : List LinkMsg) (sc' : Schedule) : ((s.withSched n moved).handedAll n work).withSched n sc' =
        (s.handedAll n work).withSched n sc' := withSched_withSched n moved sc' (s.handedAll n work)
    refine ⟨fun hd => ?_, fun hd hst => ?_, fun content hd hst hc => ?_⟩
    · exact hwaiting ((flipPreload_of_dark hrow hmoved hd).trans (withSched_withSched n _ _ s))
        (withSched_schedule hs _) rfl
    · refine hwaiting ((flipPreload_of_waiting hrow hmoved hd hst).trans ?_)
        (withSched_schedule (s := s.handedAll n _) hs _) rfl
      rw [hcompose, htwice]
      rfl
    · refine hwaiting ((flipPreload_of_composed hrow hmoved hd hst hc).trans ?_)
        (withSched_schedule (s := s.handedAll n _) hs _) rfl
      rw [htwice]
      rfl

end

section
/-! PROOFS. Work handed to a link: sent at once, merged, placed, or placed by removing other work (10 section 10.5). -/

namespace Sys2Proof.Machine

/-! ### A link that takes work at once (R151, R152, R156, R158) -/

theorem hand_of_not_up {l : LinkRec} (h : l.state ≠ .up) (m : LinkMsg) (now : Clock) : l.hand m now = l := if_neg h

theorem fly_first (l : LinkRec) (m : LinkMsg) (now : Clock) : l.fly m 1 now = sending l m now := rfl

section up
variable {l : LinkRec} (hup : l.state = .up)
include hup

/-- Only a FLIP is looked at before it is placed. -/
theorem hand_of_not_flip {m : LinkMsg} (hm : m.isFlip = false) (now : Clock) :
    l.hand m now = if l.inFlight = none ∧ l.queue = [] then sending l m now else l.place m := by
  cases m with
  | flip => cases hm
  | load => exact if_pos hup
  | bright => exact if_pos hup
  | test => exact if_pos hup
  | chime => exact if_pos hup
  | probe => exact if_pos hup

theorem hand_flip (work : Nat) (atMark : Bool) (now : Clock) : l.hand (.flip work atMark) now =
    if l.inFlight = none ∧ l.queue = [] then sending l (.flip work (atMark && l.loadAhead)) now
    else l.place (.flip work (atMark && l.loadAhead)) := if_pos hup

theorem hand_of_idle (hf : l.inFlight = none) (hq : l.queue = []) {m : LinkMsg} (hm : m.isFlip = false) (now : Clock) :
    l.hand m now = sending l m now := (hand_of_not_flip hup hm now).trans (if_pos ⟨hf, hq⟩)

theorem hand_flip_of_idle (hf : l.inFlight = none) (hq : l.queue = []) (work : Nat) (atMark : Bool) (now : Clock) :
    l.hand (.flip work atMark) now = sending l (.flip work false) now := by
  have hahead : l.loadAhead = false := by simp [LinkRec.loadAhead, hf, hq]
  rw [hand_flip hup, if_pos ⟨hf, hq⟩, hahead, Bool.and_false]

theorem hand_of_busy {f : InFlight} (hf : l.inFlight = some f) {m : LinkMsg} (hm : m.isFlip = false) (now : Clock) :
    l.hand m now = l.place m := (hand_of_not_flip hup hm now).trans (if_neg (by simp [hf]))

theorem hand_flip_of_busy {f : InFlight} (hf : l.inFlight = some f) (work : Nat) (atMark : Bool) (now : Clock) :
    l.hand (.flip work atMark) now =
      l.place (.flip work (atMark && (l.queue.any LinkMsg.isLoad || f.msg.isLoad))) := by
  have hahead : l.loadAhead = (l.queue.any LinkMsg.isLoad || f.msg.isLoad) := by simp only [LinkRec.loadAhead, hf]
  rw [hand_flip hup, if_neg (by simp [hf]), hahead]

end up

/-! ### Removing from a queue (R160) -/

theorem eraseFirst_append {p : LinkMsg → Bool} {x : LinkMsg} {rest : List LinkMsg} (hx : p x = true) :
    ∀ {first : List LinkMsg}, first.any p = false → eraseFirst p (first ++ x :: rest) = first ++ rest
  | [], _ => if_pos hx
  | y :: first, h => by
    obtain ⟨hy, hfirst⟩ := Bool.or_eq_false_iff.mp h
    exact (if_neg (by simp [hy])).trans (congrArg (y :: ·) (eraseFirst_append hx hfirst))

theorem dropLoad_append {x : LinkMsg} {rest : List LinkMsg} (hx : x.isLoad = true) :
    ∀ {first : List LinkMsg}, first.any LinkMsg.isLoad = false →
      dropLoad (first ++ x :: rest) = first ++ rest.filter (fun y => !y.isFlip)
  | [], _ => if_pos hx
  | y :: first, h => by
    obtain ⟨hy, hfirst⟩ := Bool.or_eq_false_iff.mp h
    exact (if_neg (by simp [hy])).trans (congrArg (y :: ·) (dropLoad_append hx hfirst))

theorem any_append_cons {p : LinkMsg → Bool} {x : LinkMsg} (hx : p x = true) (first rest : List LinkMsg) :
    (first ++ x :: rest).any p = true := by
  simp [hx]

/-! ### A message placed at the tail (R156, R160) -/

section append
variable {l : LinkRec} (m : LinkMsg)

theorem append_of_room (h : l.queue.length < 3) : l.append m = { l with queue := l.queue ++ [m] } := by
  unfold LinkRec.append LinkRec.makeRoom
  rw [if_pos (show l.queue.length < Config.linkQueueSize from h)]
  rfl

theorem append_of_bright (h : l.queue.length = 3) (hb : l.queue.any LinkMsg.isBright = true) : l.append m =
    { l with queue := eraseFirst LinkMsg.isBright l.queue ++ [m], brightStale := true } := by
  unfold LinkRec.append LinkRec.makeRoom
  rw [if_neg (show ¬ l.queue.length < Config.linkQueueSize from Nat.not_lt.mpr h.ge), if_pos hb]
  rfl

theorem append_of_load (h : l.queue.length = 3) (hb : l.queue.any LinkMsg.isBright = false)
    (hl : l.queue.any LinkMsg.isLoad = true) : l.append m =
    { l with queue := dropLoad l.queue ++ (if m.isFlip then [] else [m]), pageStale := true } := by
  unfold LinkRec.append LinkRec.makeRoom
  rw [if_neg (show ¬ l.queue.length < Config.linkQueueSize from Nat.not_lt.mpr h.ge), if_neg (by simp [hb]), if_pos hl]
  cases m.isFlip with
  | true => simp
  | false => rfl

theorem append_of_chime (h : l.queue.length = 3) (hb : l.queue.any LinkMsg.isBright = false)
    (hl : l.queue.any LinkMsg.isLoad = false) (hc : l.queue.any LinkMsg.isChime = true) :
    l.append m = { l with queue := eraseFirst LinkMsg.isChime l.queue ++ [m] } := by
  unfold LinkRec.append LinkRec.makeRoom
  rw [if_neg (show ¬ l.queue.length < Config.linkQueueSize from Nat.not_lt.mpr h.ge), if_neg (by simp [hb]),
    if_neg (by simp [hl]), if_pos hc]
  rfl

theorem append_of_none (h : l.queue.length = 3) (hb : l.queue.any LinkMsg.isBright = false)
    (hl : l.queue.any LinkMsg.isLoad = false) (hc : l.queue.any LinkMsg.isChime = false) : l.append m = l := by
  unfold LinkRec.append LinkRec.makeRoom
  rw [if_neg (show ¬ l.queue.length < Config.linkQueueSize from Nat.not_lt.mpr h.ge), if_neg (by simp [hb]),
    if_neg (by simp [hl]), if_neg (by simp [hc])]
  rfl

theorem append_length_le (h : l.queue.length ≤ 3) : (l.append m).queue.length ≤ 3 := by
  rcases Nat.lt_or_eq_of_le h with hroom | hfull
  · rw [append_of_room m hroom, List.length_append]
    exact hroom
  cases hb : l.queue.any LinkMsg.isBright with
  | true =>
    rw [append_of_bright m hfull hb, List.length_append]
    exact (eraseFirst_length hb).trans_le h
  | false =>
    cases hl : l.queue.any LinkMsg.isLoad with
    | true =>
      have hdrop := dropLoad_length hl
      have hone : (if m.isFlip = true then [] else [m]).length ≤ 1 := by split <;> simp
      rw [append_of_load m hfull hb hl, List.length_append]
      omega
    | false =>
      cases hc : l.queue.any LinkMsg.isChime with
      | true =>
        rw [append_of_chime m hfull hb hl hc, List.length_append]
        exact (eraseFirst_length hc).trans_le h
      | false =>
        rw [append_of_none m hfull hb hl hc]
        exact h

end append

/-- A message that joins the tail of a queue of at most three: its place, or what is removed for it. -/
structure Joins (l : LinkRec) (q : List LinkMsg) (m : LinkMsg) (l' : LinkRec) : Prop where
  room : q.length < 3 → l' = { l with queue := q ++ [m] }
  bright : ∀ first x rest, q.length = 3 → q = first ++ x :: rest → x.isBright = true →
    first.any LinkMsg.isBright = false → l' = { l with queue := first ++ rest ++ [m], brightStale := true }
  load : ∀ first x rest, q.length = 3 → q.any LinkMsg.isBright = false → q = first ++ x :: rest → x.isLoad = true →
    first.any LinkMsg.isLoad = false →
    l' = { l with queue := first ++ rest.filter (fun y => !y.isFlip) ++ (if m.isFlip then [] else [m]),
                  pageStale := true }
  chime : ∀ first x rest, q.length = 3 → q.any LinkMsg.isBright = false → q.any LinkMsg.isLoad = false →
    q = first ++ x :: rest → x.isChime = true → first.any LinkMsg.isChime = false →
    l' = { l with queue := first ++ rest ++ [m] }

theorem append_joins (l : LinkRec) (q : List LinkMsg) (m : LinkMsg) : Joins l q m (({ l with queue := q } : LinkRec).append m) where
  room := append_of_room (l := { l with queue := q }) m
  bright := fun first x rest hfull hq hx hfirst => by
    subst hq
    have happend := append_of_bright (l := { l with queue := first ++ x :: rest }) m hfull (any_append_cons hx first rest)
    rwa [eraseFirst_append hx hfirst] at happend
  load := fun first x rest hfull hb hq hx hfirst => by
    subst hq
    have happend :=
      append_of_load (l := { l with queue := first ++ x :: rest }) m hfull hb (any_append_cons hx first rest)
    rwa [dropLoad_append hx hfirst] at happend
  chime := fun first x rest hfull hb hl hq hx hfirst => by
    subst hq
    have happend :=
      append_of_chime (l := { l with queue := first ++ x :: rest }) m hfull hb hl (any_append_cons hx first rest)
    rwa [eraseFirst_append hx hfirst] at happend

/-! ### A FLIP taken into a queued one (R158) -/

theorem mergeFlip_of_loads {work : Nat} {late : Bool} : ∀ {q : List LinkMsg},
    (∀ first w wasLate rest, q = first ++ .flip w wasLate :: rest → rest.any LinkMsg.isLoad = true) →
    mergeFlip work late q = none
  | [], _ => rfl
  | m :: rest, h => by
    have hrest : mergeFlip work late rest = none :=
      mergeFlip_of_loads fun first w wasLate tail hq => h (m :: first) w wasLate tail (congrArg (m :: ·) hq)
    unfold mergeFlip
    rw [hrest]
    cases m with
    | flip w wasLate => exact if_pos (h [] w wasLate rest rfl)
    | load => rfl
    | bright => rfl
    | test => rfl
    | chime => rfl
    | probe => rfl

theorem mergeFlip_of_last {w work : Nat} {wasLate late : Bool} {rest : List LinkMsg}
    (hflip : rest.any LinkMsg.isFlip = false) (hload : rest.any LinkMsg.isLoad = false) : ∀ first : List LinkMsg,
    mergeFlip work late (first ++ .flip w wasLate :: rest) = some (first ++ .flip work (wasLate || late) :: rest)
  | [] => by
    have hrest : mergeFlip work late rest = none := mergeFlip_of_loads fun first w wasLate tail hq => by
      rw [hq, any_append_cons (p := LinkMsg.isFlip) rfl first tail] at hflip
      cases hflip
    show mergeFlip work late (.flip w wasLate :: rest) = _
    unfold mergeFlip
    rw [hrest]
    exact if_neg (by simp [hload])
  | m :: first => by
    show mergeFlip work late (m :: (first ++ .flip w wasLate :: rest)) = _
    unfold mergeFlip
    rw [mergeFlip_of_last hflip hload first]
    rfl

/-! ### Placing (R157 to R159) -/

theorem place_load_of_queued {l : LinkRec} (h : l.queue.any LinkMsg.isLoad = true) (content : Content) (work : Nat) :
    l.place (.load content work) =
      { l with queue := l.queue.map (fun x => if x.isLoad then .load content work else x) } := if_pos h

theorem place_load_of_none {l : LinkRec} (h : l.queue.any LinkMsg.isLoad = false) (content : Content) (work : Nat) :
    l.place (.load content work) = l.append (.load content work) := if_neg (by simp [h])

theorem place_flip_of_merged {l : LinkRec} {work : Nat} {late : Bool} {q : List LinkMsg}
    (h : mergeFlip work late l.queue = some q) : l.place (.flip work late) = { l with queue := q } := by
  simp only [LinkRec.place, h]

theorem place_flip_of_none {l : LinkRec} {work : Nat} {late : Bool} (h : mergeFlip work late l.queue = none) :
    l.place (.flip work late) = l.append (.flip work late) := by
  simp only [LinkRec.place, h]

theorem place_length_le {l : LinkRec} (h : l.queue.length ≤ 3) (m : LinkMsg) : (l.place m).queue.length ≤ 3 := by
  have hfilter (p : LinkMsg → Bool) : (l.queue.filter p).length ≤ 3 := (List.length_filter_le p _).trans h
  cases m with
  | load content work =>
    cases hl : l.queue.any LinkMsg.isLoad with
    | true =>
      rw [place_load_of_queued hl, List.length_map]
      exact h
    | false =>
      rw [place_load_of_none hl]
      exact append_length_le _ h
  | flip work late =>
    cases hm : mergeFlip work late l.queue with
    | some q =>
      rw [place_flip_of_merged hm]
      exact (mergeFlip_kinds hm).1.trans_le h
    | none =>
      rw [place_flip_of_none hm]
      exact append_length_le _ h
  | bright => exact append_length_le (l := { l with queue := l.queue.filter (fun x => !x.isBright) }) _ (hfilter _)
  | test => exact append_length_le (l := { l with queue := l.queue.filter (fun x => !x.isTest) }) _ (hfilter _)
  | chime => exact append_length_le _ h
  | probe => exact h

end Sys2Proof.Machine

open Sys2Proof Sys2Proof.Machine

/-- Settles O51: a busy UP link places each kind of work (`place_load_of_queued`, `mergeFlip_of_last`), and what joins the
tail is placed there by `append_joins`. -/
theorem linksTakeWork : Obligations.LinksTakeWork := by
  unfold Obligations.LinksTakeWork
  refine ⟨fun l m now h => hand_of_not_up h m now, fun l m now hup hf hq hm => hand_of_idle hup hf hq hm now,
    fun l work atMark now hup hf hq => hand_flip_of_idle hup hf hq work atMark now, fun l f now hup hf hlength => ?_⟩
  intro late joins
  have hjoins {q : List LinkMsg} {m : LinkMsg} {l' : LinkRec} (h : Joins l q m l') : joins q m l' :=
    ⟨h.room, h.bright, h.load, h.chime⟩
  have htail {m m' : LinkMsg} (h : l.hand m now = l.append m') : joins l.queue m' (l.hand m now) := by
    rw [h]
    exact hjoins (append_joins l l.queue m')
  have hflip (work : Nat) (atMark : Bool) : l.hand (.flip work atMark) now = l.place (.flip work (late atMark)) :=
    hand_flip_of_busy hup hf work atMark now
  refine ⟨fun content work hl => ?_, fun content work hl => ?_, fun first w wasLate rest work atMark hq hnf hnl => ?_,
    fun work atMark hnone => ?_, fun level => ?_, fun on => ?_, fun strokes => ?_, fun m => ?_⟩
  · exact (hand_of_busy hup hf rfl now).trans (place_load_of_queued hl content work)
  · exact htail ((hand_of_busy hup hf rfl now).trans (place_load_of_none hl content work))
  · refine (hflip work atMark).trans (place_flip_of_merged ?_)
    rw [hq]
    exact mergeFlip_of_last hnf hnl first
  · exact htail ((hflip work atMark).trans (place_flip_of_none (mergeFlip_of_loads hnone)))
  · rw [hand_of_busy hup hf rfl now]
    exact hjoins (append_joins l _ _)
  · rw [hand_of_busy hup hf rfl now]
    exact hjoins (append_joins l _ _)
  · exact htail (hand_of_busy hup hf rfl now)
  · cases hm : m.isFlip with
    | false =>
      rw [hand_of_busy hup hf hm now]
      exact place_length_le hlength m
    | true =>
      cases m with
      | flip work atMark =>
        rw [hflip]
        exact place_length_le hlength _
      | load => cases hm
      | bright => cases hm
      | test => cases hm
      | chime => cases hm
      | probe => cases hm

end

section
/-! PROOFS. What a link does once a message has ended: the next message, the refresh of a drained link, and the return of a
link to UP (10 sections 10.3 to 10.5). -/

namespace Sys2Proof.Machine

/-! ### Work handed to a link whose record is known -/

theorem handedAll_eq_set {s : State} {n : Nat} {l : LinkRec} (hl : s.links[n]? = some l) (work : List LinkMsg) :
    s.handedAll n work = { s with links := s.links.set n (work.foldl (fun l m => l.hand m s.cycle.clock) l) } :=
  setLink_eq_set hl _

theorem sendServicePage_eq (n : Nat) (s : State) :
    s.sendServicePage n = s.handedAll n [.load servicePage 0, .flip 0 false, .bright serviceLevel] := by
  unfold State.sendServicePage
  rw [hand_eq_handedAll n (.load servicePage 0) s, handedAll_hand, handedAll_hand]
  rfl

/-- A page handed to an idle UP link: its LOAD is sent, and what follows waits. -/
theorem hand_page_of_idle {l : LinkRec} (hup : l.state = .up) (hf : l.inFlight = none) (hq : l.queue = [])
    (content : Content) (work work' : Nat) (now : Clock) :
    [LinkMsg.load content work, .flip work' false].foldl (fun l m => l.hand m now) l =
      { sending l (.load content work) now with queue := [.flip work' false] } := by
  have hflip : (sending l (.load content work) now).hand (.flip work' false) now =
      (sending l (.load content work) now).append (.flip work' false) := by
    rw [hand_flip_of_busy (l := sending l _ now) hup rfl]
    refine place_flip_of_none ?_
    rw [show (sending l (.load content work) now).queue = [] from hq]
    rfl
  show (l.hand (.load content work) now).hand (.flip work' false) now = _
  rw [hand_of_idle hup hf hq rfl, hflip, append_of_room]
  · rw [show (sending l (.load content work) now).queue = [] from hq]
    rfl
  · rw [show (sending l (.load content work) now).queue = [] from hq]
    decide

theorem hand_page_bright_of_idle {l : LinkRec} (hup : l.state = .up) (hf : l.inFlight = none) (hq : l.queue = [])
    (content : Content) (work work' level : Nat) (now : Clock) :
    [LinkMsg.load content work, .flip work' false, .bright level].foldl (fun l m => l.hand m now) l =
      { sending l (.load content work) now with queue := [.flip work' false, .bright level] } := by
  show ([LinkMsg.load content work, .flip work' false].foldl (fun l m => l.hand m now) l).hand (.bright level) now = _
  rw [hand_page_of_idle hup hf hq]
  exact hand_of_busy (l := { sending l (.load content work) now with queue := [.flip work' false] }) hup rfl rfl now

/-- The messages that restore a stale brightness. -/
def LinkRec.levels (l : LinkRec) (brightness : Nat) : List LinkMsg := if l.brightStale then [.bright brightness] else []

theorem hand_page_levels_of_idle {l : LinkRec} (hup : l.state = .up) (hf : l.inFlight = none) (hq : l.queue = [])
    (content : Content) (work work' : Nat) (stale : LinkRec) (brightness : Nat) (now : Clock) :
    ([LinkMsg.load content work, .flip work' false] ++ stale.levels brightness).foldl (fun l m => l.hand m now) l =
      { sending l (.load content work) now with queue := .flip work' false :: stale.levels brightness } := by
  unfold LinkRec.levels
  cases stale.brightStale with
  | true => exact hand_page_bright_of_idle hup hf hq content work work' brightness now
  | false => exact hand_page_of_idle hup hf hq content work work' now

/-- Handing more work after some, and beside a schedule that is set. -/
theorem handedAll_append (n : Nat) (work work' : List LinkMsg) (s : State) :
    (s.handedAll n work).handedAll n work' = s.handedAll n (work ++ work') := by
  unfold State.handedAll
  simp only [List.modify_modify_eq, Function.comp_def, List.foldl_append]

theorem handedAll_withSched (n : Nat) (work : List LinkMsg) (sc : Schedule) (s : State) :
    (s.withSched n sc).handedAll n work = (s.handedAll n work).withSched n sc := rfl

/-- LOAD and FLIP of the settled current page at the return of a link. -/
theorem schedLinkUp_of_lit {s : State} {n : Nat} {row : PanelRow} {sc : Schedule} (hr : s.row n = some row)
    (hs : s.schedules[n]? = some sc) (hd : s.isDark n = false) : s.schedLinkUp n =
    (s.handedAll n [.load (s.compose n sc.page (s.settledSched n row sc).index) (sc.works + 1),
      .flip (sc.works + 2) false]).withSched n { s.settledSched n row sc with
        works := sc.works + 2, last := some (s.compose n sc.page (s.settledSched n row sc).index),
        flip := some (sc.works + 2), preload := sc.preload.map Preload.displaced } := by
  have hdark : ¬ (s.settlePaging n).isDark n = true := by
    rw [settlePaging_eq hr hs]
    exact Bool.eq_false_iff.mp hd
  have hup : s.schedLinkUp n = (s.settlePaging n).handPage n ((s.settlePaging n).currentContent n) false := if_neg hdark
  rw [hup, settled_content hr hs, settled_handPage hr hs]
  rfl

theorem isDark_settlePaging (n : Nat) (s : State) : (s.settlePaging n).isDark n = s.isDark n := by
  rw [eq_of_forShow (settlePaging_forShow n s)]
  rfl

theorem schedLinkUp_of_dark {s : State} {n : Nat} (hd : s.isDark n = true) : s.schedLinkUp n = s.settlePaging n :=
  if_pos ((isDark_settlePaging n s).trans hd)

/-! ### The next message (R152, R158) -/

section next
variable {v : State} {n : Nat} {l : LinkRec} (hl : v.links[n]? = some l)
include hl

theorem sendNext_of_queued (hup : l.state = .up) (hf : l.inFlight = none) {m : LinkMsg} {rest : List LinkMsg}
    (hq : l.queue = m :: rest) : v.sendNext n =
      { (if m.isLateFlip then v.count .lateFlips else v) with
        links := v.links.set n { sending l m v.cycle.clock with queue := rest } } := by
  have hsend : v.sendNext n = (if m.isLateFlip then v.count .lateFlips else v).setLink n
      (fun l => { l with queue := rest }.fly m 1 v.now) := by
    simp only [State.sendNext, State.link, hl, hup, hf, hq, and_self, if_true]
  have hlinks : (if m.isLateFlip then v.count .lateFlips else v).links = v.links := by split <;> rfl
  rw [hsend, setLink_eq_set (l := l) (by rw [hlinks]; exact hl), hlinks]
  rfl

theorem sendNext_of_empty (hq : l.queue = []) : v.sendNext n = v := by
  simp only [State.sendNext, State.link, hl, hq, ite_self]

theorem sendNext_of_inFlight {f : InFlight} (hf : l.inFlight = some f) : v.sendNext n = v := by
  simp only [State.sendNext, State.link, hl, hf]
  exact if_neg fun h => nomatch h.2

theorem drained_of_inFlight {f : InFlight} (hf : l.inFlight = some f) : v.drained n = v := by
  simp only [State.drained, State.link, hl, hf]
  exact if_neg fun h => nomatch h.2.1

theorem drained_of_fresh (hp : l.pageStale = false) (hb : l.brightStale = false) : v.drained n = v := by
  simp [State.drained, State.link, hl, hp, hb]

theorem clearStale_eq : v.clearStale n =
    { v with links := v.links.set n { l with pageStale := false, brightStale := false } } := setLink_eq_set hl _

/-- A link with a message in flight neither sends nor is drained. -/
theorem goesOn_of_inFlight {f : InFlight} (hf : l.inFlight = some f) : (v.sendNext n).drained n = v := by
  rw [sendNext_of_inFlight hl hf, drained_of_inFlight hl hf]

theorem goesOn_of_queued (hup : l.state = .up) (hf : l.inFlight = none) {m : LinkMsg} {rest : List LinkMsg}
    (hq : l.queue = m :: rest) : (v.sendNext n).drained n =
      { (if m.isLateFlip then v.count .lateFlips else v) with
        links := v.links.set n { sending l m v.cycle.clock with queue := rest } } := by
  rw [sendNext_of_queued hl hup hf hq]
  refine drained_of_inFlight (l := { sending l m v.cycle.clock with queue := rest }) ?_ rfl
  exact List.getElem?_set_self (List.getElem?_eq_some_iff.mp hl).1

/-- A drained link with a stale flag (R161). -/
theorem drained_of_stale (hup : l.state = .up) (hf : l.inFlight = none) (hq : l.queue = [])
    (hstale : l.pageStale = true ∨ l.brightStale = true) : v.drained n =
      if v.loader.state = .running then
        let u := if l.pageStale then ((v.clearStale n).schedLinkDown n).schedLinkUp n else v.clearStale n
        if l.brightStale then u.hand n (.bright (u.displayBrightness n)) else u
      else (v.clearStale n).sendServicePage n := by
  simp only [State.drained, State.link, hl, hup, hf, hq, hstale, and_self, if_true]
  have hrun : (v.clearStale n).running = true ↔ v.loader.state = .running := decide_eq_true_iff
  exact if_congr hrun rfl rfl

end next

/-! ### The refresh of a drained link (R161) -/

/-- The record of a link whose message has ended and whose stale flags are taken. -/
def LinkRec.drainedIdle (l : LinkRec) : LinkRec :=
  { l with inFlight := none, pageStale := false, brightStale := false }

section refresh
variable {v : State} {n : Nat} {l : LinkRec} (hl : v.links[n]? = some { l with inFlight := none }) (hup : l.state = .up)
  (hq : l.queue = [])
include hl hup hq

omit hup hq in
theorem clearStale_link : (v.clearStale n).links[n]? = some l.drainedIdle := by
  rw [clearStale_eq hl]
  exact List.getElem?_set_self (List.getElem?_eq_some_iff.mp hl).1

theorem refresh_served (hrun : v.loader.state ≠ .running) (hstale : l.pageStale = true ∨ l.brightStale = true) :
    (v.drained n).links[n]? = some { sending l.drainedIdle (.load [List.replicate 8 0x2D#8] 0) v.cycle.clock with
      queue := [.flip 0 false, .bright 8] } ∧ (v.drained n).schedules = v.schedules := by
  rw [drained_of_stale hl hup rfl hq hstale, if_neg hrun, sendServicePage_eq, handedAll_eq_set (clearStale_link hl)]
  refine ⟨?_, rfl⟩
  rw [hand_page_bright_of_idle (l := l.drainedIdle) hup rfl hq]
  exact List.getElem?_set_self (List.getElem?_eq_some_iff.mp (clearStale_link hl)).1

theorem refresh_bright (hrun : v.loader.state = .running) (hp : l.pageStale = false) (hb : l.brightStale = true) :
    (v.drained n).links[n]? = some (sending l.drainedIdle (.bright (v.displayBrightness n)) v.cycle.clock) ∧
      (v.drained n).schedules = v.schedules := by
  rw [drained_of_stale hl hup rfl hq (.inr hb), if_pos hrun]
  simp only [hp, hb, if_true, Bool.false_eq_true, if_false]
  rw [hand_eq_handedAll, handedAll_eq_set (clearStale_link hl)]
  refine ⟨?_, rfl⟩
  have hhand : l.drainedIdle.hand (.bright (v.displayBrightness n)) v.cycle.clock =
      sending l.drainedIdle (.bright (v.displayBrightness n)) v.cycle.clock :=
    hand_of_idle (l := l.drainedIdle) (m := .bright _) hup rfl hq rfl _
  exact (List.getElem?_set_self (List.getElem?_eq_some_iff.mp (clearStale_link hl)).1).trans (congrArg some hhand)

/-- The schedule of a panel whose link has gone down (R150). -/
def Schedule.downed (sc : Schedule) : Schedule := { sc with preload := none, waiting := [], flip := none, last := none }

/-- A stale page is refreshed by a link down and a link up, with the brightness behind it. -/
theorem drained_of_page {sc : Schedule} (hrun : v.loader.state = .running) (hp : l.pageStale = true)
    (hs : v.schedules[n]? = some sc) : v.drained n =
      ((((v.clearStale n).withSched n sc.downed).schedLinkUp n).handedAll n (l.levels (v.displayBrightness n))) := by
  have hdown : (v.clearStale n).schedLinkDown n = (v.clearStale n).withSched n sc.downed :=
    setSched_of_some (s := v.clearStale n) hs _
  have hlevel : ((((v.clearStale n).withSched n sc.downed).schedLinkUp n)).displayBrightness n = v.displayBrightness n := by
    rw [eq_of_forShow (schedLinkUp_forShow n ((v.clearStale n).withSched n sc.downed))]
    rfl
  rw [drained_of_stale hl hup rfl hq (.inl hp), if_pos hrun]
  simp only [hp, if_true, hdown, hlevel]
  unfold LinkRec.levels
  cases l.brightStale with
  | true => rfl
  | false =>
    show _ = State.handedAll _ n []
    unfold State.handedAll
    simp only [List.foldl_nil]
    rw [show (fun l : LinkRec => l) = id from rfl, List.modify_id]
    rfl

theorem refresh_page_dark {row : PanelRow} {sc : Schedule} (hrun : v.loader.state = .running) (hp : l.pageStale = true)
    (hr : v.row n = some row) (hs : v.schedules[n]? = some sc) (hd : v.isDark n = true) :
    (v.drained n).schedules = v.schedules.set n (v.settledSched n row sc).downed ∧
      (v.drained n).links[n]? = some
        ((l.levels (v.displayBrightness n)).foldl (fun l m => sending l m v.cycle.clock) l.drainedIdle) := by
  have hsched : ((v.clearStale n).withSched n sc.downed).schedules[n]? = some sc.downed :=
    withSched_schedule (s := v.clearStale n) hs _
  have hsettled : ((v.clearStale n).withSched n sc.downed).schedLinkUp n =
      (v.clearStale n).withSched n (v.settledSched n row sc).downed := by
    rw [schedLinkUp_of_dark (s := (v.clearStale n).withSched n sc.downed) hd,
      settlePaging_eq (s := (v.clearStale n).withSched n sc.downed) hr hsched]
    exact withSched_withSched n sc.downed _ (v.clearStale n)
  have hlink : ((v.clearStale n).withSched n (v.settledSched n row sc).downed).links[n]? = some l.drainedIdle :=
    clearStale_link hl
  rw [drained_of_page hl hup hq hrun hp hs, hsettled, handedAll_eq_set hlink]
  refine ⟨rfl, (List.getElem?_set_self (List.getElem?_eq_some_iff.mp hlink).1).trans (congrArg some ?_)⟩
  unfold LinkRec.levels
  cases l.brightStale with
  | true => exact hand_of_idle (l := l.drainedIdle) (m := .bright _) hup rfl hq rfl _
  | false => rfl

theorem refresh_page_lit {row : PanelRow} {sc : Schedule} (hrun : v.loader.state = .running) (hp : l.pageStale = true)
    (hr : v.row n = some row) (hs : v.schedules[n]? = some sc) (hd : v.isDark n = false) :
    (v.drained n).schedules = v.schedules.set n { (v.settledSched n row sc).downed with
        works := sc.works + 2, last := some (v.compose n sc.page (v.settledSched n row sc).index),
        flip := some (sc.works + 2) } ∧
      (v.drained n).links[n]? = some
        { sending l.drainedIdle (.load (v.compose n sc.page (v.settledSched n row sc).index) (sc.works + 1))
            v.cycle.clock with
          queue := .flip (sc.works + 2) false :: l.levels (v.displayBrightness n) } := by
  have hsched : ((v.clearStale n).withSched n sc.downed).schedules[n]? = some sc.downed :=
    withSched_schedule (s := v.clearStale n) hs _
  have hcompose : ((v.clearStale n).withSched n sc.downed).compose n sc.page (v.settledSched n row sc).index =
      v.compose n sc.page (v.settledSched n row sc).index :=
    compose_of_forQuiet (s := v) (t := (v.clearStale n).withSched n sc.downed) rfl
      (langInUse_of_lang (s := v) (t := (v.clearStale n).withSched n sc.downed) rfl hs hsched rfl) _ _
  have hlink : ((v.clearStale n).withSched n sc.downed).links[n]? = some l.drainedIdle := clearStale_link hl
  have hpage := hand_page_levels_of_idle (l := l.drainedIdle) hup rfl hq
    (v.compose n sc.page (v.settledSched n row sc).index) (sc.works + 1) (sc.works + 2) l (v.displayBrightness n)
    v.cycle.clock
  rw [drained_of_page hl hup hq hrun hp hs,
    schedLinkUp_of_lit (s := (v.clearStale n).withSched n sc.downed) hr hsched hd, handedAll_withSched, handedAll_append,
    handedAll_eq_set hlink]
  refine ⟨(List.set_set ..).trans ?_, ?_⟩
  · exact congrArg (fun content => v.schedules.set n { (v.settledSched n row sc).downed with
      works := sc.works + 2, last := some content, flip := some (sc.works + 2) }) hcompose
  · refine (List.getElem?_set_self (List.getElem?_eq_some_iff.mp hlink).1).trans (congrArg some (Eq.trans ?_ hpage))
    exact congrArg (fun content => List.foldl (fun (l : LinkRec) (m : LinkMsg) => l.hand m v.cycle.clock) l.drainedIdle
      ([.load content (sc.works + 1), .flip (sc.works + 2) false] ++ l.levels (v.displayBrightness n))) hcompose

/-- The refresh of a drained link, in the words of the statements. -/
theorem drained_refreshed : v.refreshed n l v.schedules (v.drained n) where
  served := refresh_served hl hup hq
  bright := refresh_bright hl hup hq
  page := fun _ _ hrun hp hr hs => ⟨refresh_page_dark hl hup hq hrun hp hr hs, refresh_page_lit hl hup hq hrun hp hr hs⟩

end refresh

end Sys2Proof.Machine
end

section
/-! PROOFS. A matching ACK (R152): the completion report, what the link does next, and the return of a probed link to UP;
the reprobe of a FAULTED one (10 sections 10.3 to 10.5). -/

namespace Sys2Proof.Machine

/-! ### The state once a transaction has ended -/

/-- The state in which a transaction has ended and the module state of its ACK has been looked at, with the links and the
schedules given. -/
def State.acked (s : State) (n : Nat) (moduleState : Byte) (links : List LinkRec) (schedules : List Schedule) : State :=
  { s.raiseIf (moduleState != 0) (.moduleFault n) with links := links, schedules := schedules }

theorem ackTaken_eq {s : State} {n : Nat} {l : LinkRec} {f : InFlight} (hl : s.links[n]? = some l)
    (hf : l.inFlight = some f) (moduleState : Byte) : s.ackTaken n f.tag moduleState =
      (((s.acked n moduleState (s.links.set n { l with inFlight := none }) s.schedules).messageDone n f.msg).sendNext
        n).drained n := by
  have hended : (s.setLink n (fun l => { l with inFlight := none })).raiseIf (moduleState != 0) (.moduleFault n) =
      s.acked n moduleState (s.links.set n { l with inFlight := none }) s.schedules := by
    rw [setLink_eq_set hl]
    unfold State.acked State.raiseIf
    cases moduleState != 0 <;> rfl
  simp only [State.ackTaken, matching_of_inFlight hl hf, hended]

/-- What the module state of an ACK raises is not in what the panels draw on. -/
theorem acked_compose {s : State} {n : Nat} {moduleState : Byte} {links : List LinkRec} {told : List Schedule}
    (hlang : (s.acked n moduleState links told).langInUse n = s.langInUse n) (page : Page) (index : Nat) :
    (s.acked n moduleState links told).compose n page index = s.compose n page index := by
  unfold State.acked State.raiseIf at hlang ⊢
  unfold State.compose State.composeFor State.basePage State.evacLines State.noticeOneLine
  simp only [hlang]
  cases moduleState != 0 <;> rfl

theorem acked_langInUse {s : State} {n : Nat} {moduleState : Byte} {links : List LinkRec} {told : List Schedule}
    {sc sc' : Schedule} (hs : s.schedules[n]? = some sc) (ht : told[n]? = some sc') (h : sc'.lang = sc.lang) :
    (s.acked n moduleState links told).langInUse n = s.langInUse n := by
  have hpin : (s.acked n moduleState links told).pin n = s.pin n := by
    unfold State.acked State.raiseIf
    cases moduleState != 0 <;> rfl
  have hsched : (s.acked n moduleState links told).schedules[n]? = some sc' := ht
  simp only [State.langInUse, State.schedule, hpin, hs, hsched, h]

section acked
variable (s : State) (n : Nat) (moduleState : Byte) (links : List LinkRec) (told : List Schedule)

theorem acked_loader : (s.acked n moduleState links told).loader = s.loader := by
  unfold State.acked State.raiseIf
  cases moduleState != 0 <;> rfl

theorem acked_cycle : (s.acked n moduleState links told).cycle = s.cycle := by
  unfold State.acked State.raiseIf
  cases moduleState != 0 <;> rfl

theorem acked_counters : (s.acked n moduleState links told).status.counters = s.status.counters := by
  unfold State.acked State.raiseIf
  cases moduleState != 0 <;> rfl

theorem acked_row (k : Nat) : (s.acked n moduleState links told).row k = s.row k := by
  unfold State.acked State.raiseIf
  cases moduleState != 0 <;> rfl

theorem acked_isDark : (s.acked n moduleState links told).isDark n = s.isDark n := by
  unfold State.acked State.raiseIf
  cases moduleState != 0 <;> rfl

theorem acked_displayBrightness : (s.acked n moduleState links told).displayBrightness n = s.displayBrightness n := by
  unfold State.acked State.raiseIf
  cases moduleState != 0 <;> rfl

theorem acked_settledSched (row : PanelRow) (sc : Schedule) :
    (s.acked n moduleState links told).settledSched n row sc = s.settledSched n row sc := by
  unfold State.acked State.raiseIf
  cases moduleState != 0 <;> rfl

theorem acked_running : (s.acked n moduleState links told).running = s.running := by
  unfold State.running
  rw [acked_loader]

/-- The item that a module state other than OK raises. -/
theorem acked_has (j : ExcItem) : (s.acked n moduleState links told).status.exceptions.has j =
    (s.status.exceptions.has j || (decide (j = .moduleFault n ∧ n < 8) && moduleState != 0)) := by
  unfold State.acked State.raiseIf
  cases moduleState != 0 with
  | false => simp
  | true =>
    refine Bool.eq_iff_iff.mpr ((Exceptions.has_add ..).trans ?_)
    simp [ExcItem.inRange]

end acked

/-- Refreshes read the same of the state after an ACK as of the state before it. -/
theorem refreshed_of_acked {s t : State} {n : Nat} {moduleState : Byte} {links : List LinkRec} {told : List Schedule}
    {l : LinkRec} (hlang : ∀ sc', told[n]? = some sc' → ∃ sc, s.schedules[n]? = some sc ∧ sc'.lang = sc.lang)
    (h : (s.acked n moduleState links told).refreshed n l told t) : s.refreshed n l told t where
  served := fun hrun hstale => by
    have hserved := h.served (by rwa [acked_loader]) hstale
    rwa [acked_cycle] at hserved
  bright := fun hrun hp hb => by
    have hbright := h.bright (by rwa [acked_loader]) hp hb
    rwa [acked_cycle, acked_displayBrightness] at hbright
  page := fun row sc' hrun hp hr ht => by
    obtain ⟨sc, hs, hsame⟩ := hlang sc' ht
    have hpage := h.page row sc' (by rwa [acked_loader]) hp (by rwa [acked_row]) ht
    dsimp only at hpage
    rw [acked_cycle, acked_displayBrightness, acked_isDark, acked_settledSched,
      acked_compose (acked_langInUse hs ht hsame)] at hpage
    exact hpage

/-! ### What stays as it is -/

theorem acked_forCount_kept {s t : State} {n : Nat} {moduleState : Byte} {links : List LinkRec} {told : List Schedule}
    (h : t.forCount = (s.acked n moduleState links told).forCount) :
    t.status.exceptions = (s.acked n moduleState links told).status.exceptions ∧
      t.cars = s.cars ∧ t.prompts = s.prompts ∧ t.mode = s.mode ∧ t.stops = s.stops ∧ t.cycle = s.cycle ∧
      t.loader = s.loader := by
  refine ⟨(congrArg (fun u => u.status.exceptions) h :), (congrArg State.cars h :).trans ?_,
    (congrArg State.prompts h :).trans ?_, (congrArg State.mode h :).trans ?_, (congrArg State.stops h :).trans ?_,
    (congrArg State.cycle h :).trans (acked_cycle s n moduleState links told), (congrArg State.loader h :).trans (acked_loader s n moduleState links told)⟩
  all_goals
    unfold State.acked State.raiseIf
    cases moduleState != 0 <;> rfl

/-- What a panel's link and schedule do leaves the record of every other link. -/
theorem otherLink_showAt {n k : Nat} (h : k ≠ n) (rec : Option LinkRec) : ShowAt n (fun t => t.links[k]? = rec) where
  sched := fun _ _ hs => hs
  hand := fun _ _ hs => by simpa [State.hand, List.getElem?_modify, h.symm] using hs
  cancel := fun _ _ hs => by simpa [State.cancelLoad, h.symm] using hs

theorem setLink_otherLink {n k : Nat} (h : k ≠ n) (f : LinkRec → LinkRec) (s : State) :
    (s.setLink n f).links[k]? = s.links[k]? := by
  simp [h.symm]

theorem linkRestored_otherLink {n k : Nat} (h : k ≠ n) (s : State) : (s.linkRestored n).links[k]? = s.links[k]? := by
  have C := otherLink_showAt h s.links[k]?
  unfold State.linkRestored
  dsimp only
  split
  · exact C.hand _ _ (schedLinkUp_at C _ (setLink_otherLink h _ s))
  · exact sendServicePage_at C _ (setLink_otherLink h _ s)

theorem messageDone_otherLink {n k : Nat} (h : k ≠ n) (m : LinkMsg) (s : State) :
    (s.messageDone n m).links[k]? = s.links[k]? := by
  have C := otherLink_showAt h s.links[k]?
  cases m with
  | probe => exact linkRestored_otherLink h s
  | load content work =>
    show (if s.running then s.loadComplete n work else s).links[k]? = _
    split
    · exact loadComplete_at C work s rfl
    · rfl
  | flip work late =>
    show (if s.running then s.flipComplete n work else s).links[k]? = _
    split
    · exact flipComplete_at C work s rfl
    · rfl
  | bright => rfl
  | test => rfl
  | chime => rfl

theorem sendNext_otherLink {n k : Nat} (h : k ≠ n) (s : State) : (s.sendNext n).links[k]? = s.links[k]? := by
  unfold State.sendNext
  repeat' split
  all_goals simp [h.symm]

theorem drained_otherLink {n k : Nat} (h : k ≠ n) (s : State) : (s.drained n).links[k]? = s.links[k]? := by
  have C := otherLink_showAt h s.links[k]?
  have hclear : (s.clearStale n).links[k]? = s.links[k]? := setLink_otherLink h _ s
  unfold State.drained
  dsimp only
  repeat' split
  · rfl
  · exact C.hand _ _ (schedLinkUp_at C _ (schedLinkDown_at C _ hclear))
  · exact C.hand _ _ hclear
  · exact schedLinkUp_at C _ (schedLinkDown_at C _ hclear)
  · exact hclear
  · exact sendServicePage_at C _ hclear
  · rfl

theorem ackTaken_otherLink {n k : Nat} (h : k ≠ n) (tag moduleState : Byte) (s : State) :
    (s.ackTaken n tag moduleState).links[k]? = s.links[k]? := by
  unfold State.ackTaken
  split
  · rfl
  · dsimp only
    rw [drained_otherLink h, sendNext_otherLink h, messageDone_otherLink h]
    refine Eq.trans ?_ (setLink_otherLink h (fun l => { l with inFlight := none }) s)
    unfold State.raiseIf
    split <;> rfl

/-! ### The link goes on (R152, R158, R161) -/

/-- What a link does at the end of a message that hands it nothing, the schedules after the completion report given. -/
structure GoesOn (s : State) (n : Nat) (l : LinkRec) (told : List Schedule) (t : State) : Prop where
  queued : ∀ m rest, l.queue = m :: rest →
    t.links[n]? = some { sending l m s.cycle.clock with queue := rest } ∧ t.schedules = told ∧
      t.status.counters.lateFlips =
        (if m.isLateFlip then counted s.status.counters.lateFlips 1 else s.status.counters.lateFlips)
  idle : l.queue = [] → l.pageStale = false → l.brightStale = false →
    t.links[n]? = some { l with inFlight := none } ∧ t.schedules = told ∧ t.status.counters = s.status.counters
  stale : l.queue = [] → s.refreshed n l told t

theorem goesOn_of_acked {s : State} {n : Nat} {l : LinkRec} {moduleState : Byte} {told : List Schedule}
    (hl : s.links[n]? = some l) (hup : l.state = .up)
    (hlang : ∀ sc', told[n]? = some sc' → ∃ sc, s.schedules[n]? = some sc ∧ sc'.lang = sc.lang) :
    GoesOn s n l told
      (((s.acked n moduleState (s.links.set n { l with inFlight := none }) told).sendNext n).drained n) := by
  have hset := List.getElem?_set_self (a := { l with inFlight := none }) (List.getElem?_eq_some_iff.mp hl).1
  have hidle : (s.acked n moduleState (s.links.set n { l with inFlight := none }) told).links[n]? =
      some { l with inFlight := none } := hset
  refine ⟨fun m rest hq => ?_, fun hq hp hb => ?_, fun hq => ?_⟩
  · have hcounters := acked_counters s n moduleState (s.links.set n { l with inFlight := none }) told
    rw [goesOn_of_queued hidle hup rfl hq]
    refine ⟨(List.getElem?_set_self (List.getElem?_eq_some_iff.mp hidle).1).trans ?_, ?_, ?_⟩
    · rw [acked_cycle]
      rfl
    · split <;> rfl
    · split
      · exact congrArg (fun c => counted c.lateFlips 1) hcounters
      · exact congrArg Counters.lateFlips hcounters
  · rw [sendNext_of_empty hidle hq, drained_of_fresh hidle hp hb]
    exact ⟨hidle, rfl, acked_counters ..⟩
  · rw [sendNext_of_empty hidle hq]
    exact refreshed_of_acked hlang (drained_refreshed hidle hup hq)

end Sys2Proof.Machine

open Sys2Proof Sys2Proof.Machine

/-- Settles O52: the completion report moves at most the panel's preload, and the link then goes on (`goesOn_of_acked`). -/
theorem ackSendsTheNextMessage : Obligations.AckSendsTheNextMessage := by
  unfold Obligations.AckSendsTheNextMessage
  intro s n l f moduleState hn hl hup hf hflip hprobe loaded told
  have hdone : (s.acked n moduleState (s.links.set n { l with inFlight := none }) s.schedules).messageDone n f.msg =
      s.acked n moduleState (s.links.set n { l with inFlight := none }) told := by
    have hrun := acked_running s n moduleState (s.links.set n { l with inFlight := none }) s.schedules
    cases hm : f.msg with
    | load content work =>
      have htold : told = if s.running = true then loaded work else s.schedules := by
        simp only [told, hm, State.running, decide_eq_true_eq]
      show (if State.running _ = true then State.loadComplete n work _ else _) = _
      rw [hrun, htold]
      split <;> rfl
    | flip => simp [hm, LinkMsg.isFlip] at hflip
    | probe => exact absurd hm (hprobe _ _)
    | bright => simp only [told, hm]; rfl
    | test => simp only [told, hm]; rfl
    | chime => simp only [told, hm]; rfl
  have hlang : ∀ sc', told[n]? = some sc' → ∃ sc, s.schedules[n]? = some sc ∧ sc'.lang = sc.lang := by
    have hkept : ∀ sc', s.schedules[n]? = some sc' → ∃ sc, s.schedules[n]? = some sc ∧ sc'.lang = sc.lang :=
      fun sc' h => ⟨sc', h, rfl⟩
    intro sc' ht
    cases hm : f.msg with
    | load content work =>
      simp only [told, hm] at ht
      split at ht
      · rw [List.getElem?_modify_eq] at ht
        obtain ⟨sc, hs, rfl⟩ := Option.map_eq_some_iff.mp ht
        exact ⟨sc, hs, rfl⟩
      · exact hkept sc' ht
    | flip => simp [hm, LinkMsg.isFlip] at hflip
    | probe => exact absurd hm (hprobe _ _)
    | bright => simp only [told, hm] at ht; exact hkept sc' ht
    | test => simp only [told, hm] at ht; exact hkept sc' ht
    | chime => simp only [told, hm] at ht; exact hkept sc' ht
  have hack := ackTaken_eq hl hf moduleState
  rw [hdone] at hack
  have hgoes := goesOn_of_acked (moduleState := moduleState) hl hup hlang
  rw [← hack] at hgoes
  have hframe : (s.ackTaken n f.tag moduleState).forCount =
      (s.acked n moduleState (s.links.set n { l with inFlight := none }) told).forCount := by
    rw [hack, forCount_of_forShow (drained_forShow n _), sendNext_forCount]
  obtain ⟨hexc, hkept⟩ := acked_forCount_kept hframe
  refine ⟨_, rfl, hgoes.queued, hgoes.idle, hgoes.stale, fun j => ?_, fun k hk => ackTaken_otherLink hk _ _ s, hkept⟩
  rw [hexc, acked_has]
  simp [hn]

end

section
/-! PROOFS. The ACK of a FLIP, of a PROBE, and the reprobe of a FAULTED link (R139, R154, R155). -/

namespace Sys2Proof.Machine

/-! ### Flip complete (R139, R150) -/

theorem messageDone_flip (n work : Nat) (late : Bool) (s : State) :
    s.messageDone n (.flip work late) = if s.running then s.flipComplete n work else s := rfl

section flip
variable {s : State} {n work : Nat} {sc : Schedule} (hs : s.schedules[n]? = some sc)
include hs

theorem flipComplete_of_other (h : sc.flip ≠ some work) : s.flipComplete n work = s := by
  simp only [State.flipComplete, State.schedule, hs, if_neg h]

theorem flipComplete_of_clear (h : sc.flip = some work)
    (hp : ∀ p, sc.preload = some p → p.state ≠ .waiting ∨ s.isDark n = true) :
    s.flipComplete n work = s.withSched n { sc with flip := none } := by
  have hclear := setSched_of_some hs (fun sc => { sc with flip := none })
  simp only [State.flipComplete, State.schedule, hs, if_pos h, hclear]
  cases hpre : sc.preload with
  | none => rfl
  | some p =>
    refine if_neg fun ⟨hw, hreach⟩ => ?_
    have hlit : s.isDark n = false := (reachable_iff.mp hreach).1
    exact (hp p hpre).elim (fun hnot => hnot hw) (fun hdark => by simp [hlit] at hdark)

theorem flipComplete_of_waiting (h : sc.flip = some work) {p : Preload} (hp : sc.preload = some p)
    (hw : p.state = .waiting) (hreach : s.isDark n = false ∧ s.linkUp n = true) : s.flipComplete n work =
      (s.handedAll n [.load (s.compose n p.page 0) (sc.works + 1)]).withSched n { sc with
        flip := none, works := sc.works + 1,
        preload := some { p with content := some (s.compose n p.page 0), state := .loading, load := sc.works + 1 } } := by
  have hclear := setSched_of_some hs (fun sc => { sc with flip := none })
  have hreachable : (s.withSched n { sc with flip := none }).reachable n = true := reachable_iff.mpr hreach
  have hcompose : (s.withSched n { sc with flip := none }).compose n p.page 0 = s.compose n p.page 0 :=
    compose_withSched (sc' := { sc with flip := none }) hs rfl _ _
  have hhanded : s.flipComplete n work = (s.withSched n { sc with flip := none }).handPreload n p := by
    unfold State.flipComplete State.schedule
    rw [hs]
    dsimp only
    rw [if_pos h, hclear]
    split
    · rename_i p' hp'
      obtain rfl : p = p' := Option.some.inj (hp.symm.trans hp')
      exact if_pos ⟨hw, hreachable⟩
    · rename_i hnone
      exact absurd (hp.symm.trans hnone) (by simp)
  rw [hhanded, handPreload_eq (withSched_schedule hs _), hcompose]
  exact withSched_withSched n _ _ (s.handedAll n _)

end flip

/-! ### A LOAD handed to a link that has just landed -/

theorem makeRoom_kept (l : LinkRec) (m : LinkMsg) :
    (l.makeRoom m).1.state = l.state ∧ (l.makeRoom m).1.inFlight = l.inFlight := by
  unfold LinkRec.makeRoom
  repeat' split
  all_goals exact ⟨rfl, rfl⟩

/-- What is not a FLIP goes unplaced only where nothing is removed. -/
theorem makeRoom_of_unplaced {l : LinkRec} {m : LinkMsg} (hm : m.isFlip = false) (h : (l.makeRoom m).2 = false) :
    (l.makeRoom m).1 = l := by
  unfold LinkRec.makeRoom at h ⊢
  repeat' split
  all_goals simp_all

theorem append_eq (l : LinkRec) (m : LinkMsg) : l.append m =
    if (l.makeRoom m).2 then { (l.makeRoom m).1 with queue := (l.makeRoom m).1.queue ++ [m] } else (l.makeRoom m).1 := rfl

theorem append_kept (l : LinkRec) (m : LinkMsg) :
    (l.append m).state = l.state ∧ (l.append m).inFlight = l.inFlight := by
  rw [append_eq]
  split
  · exact makeRoom_kept l m
  · exact makeRoom_kept l m

theorem append_ne_nil {l : LinkRec} {m : LinkMsg} (hm : m.isFlip = false) (hq : l.queue ≠ []) :
    (l.append m).queue ≠ [] := by
  rw [append_eq]
  split
  · simp
  · rename_i h
    rwa [makeRoom_of_unplaced hm (Bool.eq_false_iff.mpr h)]

theorem place_load_kept (l : LinkRec) (content : Content) (work : Nat) :
    (l.place (.load content work)).state = l.state ∧ (l.place (.load content work)).inFlight = l.inFlight := by
  cases h : l.queue.any LinkMsg.isLoad with
  | true =>
    rw [place_load_of_queued h]
    exact ⟨rfl, rfl⟩
  | false =>
    rw [place_load_of_none h]
    exact append_kept l _

theorem place_load_ne_nil {l : LinkRec} (hq : l.queue ≠ []) (content : Content) (work : Nat) :
    (l.place (.load content work)).queue ≠ [] := by
  cases h : l.queue.any LinkMsg.isLoad with
  | true =>
    rw [place_load_of_queued h]
    exact mt List.map_eq_nil_iff.mp hq
  | false =>
    rw [place_load_of_none h]
    exact append_ne_nil rfl hq

/-! ### A link that is UP again (R150, R155) -/

theorem lastContent_of_schedule {s : State} {n : Nat} {sc : Schedule} (hs : s.schedules[n]? = some sc) :
    s.lastContent n = sc.last := by
  simp only [State.lastContent, State.schedule, hs]

theorem acked_clock (s : State) (n : Nat) (moduleState : Byte) (links : List LinkRec) (told : List Schedule) :
    (s.acked n moduleState links told).cycle.clock = s.cycle.clock := by
  rw [acked_cycle]

/-- The record of a link that has become UP again. -/
def LinkRec.restored (l : LinkRec) : LinkRec :=
  { l with state := .up, inFlight := none, queue := [], pageStale := false, brightStale := false, reprobe := none }

section restored
variable {s : State} {n : Nat} {l : LinkRec} (hl : s.links[n]? = some l) (moduleState : Byte)
include hl

theorem restored_link :
    (s.acked n moduleState (s.links.set n l.restored) s.schedules).links[n]? = some l.restored :=
  List.getElem?_set_self (List.getElem?_eq_some_iff.mp hl).1

theorem linkRestored_eq :
    (s.acked n moduleState (s.links.set n { l with inFlight := none }) s.schedules).linkRestored n =
      let u := s.acked n moduleState (s.links.set n l.restored) s.schedules
      if s.running then (u.schedLinkUp n).hand n (.bright ((u.schedLinkUp n).displayBrightness n))
      else u.sendServicePage n := by
  have hidle : (s.acked n moduleState (s.links.set n { l with inFlight := none }) s.schedules).links[n]? =
      some { l with inFlight := none } := List.getElem?_set_self (List.getElem?_eq_some_iff.mp hl).1
  have hup := setLink_eq_set hidle (fun l =>
    { l with state := .up, queue := [], pageStale := false, brightStale := false, reprobe := none })
  have hset : State.setLink n (fun l : LinkRec =>
      { l with state := .up, queue := [], pageStale := false, brightStale := false, reprobe := none })
      (s.acked n moduleState (s.links.set n { l with inFlight := none }) s.schedules) =
        s.acked n moduleState (s.links.set n l.restored) s.schedules := by
    refine hup.trans ?_
    exact congrArg (fun links => s.acked n moduleState links s.schedules) (List.set_set ..)
  unfold State.linkRestored
  dsimp only
  rw [hset, acked_running]

/-- The ACK of a PROBE: the messages that restore the module leave nothing to send or to refresh. -/
theorem linkRestored_served (h : s.running = false) :
    (s.acked n moduleState (s.links.set n { l with inFlight := none }) s.schedules).linkRestored n =
      s.acked n moduleState (s.links.set n
        { sending l.restored (.load [List.replicate 8 0x2D#8] 0) s.cycle.clock with
          queue := [.flip 0 false, .bright 8] }) s.schedules := by
  rw [linkRestored_eq hl, h]
  dsimp only
  rw [if_neg (by decide), sendServicePage_eq, handedAll_eq_set (restored_link hl moduleState),
    acked_clock, hand_page_bright_of_idle (l := l.restored) rfl rfl rfl]
  exact congrArg (fun links => s.acked n moduleState links s.schedules) (List.set_set ..)

theorem linkRestored_lit {row : PanelRow} {sc : Schedule} (h : s.running = true) (hr : s.row n = some row)
    (hs : s.schedules[n]? = some sc) (hd : s.isDark n = false) :
    let t := (s.acked n moduleState (s.links.set n { l with inFlight := none }) s.schedules).linkRestored n
    t.lastContent n = some (s.settledContent n) ∧ t.links = s.links.set n
      { sending l.restored (.load (s.settledContent n) (sc.works + 1)) s.cycle.clock with
        queue := [.flip (sc.works + 2) false, .bright (s.displayBrightness n)] } := by
  intro t
  have hu := restored_link hl moduleState
  have hcontent := settledContent_eq hr hs
  have ht : t = ((s.acked n moduleState (s.links.set n l.restored) s.schedules).handedAll n
      [.load (s.settledContent n) (sc.works + 1), .flip (sc.works + 2) false, .bright (s.displayBrightness n)]).withSched n
        { s.settledSched n row sc with
          works := sc.works + 2, last := some (s.settledContent n), flip := some (sc.works + 2),
          preload := sc.preload.map Preload.displaced } := by
    have hbright : ((s.acked n moduleState (s.links.set n l.restored) s.schedules).schedLinkUp n).displayBrightness n =
        s.displayBrightness n := by
      rw [eq_of_forShow (schedLinkUp_forShow n _)]
      exact acked_displayBrightness ..
    have hlinkUp := schedLinkUp_of_lit (s := s.acked n moduleState (s.links.set n l.restored) s.schedules)
      (by rw [acked_row]; exact hr) hs (by rw [acked_isDark]; exact hd)
    rw [acked_settledSched, acked_compose (acked_langInUse hs hs rfl), ← hcontent] at hlinkUp
    show State.linkRestored n _ = _
    rw [linkRestored_eq hl, h]
    dsimp only
    rw [if_pos rfl, hbright, hlinkUp, hand_eq_handedAll, handedAll_withSched, handedAll_append]
    rfl
  rw [ht]
  refine ⟨?_, ?_⟩
  · exact lastContent_of_schedule (withSched_schedule
      (s := (s.acked n moduleState (s.links.set n l.restored) s.schedules).handedAll n _) hs _)
  · rw [handedAll_eq_set hu, hand_page_bright_of_idle (l := l.restored) rfl rfl rfl, acked_clock]
    exact List.set_set ..

theorem linkRestored_dark (h : s.running = true) (hd : s.isDark n = true) :
    ((s.acked n moduleState (s.links.set n { l with inFlight := none }) s.schedules).linkRestored n).links =
      s.links.set n (sending l.restored (.bright (s.displayBrightness n)) s.cycle.clock) := by
  have hlinkUp := schedLinkUp_of_dark (s := s.acked n moduleState (s.links.set n l.restored) s.schedules) (n := n)
    (by rw [acked_isDark]; exact hd)
  have hsettle := eq_of_forShow (settlePaging_forShow n (s.acked n moduleState (s.links.set n l.restored) s.schedules))
  have hlinks := settlePaging_links n (s.acked n moduleState (s.links.set n l.restored) s.schedules)
  have hclock : ((s.acked n moduleState (s.links.set n l.restored) s.schedules).settlePaging n).cycle.clock =
      s.cycle.clock := by
    rw [hsettle]
    exact acked_clock ..
  have hbright : ((s.acked n moduleState (s.links.set n l.restored) s.schedules).settlePaging n).displayBrightness n =
      s.displayBrightness n := by
    rw [hsettle]
    exact acked_displayBrightness ..
  rw [linkRestored_eq hl, h]
  dsimp only
  rw [if_pos rfl, hlinkUp, hbright, hand_eq_handedAll,
    handedAll_eq_set ((congrArg (·[n]?) hlinks).trans (restored_link hl moduleState)), hclock, hlinks]
  have hhand : l.restored.hand (.bright (s.displayBrightness n)) s.cycle.clock =
      sending l.restored (.bright (s.displayBrightness n)) s.cycle.clock := hand_of_idle (l := l.restored) rfl rfl rfl rfl _
  show (s.links.set n l.restored).set n (l.restored.hand (.bright (s.displayBrightness n)) s.cycle.clock) = _
  rw [hhand, List.set_set]

end restored

end Sys2Proof.Machine

open Sys2Proof Sys2Proof.Machine

/-- Settles O53: the completion clears the flip outstanding, and the link goes on (`goesOn_of_acked`) unless a WAITING preload
is handed, whose LOAD the link then sends or holds behind the message it sends. -/
theorem ackOfAFlipFreesTheModule : Obligations.AckOfAFlipFreesTheModule := by
  unfold Obligations.AckOfAFlipFreesTheModule
  intro s n l f work late moduleState hn hl hup hf hm idle goesOn
  have hack := ackTaken_eq hl hf moduleState
  rw [hm, messageDone_flip, acked_running] at hack
  have hgoesOn {t : State} {told : List Schedule} (h : GoesOn s n l told t) : goesOn t told :=
    ⟨h.queued, h.idle, h.stale⟩
  have hframe : (s.ackTaken n f.tag moduleState).forCount =
      (s.acked n moduleState (s.links.set n { l with inFlight := none }) s.schedules).forCount := by
    rw [ackTaken_eq hl hf, forCount_of_forShow (drained_forShow n _), sendNext_forCount,
      forCount_of_forShow (messageDone_forShow n f.msg _)]
  obtain ⟨hexc, hkept⟩ := acked_forCount_kept hframe
  have hidle : (s.acked n moduleState (s.links.set n idle) s.schedules).links[n]? = some idle :=
    List.getElem?_set_self (List.getElem?_eq_some_iff.mp hl).1
  have hsame : ∀ sc', s.schedules[n]? = some sc' → ∃ sc, s.schedules[n]? = some sc ∧ sc'.lang = sc.lang :=
    fun sc' h => ⟨sc', h, rfl⟩
  have hsched {sc : Schedule} (h : s.schedules[n]? = some sc) :
      (s.acked n moduleState (s.links.set n idle) s.schedules).schedules[n]? = some sc := h
  refine ⟨_, rfl, fun hrun => ?_, fun sc hrun hs => ⟨fun hother => ?_, fun hflip hpre => ?_, fun p hflip hp hw hd => ?_⟩,
    fun j => ?_, fun k hk => ackTaken_otherLink hk _ _ s, hkept⟩
  · rw [if_neg (by simpa [State.running] using hrun)] at hack
    rw [hack]
    exact hgoesOn (goesOn_of_acked hl hup hsame)
  · rw [if_pos (running_of hrun), flipComplete_of_other (hsched hs) hother] at hack
    rw [hack]
    exact hgoesOn (goesOn_of_acked hl hup hsame)
  · rw [if_pos (running_of hrun), flipComplete_of_clear (hsched hs) hflip (by rwa [acked_isDark])] at hack
    rw [hack]
    refine hgoesOn (goesOn_of_acked (told := s.schedules.set n { sc with flip := none }) hl hup fun sc' h => ?_)
    rw [List.getElem?_set_self (List.getElem?_eq_some_iff.mp hs).1] at h
    obtain rfl := Option.some.inj h
    exact ⟨sc, hs, rfl⟩
  · intro content given
    have hreach : (s.acked n moduleState (s.links.set n idle) s.schedules).isDark n = false ∧
        (s.acked n moduleState (s.links.set n idle) s.schedules).linkUp n = true :=
      ⟨by rwa [acked_isDark], (linkUp_iff hidle).mpr hup⟩
    rw [if_pos (running_of hrun), flipComplete_of_waiting (hsched hs) hflip hp hw hreach,
      acked_compose (acked_langInUse hs hs rfl), handedAll_eq_set hidle, acked_clock] at hack
    obtain ⟨v, ht, hlink, hsched, hclock⟩ : ∃ v : State, s.ackTaken n f.tag moduleState = (v.sendNext n).drained n ∧
        v.links[n]? = some given ∧ v.schedules = s.schedules.set n { sc with
          flip := none, works := sc.works + 1,
          preload := some { p with content := some content, state := .loading, load := sc.works + 1 } } ∧
        v.cycle.clock = s.cycle.clock :=
      ⟨_, hack, List.getElem?_set_self (List.getElem?_eq_some_iff.mp hidle).1, rfl, acked_clock ..⟩
    rw [ht]
    by_cases hq : l.queue = []
    · have hsent : given = sending idle (.load content (sc.works + 1)) s.cycle.clock :=
        hand_of_idle (l := idle) hup rfl hq rfl _
      rw [goesOn_of_inFlight hlink (by rw [hsent]; rfl)]
      exact ⟨hsched, fun _ => hlink.trans (congrArg some hsent), fun _ _ hne => absurd hq hne⟩
    · have hplaced : given = idle.place (.load content (sc.works + 1)) :=
        (hand_of_not_flip (l := idle) hup rfl _).trans (if_neg fun h => hq h.2)
      obtain ⟨hstate, hfree⟩ := place_load_kept idle content (sc.works + 1)
      obtain ⟨m, rest, hmore⟩ := List.exists_cons_of_ne_nil (place_load_ne_nil (l := idle) hq content (sc.works + 1))
      rw [← hplaced] at hstate hfree hmore
      have hnext := goesOn_of_queued hlink (hstate.trans hup) hfree hmore
      rw [hclock] at hnext
      rw [hnext]
      refine ⟨Eq.trans ?_ hsched, fun hempty => absurd hempty hq, fun m' rest' _ hmore' => ?_⟩
      · split <;> rfl
      · obtain ⟨rfl, rfl⟩ := List.cons.inj (hmore.symm.trans hmore')
        exact List.getElem?_set_self (List.getElem?_eq_some_iff.mp hlink).1
  · rw [hexc, acked_has]
    simp [hn]

/-- Settles O54: the messages that restore a module leave its link with a message in flight, which ends the command. -/
theorem probesRestoreTheModule : Obligations.ProbesRestoreTheModule := by
  unfold Obligations.ProbesRestoreTheModule
  refine ⟨fun s n width lines l f hl _ hf hm moduleState => ?_, fun s n l e hl hstate he hreached => ?_⟩
  · intro up told
    have htold (links : List LinkRec) : s.acked n moduleState links s.schedules = { told with links := links } := by
      unfold State.acked State.raiseIf
      by_cases hz : moduleState = 0
      · simp only [told, hz, if_true]
        rfl
      · simp only [told, if_neg hz, bne_iff_ne.mpr hz, if_true]
        rfl
    have hframe : (s.ackTaken n f.tag moduleState).forCount =
        (s.acked n moduleState (s.links.set n { l with inFlight := none }) s.schedules).forCount := by
      rw [ackTaken_eq hl hf, forCount_of_forShow (drained_forShow n _), sendNext_forCount,
        forCount_of_forShow (messageDone_forShow n f.msg _)]
    have hack : s.ackTaken n f.tag moduleState =
        (((s.acked n moduleState (s.links.set n { l with inFlight := none }) s.schedules).linkRestored n).sendNext
          n).drained n := by
      rw [ackTaken_eq hl hf, hm]
      rfl
    have hshow : ((s.acked n moduleState (s.links.set n { l with inFlight := none }) s.schedules).linkRestored n).forShow =
        told.forShow := by
      rw [linkRestored_forShow, htold]
      rfl
    have hn : n < s.links.length := (List.getElem?_eq_some_iff.mp hl).1
    refine ⟨_, rfl, fun j => ?_, fun hfault => ?_, fun row sc hrun hr hs hd => ?_, fun row hrun _ hd => ?_⟩
    · rw [(acked_forCount_kept hframe).1, acked_has]
    · rw [hack, linkRestored_served hl moduleState (by simp [State.running, hfault]),
        goesOn_of_inFlight (List.getElem?_set_self hn) rfl]
      exact htold _
    · obtain ⟨hlast, hlinks⟩ := linkRestored_lit hl moduleState (running_of hrun) hr hs hd
      rw [hack, goesOn_of_inFlight ((congrArg (·[n]?) hlinks).trans (List.getElem?_set_self hn)) rfl]
      exact ⟨eq_of_forShow hshow, hlast, hlinks⟩
    · have hlinks := linkRestored_dark hl moduleState (running_of hrun) hd
      have hzero : s.displayBrightness n = 0 := by
        have hquiet : s.quietOf n = .dark := beq_iff_eq.mp hd
        unfold State.displayBrightness
        rw [hquiet]
        split <;> rfl
      rw [hzero] at hlinks
      rw [hack, goesOn_of_inFlight ((congrArg (·[n]?) hlinks).trans (List.getElem?_set_self hn)) rfl]
      exact ⟨eq_of_forShow hshow, hlinks⟩
  · have hdue : s.reprobeDue n = true := reprobeDue_iff.mpr ⟨l, e, hl, hstate, he, (reached_iff ..).mp hreached⟩
    have hreprobe : s.reprobe n = { s with
        links := s.links.set n { sending l (s.probeMsg n) s.cycle.clock with reprobe := some (e + 5000) } } := by
      refine (setLink_eq_set hl _).trans (congrArg (fun k => { s with links := s.links.set n k }) ?_)
      dsimp only
      rw [he]
      rfl
    have hexec : exec (.reprobeExpiry n) s = .next (s.reprobe n) := congrArg Host.Outcome.next (if_pos hdue)
    rw [hexec, hreprobe]
    refine ⟨fun row hr => ?_, fun hr => ?_⟩
    · have hprobe : s.probeMsg n = .probe row.width row.lines := by simp only [State.probeMsg, hr]
      rw [hprobe]
    · have hprobe : s.probeMsg n = .probe 8 1 := by simp only [State.probeMsg, hr]
      rw [hprobe]

end

section
/-! PROOFS. Panels whose prompt lists changed (R105, R113, R114): what one report moves, and what the reports of several
panels leave in pool, load levels, transmit queue and status. -/

namespace Sys2Proof.Machine

/-! ### A request reads and moves the bus station and the status unit only (R7) -/

theorem request_congr {v w : State} (hl : v.loader = w.loader) (hb : v.bus = w.bus) (hs : v.status = w.status)
    (p : TxPayload) : (v.request p).2.bus = (w.request p).2.bus ∧ (v.request p).2.status = (w.request p).2.status := by
  cases v
  cases w
  subst hl hb hs
  unfold State.request
  dsimp only
  repeat' split
  all_goals exact ⟨rfl, rfl⟩

theorem request_loader (p : TxPayload) (s : State) : (s.request p).2.loader = s.loader := by
  unfold State.request
  repeat' split
  all_goals rfl

/-! ### One report (R105) -/

theorem levels_set_levelOf (s : State) (n : Nat) : s.prompts.levels.set n (s.levelOf n) = s.prompts.levels := by
  unfold State.levelOf
  cases h : s.prompts.levels[n]? with
  | none => exact List.set_eq_of_length_le (List.getElem?_eq_none_iff.mp h)
  | some level =>
    obtain ⟨hn, rfl⟩ := List.getElem?_eq_some_iff.mp h
    exact List.set_getElem_self hn

/-- A load level is computed anew, and a change of it is requested. -/
theorem relevel_eq_levelFor (n : Nat) (s : State) : s.relevel n =
    if s.levelFor s.prompts.pool n = s.levelOf n then s
    else (({ s with prompts := { s.prompts with
      levels := s.prompts.levels.set n (s.levelFor s.prompts.pool n) } }).request
        (.panelLoad n (s.levelFor s.prompts.pool n) (onPanel n s.prompts.pool).length)).2 := by
  cases hr : s.row n with
  | none =>
    have hkept : s.levelFor s.prompts.pool n = s.levelOf n := by simp only [State.levelFor, hr]
    rw [if_pos hkept]
    simp only [State.relevel, hr]
  | some row =>
    have hlevel : s.levelFor s.prompts.pool n = loadLevel (onPanel n s.prompts.pool).length row.warn (s.levelOf n) := by
      simp only [State.levelFor, hr]
    rw [relevel_eq hr, hlevel]

theorem levelFor_of_kept {s t : State} {n : Nat} (hl : t.loader = s.loader) (hlevel : t.levelOf n = s.levelOf n)
    (pool : List Prompt) : t.levelFor pool n = s.levelFor pool n := by
  have hrow : t.row n = s.row n := by simp only [State.row, hl]
  simp only [State.levelFor, hrow, hlevel]

theorem relevel_prompts (n : Nat) (s : State) : (s.relevel n).prompts =
    { s.prompts with levels := s.prompts.levels.set n (s.levelFor s.prompts.pool n) } := by
  rw [relevel_eq_levelFor]
  split
  · rename_i h
    rw [h, levels_set_levelOf]
  · rw [request_prompts]

theorem relevel_mode (n : Nat) (s : State) : (s.relevel n).mode = s.mode := by
  rw [relevel_eq_levelFor]
  split
  · rfl
  · rw [request_mode]

theorem relevel_loader (n : Nat) (s : State) : (s.relevel n).loader = s.loader := by
  rw [relevel_eq_levelFor]
  split
  · rfl
  · rw [request_loader]

/-- One PANEL LOAD request of `levelRequests`, with the level it brings given. -/
def State.levelRequest (s : State) (n : Nat) (level before : LoadLevel) (length : Nat) : State :=
  if level = before then s else (s.request (.panelLoad n level length)).2

theorem levelRequest_congr {v w : State} (hl : v.loader = w.loader) (hb : v.bus = w.bus) (hs : v.status = w.status)
    (n : Nat) (level before : LoadLevel) (length : Nat) :
    (v.levelRequest n level before length).bus = (w.levelRequest n level before length).bus ∧
      (v.levelRequest n level before length).status = (w.levelRequest n level before length).status := by
  unfold State.levelRequest
  split
  · exact ⟨hb, hs⟩
  · exact request_congr hl hb hs _

theorem levelRequest_loader (s : State) (n : Nat) (level before : LoadLevel) (length : Nat) :
    (s.levelRequest n level before length).loader = s.loader := by
  unfold State.levelRequest
  split
  · rfl
  · exact request_loader _ s

theorem relevel_request (n : Nat) (s : State) :
    (s.relevel n).bus = (s.levelRequest n (s.levelFor s.prompts.pool n) (s.levelOf n)
      (onPanel n s.prompts.pool).length).bus ∧
    (s.relevel n).status = (s.levelRequest n (s.levelFor s.prompts.pool n) (s.levelOf n)
      (onPanel n s.prompts.pool).length).status := by
  rw [relevel_eq_levelFor]
  unfold State.levelRequest
  split
  · exact ⟨rfl, rfl⟩
  · apply request_congr <;> rfl

/-- Wake and content change of a report, before its load level. -/
def State.reportShown (placed : Option Nat) (n : Nat) (s : State) : State :=
  (if placed = some n then s.wake n else s).contentChange n

theorem reportList_eq (placed : Option Nat) (n : Nat) (s : State) :
    s.reportList placed n = (s.reportShown placed n).relevel n := rfl

theorem reportShown_forQuiet (placed : Option Nat) (n : Nat) (s : State) :
    (s.reportShown placed n).forQuiet = s.forQuiet := by
  unfold State.reportShown
  rw [contentChange_forQuiet]
  split
  · exact wake_forQuiet n s
  · rfl

theorem reportShown_quiet (placed : Option Nat) (n : Nat) (s : State) :
    (s.reportShown placed n).mode = (if placed = some n then s.wake n else s).mode :=
  (congrArg State.mode (contentChange_forShow n (if placed = some n then s.wake n else s)) :)

section report
variable (placed : Option Nat) (n : Nat) (s : State)

theorem reportList_prompts : (s.reportList placed n).prompts =
    { s.prompts with levels := s.prompts.levels.set n (s.levelFor s.prompts.pool n) } := by
  rw [reportList_eq, relevel_prompts, eq_of_forQuiet (reportShown_forQuiet placed n s)]
  rfl

theorem reportList_loader : (s.reportList placed n).loader = s.loader := by
  rw [reportList_eq, relevel_loader]
  exact (congrArg State.loader (reportShown_forQuiet placed n s) :)

theorem reportList_mode : (s.reportList placed n).mode = (if placed = some n then s.wake n else s).mode := by
  rw [reportList_eq, relevel_mode, reportShown_quiet]

theorem reportList_request :
    (s.reportList placed n).bus = (s.levelRequest n (s.levelFor s.prompts.pool n) (s.levelOf n)
      (onPanel n s.prompts.pool).length).bus ∧
    (s.reportList placed n).status = (s.levelRequest n (s.levelFor s.prompts.pool n) (s.levelOf n)
      (onPanel n s.prompts.pool).length).status := by
  obtain ⟨hbus, hstatus⟩ := relevel_request n (s.reportShown placed n)
  have hquiet := reportShown_forQuiet placed n s
  have hloader : (s.reportShown placed n).loader = s.loader := (congrArg State.loader hquiet :)
  have hprompts : (s.reportShown placed n).prompts = s.prompts := (congrArg State.prompts hquiet :)
  have hlevel : (s.reportShown placed n).levelOf n = s.levelOf n := by simp only [State.levelOf, hprompts]
  rw [reportList_eq, hbus, hstatus, hprompts, hlevel, levelFor_of_kept hloader hlevel]
  exact levelRequest_congr hloader (congrArg State.bus hquiet :) (congrArg (fun u => u.status) hquiet :) ..

end report

/-! ### The reports of several panels (R105, R113, R114) -/

/-- Reports of several panels, in order. -/
def State.reportAll (placed : Option Nat) (panels : List Nat) (s : State) : State :=
  forEach panels (fun n s => s.reportList placed n) s

theorem reportLists_eq (placed : Option Nat) (changed : Nat → Bool) (s : State) :
    s.reportLists placed changed = s.reportAll placed (s.panelIds.filter changed) := rfl

theorem reportAll_forPrompts (placed : Option Nat) (panels : List Nat) (s : State) :
    (s.reportAll placed panels).forPrompts = s.forPrompts :=
  forEach_keeps _ _ (reportList_forPrompts placed) panels s

theorem reportAll_pool (placed : Option Nat) (panels : List Nat) (s : State) :
    (s.reportAll placed panels).prompts.pool = s.prompts.pool :=
  forEach_keeps (fun t => t.prompts.pool) _ (fun n s => by rw [reportList_prompts])
    panels s

theorem reportAll_mode (panels : List Nat) (s : State) : (s.reportAll none panels).mode = s.mode :=
  forEach_keeps State.mode _ (fun n s => reportList_mode none n s) panels s

theorem levelOf_set_ne {s : State} {n m : Nat} (h : n ≠ m) {t : State} {level : LoadLevel}
    (ht : t.prompts.levels = s.prompts.levels.set n level) : t.levelOf m = s.levelOf m := by
  simp only [State.levelOf, ht, List.getElem?_set_ne h]

/-- Reports of distinct panels set each one's level and make its request, whatever is reported between them. -/
theorem reportAll_levels (placed : Option Nat) {s : State} {pool : List Prompt} : ∀ {panels : List Nat} {v w : State},
    panels.Nodup → v.prompts.pool = pool → v.loader = s.loader → (∀ n ∈ panels, v.levelOf n = s.levelOf n) →
    w.loader = s.loader → v.bus = w.bus → v.status = w.status →
    (v.reportAll placed panels).prompts.levels =
        panels.foldl (fun levels n => levels.set n (s.levelFor pool n)) v.prompts.levels ∧
      (v.reportAll placed panels).bus = (forEach panels (fun n u =>
        u.levelRequest n (s.levelFor pool n) (s.levelOf n) (onPanel n pool).length) w).bus ∧
      (v.reportAll placed panels).status = (forEach panels (fun n u =>
        u.levelRequest n (s.levelFor pool n) (s.levelOf n) (onPanel n pool).length) w).status
  | [], _, _, _, _, _, _, _, hb, hst => ⟨rfl, hb, hst⟩
  | n :: panels, v, w, hnodup, hpool, hloader, hlevels, hw, hb, hst => by
    obtain ⟨hn, hrest⟩ := List.nodup_cons.mp hnodup
    have hlevel : v.levelOf n = s.levelOf n := hlevels n List.mem_cons_self
    have hfor : v.levelFor v.prompts.pool n = s.levelFor pool n := by rw [hpool, levelFor_of_kept hloader hlevel]
    have hprompts := reportList_prompts placed n v
    obtain ⟨hbus, hstatus⟩ := reportList_request placed n v
    rw [hfor] at hprompts hbus hstatus
    rw [hlevel, hpool] at hbus hstatus
    obtain ⟨hbus', hstatus'⟩ := levelRequest_congr (hloader.trans hw.symm) hb hst n (s.levelFor pool n) (s.levelOf n)
      (onPanel n pool).length
    have hset : (v.reportList placed n).prompts.levels = v.prompts.levels.set n (s.levelFor pool n) :=
      congrArg PromptUnit.levels hprompts
    obtain ⟨hl, hb', hs'⟩ := reportAll_levels placed (s := s) (pool := pool) (v := v.reportList placed n)
      (w := w.levelRequest n (s.levelFor pool n) (s.levelOf n) (onPanel n pool).length) hrest
      ((congrArg PromptUnit.pool hprompts).trans hpool) ((reportList_loader placed n v).trans hloader)
      (fun m hm => (levelOf_set_ne (fun e => hn (by rw [e]; exact hm)) hset).trans (hlevels m (List.mem_cons_of_mem n hm)))
      ((levelRequest_loader ..).trans hw) (hbus.trans hbus') (hstatus.trans hstatus')
    refine ⟨hl.trans ?_, hb', hs'⟩
    rw [hset]
    rfl

theorem levelRequests_eq (s : State) (pool : List Prompt) (changed : List Nat) :
    s.levelRequests pool changed = forEach changed (fun n u =>
      u.levelRequest n (s.levelFor pool n) (s.levelOf n) (onPanel n pool).length) s := rfl

theorem foldl_set_getElem? {α : Type} (f : Nat → α) {l : List Nat} (levels : List α) {k : Nat} {x : α}
    (hk : levels[k]? = some x) :
    (l.foldl (fun levels n => levels.set n (f n)) levels)[k]? = some (if k ∈ l then f k else x) := by
  induction l generalizing levels x with
  | nil => simpa using hk
  | cons n l ih =>
    have hlt := (List.getElem?_eq_some_iff.mp hk).1
    rw [List.foldl_cons]
    by_cases h : n = k
    · subst h
      rw [ih _ (List.getElem?_set_self hlt)]
      simp
    · rw [ih _ ((List.getElem?_set_ne h).trans hk)]
      simp [Ne.symm h]

theorem foldl_set_length {α : Type} (f : Nat → α) (l : List Nat) (levels : List α) :
    (l.foldl (fun levels n => levels.set n (f n)) levels).length = levels.length := by
  induction l generalizing levels with
  | nil => rfl
  | cons n l ih => rw [List.foldl_cons, ih, List.length_set]

/-- The reports of distinct panels after a pool has been set: levels, transmit queue and status, as R113 and R114 say. -/
theorem reported_of_setPool {s u : State} (placed : Option Nat) (pool : List Prompt) {panels : List Nat}
    (hnodup : panels.Nodup) (hl : u.loader = s.loader) (hp : u.prompts = s.prompts) :
    let t := ({ u with prompts := { u.prompts with pool := pool } } : State).reportAll placed panels
    t.prompts.pool = pool ∧ s.levelsAfter pool panels t.prompts.levels ∧
      t.bus = (u.levelRequests pool panels).bus ∧ t.status = (u.levelRequests pool panels).status := by
  intro t
  have hlevel (n : Nat) : u.levelOf n = s.levelOf n := by simp only [State.levelOf, hp]
  have hfor (n : Nat) : u.levelFor pool n = s.levelFor pool n := levelFor_of_kept hl (hlevel n) pool
  obtain ⟨hlevels, hbus, hstatus⟩ := reportAll_levels placed (s := u) (pool := pool)
    (v := { u with prompts := { u.prompts with pool := pool } }) (w := u) hnodup rfl rfl (fun _ _ => rfl) rfl rfl rfl
  have hset : t.prompts.levels = panels.foldl (fun levels n => levels.set n (u.levelFor pool n)) s.prompts.levels := by
    rw [← hp]
    exact hlevels
  refine ⟨reportAll_pool .., ⟨?_, fun n level hn => ?_⟩, hbus, hstatus⟩
  · rw [hset, foldl_set_length]
  · rw [hset, foldl_set_getElem? _ _ hn, hfor]

/-! ### Removal (R107, R108, R112) -/

theorem panelIds_nodup (s : State) : s.panelIds.Nodup := List.nodup_range

theorem any_panel_eq (gone : List Prompt) :
    (fun n => gone.any (fun g => g.panel == n)) = (gone.map (·.panel)).contains := by
  funext n
  rw [List.contains_eq_any_beq, List.any_map]
  exact congrArg (gone.any ·) (funext fun g => Bool.beq_comm)

theorem removePrompts_eq (p : Prompt → Bool) (s : State) : s.removePrompts p =
    ({ s with prompts := { s.prompts with pool := s.prompts.pool.filter (fun x => !p x) } } : State).reportAll none
      (s.panelIds.filter ((s.prompts.pool.filter p).map (·.panel)).contains) := by
  unfold State.removePrompts
  dsimp only
  rw [any_panel_eq]
  rfl

theorem removePrompts_pool (p : Prompt → Bool) (s : State) :
    (s.removePrompts p).prompts.pool = s.prompts.pool.filter (fun x => !p x) := by
  rw [removePrompts_eq, reportAll_pool]

theorem removePrompts_mode (p : Prompt → Bool) (s : State) : (s.removePrompts p).mode = s.mode := by
  rw [removePrompts_eq, reportAll_mode]

end Sys2Proof.Machine

open Sys2Proof Sys2Proof.Machine

/-- Settles O25: both commands remove the entries that meet a condition, and `reported_of_setPool` says what the reports of
the panels that lost one bring. -/
theorem withdrawAndHoldExpiryRemoveEntries : Obligations.WithdrawAndHoldExpiryRemoveEntries := by
  unfold Obligations.WithdrawAndHoldExpiryRemoveEntries
  intro reported
  have hremoved (s u : State) (hl : u.loader = s.loader) (hp : u.prompts = s.prompts) (hm : u.mode = s.mode)
      (p : Prompt → Bool) : reported s u (u.removePrompts p) (s.prompts.pool.filter p) := by
    have hids : u.panelIds = s.panelIds := by simp only [State.panelIds, hl]
    have hreports := reported_of_setPool (s := s) (u := u) none (s.prompts.pool.filter (fun x => !p x))
      ((panelIds_nodup s).filter ((s.prompts.pool.filter p).map (·.panel)).contains) hl hp
    have hsame : u.prompts.pool = s.prompts.pool := by rw [hp]
    have heq := removePrompts_eq p u
    rw [hids, hsame] at heq
    have hpool : (u.removePrompts p).prompts.pool = s.prompts.pool.filter (fun x => !p x) := by
      rw [removePrompts_pool, hp]
    obtain ⟨-, hlevels, hbus, hstatus⟩ := hreports
    rw [← heq] at hlevels hbus hstatus
    rw [← hpool] at hlevels hbus hstatus heq
    exact ⟨heq, hlevels, hbus, hstatus, (removePrompts_mode p u).trans hm⟩
  refine ⟨fun s rx ticket h => ?_, fun s ticket hl => ?_⟩
  · exact ⟨_, exec_withdraw h ticket, removePrompts_pool _ _, eq_of_forPrompts (removePrompts_forPrompts _ _),
      hremoved s s.busy rfl rfl rfl _⟩
  · exact ⟨_, congrArg Host.Outcome.next (if_pos (running_of hl)), removePrompts_pool _ _,
      eq_of_forPrompts (removePrompts_forPrompts _ _), hremoved s s rfl rfl rfl _⟩

end

section
/-! PROOFS. Assignments: the tests of R100, the maps of R24, the entry that an ASSIGN merges into or makes, the entry that
is evicted for it, and the reports that follow (07 sections 7.2 to 7.4). -/

namespace Sys2Proof.Machine

/-! ### The maps (R24) -/

theorem findPlace_eq_findIdx? {α : Type} (p : α → Bool) (l : List α) : findPlace p l = l.findIdx? p := by
  induction l with
  | nil => rfl
  | cons a l ih => rw [findPlace, List.findIdx?_cons, ih]

theorem findPlace_iff {α : Type} {p : α → Bool} {l : List α} {n : Nat} :
    findPlace p l = some n ↔ (∃ a, l[n]? = some a ∧ p a = true) ∧ ∀ k, k < n → ¬ ∃ a, l[k]? = some a ∧ p a = true := by
  rw [findPlace_eq_findIdx?, List.findIdx?_eq_some_iff_getElem]
  constructor
  · rintro ⟨hn, hp, hfirst⟩
    refine ⟨⟨l[n], List.getElem?_eq_getElem hn, hp⟩, fun k hk => ?_⟩
    rintro ⟨a, hget, ha⟩
    obtain ⟨hlt, rfl⟩ := List.getElem?_eq_some_iff.mp hget
    exact hfirst k hk ha
  · rintro ⟨⟨a, hget, hp⟩, hfirst⟩
    obtain ⟨hn, rfl⟩ := List.getElem?_eq_some_iff.mp hget
    exact ⟨hn, hp, fun k hk ha => hfirst k hk ⟨_, List.getElem?_eq_getElem (hk.trans hn), ha⟩⟩

theorem keypadPanel_iff {s : State} {keypad : Byte} {n : Nat} :
    let serves (k : Nat) : Prop := ∃ row, s.row k = some row ∧ row.kind = .destination ∧ keypad ∈ row.keypads
    s.keypadPanel keypad = some n ↔ serves n ∧ ∀ k, k < n → ¬ serves k := by
  intro serves
  have hserves (k : Nat) : serves k ↔ ∃ row, s.loader.copy.panels[k]? = some row ∧
      (row.kind == .destination && row.keypads.contains keypad) = true := by
    simp [serves, State.row]
  simp only [hserves]
  exact findPlace_iff

theorem carSlot_iff {s : State} {car : Byte} {slot : Nat} :
    let carries (k : Nat) : Prop := ∃ row, s.carRow k = some row ∧ row.number = car.toNat
    s.carSlot car = some slot ↔ carries slot ∧ ∀ k, k < slot → ¬ carries k := by
  intro carries
  have hcarries (k : Nat) : carries k ↔ ∃ row, s.loader.copy.cars[k]? = some row ∧ (row.number == car.toNat) = true := by
    simp [carries, State.carRow]
  simp only [hcarries]
  exact findPlace_iff

/-! ### The tests of an ASSIGN (R100, R170) -/

theorem decodeAssignDeck_iff {b : Byte} {deck : Option Deck} : decodeAssignDeck b = some deck ↔
    (b = 0 ∧ deck = none) ∨ (b = 1 ∧ deck = some .lower) ∨ (b = 2 ∧ deck = some .upper) := by
  have hbyte (k : Byte) : b = k ↔ b.toNat = k.toNat := BitVec.toNat_inj.symm
  have h0 : (0 : Byte).toNat = 0 := rfl
  have h1 : (1 : Byte).toNat = 1 := rfl
  have h2 : (2 : Byte).toNat = 2 := rfl
  rw [hbyte, hbyte, hbyte, h0, h1, h2]
  unfold decodeAssignDeck
  split
  · rename_i h
    simp [h, eq_comm]
  · rename_i h
    simp [h, eq_comm]
  · rename_i h
    simp [h, eq_comm]
  · simp_all

theorem decodeAccessLang_iff {b : Byte} {access : Bool} {lang : Lang} : decodeAccessLang b = some (access, lang) ↔
    b.toNat % 16 = (if access then 1 else 0) ∧ b.toNat / 16 = (if lang = .secondary then 1 else 0) := by
  unfold decodeAccessLang
  split
  · rename_i hm hd
    cases access <;> cases lang <;> simp [hm, hd]
  · rename_i hm hd
    cases access <;> cases lang <;> simp [hm, hd]
  · rename_i hm hd
    cases access <;> cases lang <;> simp [hm, hd]
  · rename_i hm hd
    cases access <;> cases lang <;> simp [hm, hd]
  · cases access <;> cases lang <;> simp_all

theorem testAssign_iff {s : State} {f : AssignFrame} {a : Placed} : s.testAssign f = some a ↔
    s.mode.evacuation = false ∧ s.keypadPanel f.keypad = some a.panel ∧ s.carSlot f.car = some a.slot ∧
      f.dest.toNat < s.loader.copy.landings.length ∧ f.ticket.toNat ≤ 4095 ∧
      decodeAssignDeck f.deck = some a.deck ∧ ¬ (a.deck = some .upper ∧ (s.carRow a.slot).map (·.step) = some 0) ∧
      decodeAccessLang f.accessLang = some (a.access, a.lang) ∧ a.ticket = f.ticket.toNat ∧ a.dest = f.dest.toNat := by
  obtain ⟨panel, ticket, dest, slot, deck, access, lang⟩ := a
  unfold State.testAssign
  constructor
  · intro h
    repeat' split at h
    all_goals try cases h
    simp_all
  · rintro ⟨he, hpanel, hslot, hdest, hticket, hdeck, hup, haccess, rfl, rfl⟩
    dsimp only at hpanel hslot hdeck hup haccess
    rw [he, hpanel, hslot]
    dsimp only
    rw [if_neg (by decide), if_neg (Nat.not_le.mpr hdest), if_neg (Nat.not_lt.mpr hticket), hdeck, haccess]
    exact if_neg hup

/-- A car slot of the map has a row. -/
theorem carRow_of_carSlot {s : State} {car : Byte} {slot : Nat} (h : s.carSlot car = some slot) :
    ∃ row, s.carRow slot = some row := by
  obtain ⟨⟨row, hrow, -⟩, -⟩ := carSlot_iff.mp h
  exact ⟨row, hrow⟩

/-! ### The entry that is placed (R102, R103, R106) -/

theorem mergesWith_iff {a : Placed} {p : Prompt} : a.mergesWith p = true ↔
    p.panel = a.panel ∧ p.dest = a.dest ∧ p.slot = a.slot ∧ p.deck = a.deck := by
  simp [Placed.mergesWith, and_assoc]

/-- The hold of an entry that an assignment has placed, by the state its car calls for. -/
def placedHold (t : TimingSet) (st : PromptState) (access : Bool) : Nat :=
  if st = .reassign then t.reassignHold
  else if access then min 60000 (2 * t.promptHold) else t.promptHold

theorem entryState_ne_boarding (s : State) (slot : Nat) : s.entryState slot ≠ .boarding := by
  unfold State.entryState
  dsimp only
  split <;> simp

theorem held_of_entryState {s : State} {p : Prompt} {row : PanelRow} (hr : s.row p.panel = some row) (slot : Nat) :
    s.held (s.entryState slot) p = { p with
      state := s.entryState slot,
      expiry := s.cycle.clock + BitVec.ofNat 32 (placedHold (s.timing row) (s.entryState slot) p.access) } := by
  have hhold : s.holdOf p.panel (s.entryState slot) p.access =
      placedHold (s.timing row) (s.entryState slot) p.access := by
    simp only [State.holdOf, hr]
    cases hst : s.entryState slot with
    | shown => rfl
    | boarding => exact absurd hst (entryState_ne_boarding s slot)
    | reassign => rfl
  unfold State.held
  rw [hhold]
  rfl

theorem merged_eq {s : State} {p : Prompt} {row : PanelRow} (hr : s.row p.panel = some row) (a : Placed) :
    s.merged a p = { p with
      merges := min 9 (p.merges + 1), access := p.access || a.access, lang := a.lang, state := s.entryState a.slot,
      expiry := s.cycle.clock +
        BitVec.ofNat 32 (placedHold (s.timing row) (s.entryState a.slot) (p.access || a.access)) } :=
  held_of_entryState (p := { p with
    merges := min 9 (p.merges + 1), access := p.access || a.access, lang := a.lang }) hr a.slot

theorem newEntry_eq {s : State} {a : Placed} {row : PanelRow} (hr : s.row a.panel = some row) : s.newEntry a =
    { panel := a.panel, ticket := a.ticket, dest := a.dest, slot := a.slot, deck := a.deck, access := a.access,
      lang := a.lang, state := s.entryState a.slot,
      expiry := s.cycle.clock + BitVec.ofNat 32 (placedHold (s.timing row) (s.entryState a.slot) a.access),
      merges := 1 } :=
  held_of_entryState (s := s) (row := row)
    (p := { panel := a.panel, ticket := a.ticket, dest := a.dest, slot := a.slot, deck := a.deck, access := a.access,
            lang := a.lang, state := .shown, expiry := 0, merges := 1 }) hr a.slot

/-! ### Placing (R101 to R105) -/

section place
variable {s : State} {a : Placed}

theorem contains_cons_map (panel : Nat) (gone : List Prompt) :
    (fun n => n == panel || gone.any (fun g => g.panel == n)) = (panel :: gone.map (·.panel)).contains := by
  funext n
  rw [List.contains_cons, ← congrFun (any_panel_eq gone) n]

theorem contains_cons_cons_map (panel other : Nat) (gone : List Prompt) :
    (fun n => n == panel || n == other || gone.any (fun g => g.panel == n)) =
      (panel :: other :: gone.map (·.panel)).contains := by
  funext n
  rw [List.contains_cons, ← congrFun (contains_cons_map other gone) n, Bool.or_assoc]

theorem place_of_merge {p : Prompt}
    (h : (s.prompts.pool.filter (fun p => p.ticket != a.ticket)).find? a.mergesWith = some p) : s.place a =
    ({ s with prompts := { s.prompts with
        pool := (s.prompts.pool.filter (fun p => p.ticket != a.ticket)).erase p ++ [s.merged a p] } } : State).reportAll
      (some a.panel) (s.panelIds.filter
        (a.panel :: (s.prompts.pool.filter (fun p => p.ticket == a.ticket)).map (·.panel)).contains) := by
  unfold State.place
  dsimp only
  rw [h, contains_cons_map]
  rfl

theorem place_of_eviction {v : Prompt}
    (h : (s.prompts.pool.filter (fun p => p.ticket != a.ticket)).find? a.mergesWith = none)
    (hv : evictionFor (s.prompts.pool.filter (fun p => p.ticket != a.ticket)) a.panel = some v) : s.place a =
    ({ s.count .evictions with prompts := { s.prompts with
        pool := (s.prompts.pool.filter (fun p => p.ticket != a.ticket)).erase v ++ [s.newEntry a] } } : State).reportAll
      (some a.panel) (s.panelIds.filter
        (a.panel :: v.panel :: (s.prompts.pool.filter (fun p => p.ticket == a.ticket)).map (·.panel)).contains) := by
  unfold State.place
  dsimp only
  rw [h]
  dsimp only
  rw [hv]
  dsimp only
  rw [contains_cons_cons_map]
  rfl

theorem place_of_room
    (h : (s.prompts.pool.filter (fun p => p.ticket != a.ticket)).find? a.mergesWith = none)
    (hv : evictionFor (s.prompts.pool.filter (fun p => p.ticket != a.ticket)) a.panel = none) : s.place a =
    ({ s with prompts := { s.prompts with
        pool := s.prompts.pool.filter (fun p => p.ticket != a.ticket) ++ [s.newEntry a] } } : State).reportAll
      (some a.panel) (s.panelIds.filter
        (a.panel :: (s.prompts.pool.filter (fun p => p.ticket == a.ticket)).map (·.panel)).contains) := by
  unfold State.place
  dsimp only
  rw [h]
  dsimp only
  rw [hv]
  dsimp only
  rw [contains_cons_map]
  rfl

end place

/-! ### What the reports leave (R125) -/

theorem request_evictions (p : TxPayload) (s : State) :
    (s.request p).2.status.counters.evictions = s.status.counters.evictions := by
  unfold State.request
  repeat' split
  all_goals rfl

theorem levelRequests_evictions (s : State) (pool : List Prompt) (panels : List Nat) :
    (s.levelRequests pool panels).status.counters.evictions = s.status.counters.evictions :=
  forEach_keeps (fun t => t.status.counters.evictions) _ (fun n t => by
    split
    · rfl
    · exact request_evictions _ t) panels s

theorem wake_quiet_ne {n k : Nat} (h : n ≠ k) (s : State) : (s.wake n).mode.quiet[k]? = s.mode.quiet[k]? := by
  cases hr : s.row n with
  | none => simp only [State.wake, hr]
  | some row =>
    by_cases hl : s.mode.level = .evacuate
    · rw [wake_evacuate n hl]
    · rw [wake_mode hr hl]
      exact List.getElem?_set_ne h

theorem reportList_quiet_ne {n k : Nat} (placed : Option Nat) (h : placed ≠ some n ∨ n ≠ k) (s : State) :
    (s.reportList placed n).mode.quiet[k]? = s.mode.quiet[k]? := by
  rw [reportList_mode]
  split
  · rename_i hplaced
    exact wake_quiet_ne (h.resolve_left (fun hne => hne hplaced)) s
  · rfl

/-- Reports wake the panel an ASSIGN was placed on and no other. -/
theorem reportAll_quiet_ne {panel k : Nat} (h : k ≠ panel) (panels : List Nat) (s : State) :
    (s.reportAll (some panel) panels).mode.quiet[k]? = s.mode.quiet[k]? := by
  refine forEach_keeps (fun t => t.mode.quiet[k]?) _ (fun n t => reportList_quiet_ne (some panel) ?_ t) panels s
  by_cases hn : n = k
  · exact .inl (fun e => h (hn ▸ (Option.some.inj e).symm))
  · exact .inr hn

theorem reportAll_quiet {panel : Nat} {panels : List Nat} {s : State} {row : PanelRow} {q : QuietRec}
    (hnodup : panels.Nodup) (hmem : panel ∈ panels) (hr : s.row panel = some row) (hl : s.mode.level ≠ .evacuate)
    (hq : s.mode.quiet[panel]? = some q) :
    (s.reportAll (some panel) panels).mode.quiet[panel]? =
      some { state := .awake, timer := some (s.quietAhead row) } := by
  obtain ⟨u, hframe, hpart, htaken⟩ := forEach_part_of_mem (P := fun t k => t.mode.quiet[k]?) (F := State.forPrompts)
    (f := fun n s => s.reportList (some panel) n) (fun n t => reportList_forPrompts (some panel) n t)
    (fun m k h t => reportList_quiet_ne (some panel) (.inr h) t) hnodup hmem s
  have hu := eq_of_forPrompts hframe
  have hru : u.row panel = some row := by rw [hu]; exact hr
  have hlu : u.mode.level ≠ .evacuate := by rw [hu]; exact hl
  have hahead : u.quietAhead row = s.quietAhead row := by rw [hu]; rfl
  refine Eq.trans htaken ?_
  rw [reportList_mode, if_pos rfl, ← hahead]
  exact wake_quiet hru hlu (Eq.trans hpart hq)

/-- A placed assignment is the reports of its own panel and perhaps others, from a state that has its mode unit. -/
theorem place_reports (s : State) (a : Placed) : ∃ (v : State) (panels : List Nat),
    s.place a = v.reportAll (some a.panel) panels ∧ panels.Nodup ∧
      (∀ row, s.row a.panel = some row → a.panel ∈ panels) ∧
      v.mode = s.mode ∧ v.loader = s.loader ∧ v.cycle = s.cycle := by
  have hmem (others : List Nat) (row : PanelRow) (hr : s.row a.panel = some row) :
      a.panel ∈ s.panelIds.filter (a.panel :: others).contains :=
    List.mem_filter.mpr ⟨mem_panelIds.mpr ⟨row, hr⟩, by simp⟩
  have hnodup (p : Nat → Bool) : (s.panelIds.filter p).Nodup := (panelIds_nodup s).filter p
  cases hp : (s.prompts.pool.filter (fun p => p.ticket != a.ticket)).find? a.mergesWith with
  | some p => exact ⟨_, _, place_of_merge hp, hnodup _, hmem _, rfl, rfl, rfl⟩
  | none =>
    cases hv : evictionFor (s.prompts.pool.filter (fun p => p.ticket != a.ticket)) a.panel with
    | some v => exact ⟨_, _, place_of_eviction hp hv, hnodup _, hmem _, rfl, rfl, rfl⟩
    | none => exact ⟨_, _, place_of_room hp hv, hnodup _, hmem _, rfl, rfl, rfl⟩

/-! ### Eviction (R104) -/

theorem evictionFor_of_room {pool : List Prompt} {panel : Nat} (hl : (onPanel panel pool).length < 12)
    (hp : pool.length < 48) : evictionFor pool panel = none := by
  have hroom : (onPanel panel pool).length < min 12 ((onPanel panel pool).length + (48 - pool.length)) := by omega
  exact if_pos hroom

theorem evictionFor_of_full {pool : List Prompt} {panel : Nat}
    (h : (onPanel panel pool).length = 12 ∨ 48 ≤ pool.length) :
    evictionFor pool panel = victim (if onPanel panel pool = [] then pool else onPanel panel pool) := by
  have hfull : ¬ (onPanel panel pool).length < min 12 ((onPanel panel pool).length + (48 - pool.length)) := by omega
  refine (if_neg hfull).trans ?_
  exact (apply_ite victim ..).symm

/-- The victim of a list that is not empty: the oldest evictable entry, or the oldest. -/
theorem victim_spec {source : List Prompt} (h : source ≠ []) : ∃ v before after, victim source = some v ∧
    source = before ++ v :: after ∧
      ((v.evictable = true ∧ ∀ p ∈ before, p.evictable = false) ∨ (before = [] ∧ ∀ p ∈ source, p.evictable = false)) := by
  unfold victim
  cases hf : source.find? Prompt.evictable with
  | some v =>
    obtain ⟨hv, before, after, hsplit, hbefore⟩ := List.find?_eq_some_iff_append.mp hf
    exact ⟨v, before, after, rfl, hsplit, .inl ⟨hv, fun p hp => by simpa using hbefore p hp⟩⟩
  | none =>
    obtain ⟨v, after, rfl⟩ := List.exists_cons_of_ne_nil h
    exact ⟨v, [], after, rfl, rfl, .inr ⟨rfl, fun p hp => by simpa using List.find?_eq_none.mp hf p hp⟩⟩

theorem evictable_iff {p : Prompt} : p.evictable = true ↔ p.state = .shown ∧ p.access = false := by
  simp [Prompt.evictable]

end Sys2Proof.Machine

open Sys2Proof Sys2Proof.Machine

/-- Settles O24: the tests and maps one by one; the three ways to place an entry (`place_of_merge`, `place_of_eviction`,
`place_of_room`), each followed by the reports of the panels whose lists changed (`reported_of_setPool`). -/
theorem assignIsPlaced : Obligations.AssignIsPlaced := by
  unfold Obligations.AssignIsPlaced
  refine ⟨fun s f a => ?_, fun s keypad n => keypadPanel_iff, fun s car slot => carSlot_iff, fun a p => mergesWith_iff,
    fun s rx f a row h ha hr => ?_, fun pool panel hpool hlist => ?_⟩
  · rw [testAssign_iff, decodeAssignDeck_iff, decodeAccessLang_iff]
    refine and_congr_right fun _ => and_congr_right fun _ => and_congr_right fun hslot => and_congr_right fun _ =>
      and_congr_right fun _ => ?_
    obtain ⟨row, hrow⟩ := carRow_of_carSlot hslot
    have hstep : (∃ row, s.carRow a.slot = some row ∧ row.step ≠ 0) ↔ ¬ (s.carRow a.slot).map (·.step) = some 0 := by
      simp [hrow]
    rw [hstep]
    constructor
    · rintro ⟨hdeck, hup, ⟨haccess, hlang⟩, hticket, hdest⟩
      refine ⟨?_, haccess, hlang, hticket, hdest⟩
      rcases hdeck with hnone | hlower | ⟨hupper, hdeck⟩
      · exact .inl hnone
      · exact .inr (.inl hlower)
      · exact .inr (.inr ⟨hupper, hdeck, fun hzero => hup ⟨hdeck, hzero⟩⟩)
    · rintro ⟨hdeck, haccess, hlang, hticket, hdest⟩
      rcases hdeck with hnone | hlower | ⟨hupper, hdeck, hzero⟩
      · exact ⟨.inl hnone, by simp [hnone.2], ⟨haccess, hlang⟩, hticket, hdest⟩
      · exact ⟨.inr (.inl hlower), by simp [hlower.2], ⟨haccess, hlang⟩, hticket, hdest⟩
      · exact ⟨.inr (.inr ⟨hupper, hdeck⟩), fun hboth => hzero hboth.2, ⟨haccess, hlang⟩, hticket, hdest⟩
  · intro pool replaced car st hold fresh reported
    have hexec : exec (.assign rx f) s = .next (s.busy.place a) := by
      rw [exec_assign h f]
      simp only [State.assignTaken, show s.busy.testAssign f = some a from ha]
    obtain ⟨-, hpanel, hslot, -, -, -, -, -, hticket, hdest⟩ := testAssign_iff.mp ha
    have hfresh : s.busy.newEntry a = fresh := by
      rw [newEntry_eq (s := s.busy) hr, hticket, hdest]
      rfl
    have hreported {u t : State} {pool' : List Prompt} {panels : List Nat} (hl : u.loader = s.loader)
        (hp : u.prompts = s.prompts)
        (ht : t = ({ u with prompts := { u.prompts with pool := pool' } } : State).reportAll (some a.panel)
          (s.panelIds.filter panels.contains)) : t.prompts.pool = pool' ∧ reported u t panels := by
      obtain ⟨hpool, hlevels, hbus, hstatus⟩ := reported_of_setPool (s := s) (u := u) (some a.panel) pool'
        ((panelIds_nodup s).filter panels.contains) hl hp
      rw [← ht] at hpool hlevels hbus hstatus
      rw [← hpool] at ht hlevels hbus hstatus
      exact ⟨hpool, ht, hlevels, hbus, hstatus⟩
    obtain ⟨v, panels, hreports, hnodup, hmem, hmode, hloader, hcycle⟩ := place_reports s.busy a
    refine ⟨_, hexec, eq_of_forPrompts (place_forPrompts a s.busy), hpanel, hslot, fun p hp => ?_, fun hnone v hv => ?_,
      fun hnone hv => ?_, fun q hlevel hq => ?_, fun n hn => ?_⟩
    · obtain ⟨hpool, hrep⟩ := hreported (u := s.busy) rfl rfl (place_of_merge (s := s.busy) hp)
      have hrow : s.busy.row p.panel = some row := by
        rw [(mergesWith_iff.mp (List.find?_some hp)).1]
        exact hr
      refine ⟨hpool.trans ?_, hrep⟩
      rw [merged_eq hrow]
      rfl
    · obtain ⟨hpool, hrep⟩ := hreported (u := s.busy.count .evictions) rfl rfl (place_of_eviction (s := s.busy) hnone hv)
      rw [hfresh] at hpool
      refine ⟨hpool, ?_, hrep⟩
      rw [hrep.2.2.2, levelRequests_evictions]
      rfl
    · obtain ⟨hpool, hrep⟩ := hreported (u := s.busy) rfl rfl (place_of_room (s := s.busy) hnone hv)
      rw [hfresh] at hpool
      exact ⟨hpool, hrep⟩
    · have hrow : v.row a.panel = some row := by simp only [State.row, hloader]; exact hr
      rw [hreports, reportAll_quiet hnodup (hmem row hr) hrow (by rw [hmode]; exact hlevel) (by rw [hmode]; exact hq)]
      simp only [State.quietAhead, State.timing, State.now, hloader, hcycle]
      rfl
    · rw [hreports, reportAll_quiet_ne hn, hmode]
      rfl
  · intro shown source
    refine ⟨evictionFor_of_room, fun hfull => ?_⟩
    have hsource : source ≠ [] := by
      intro hempty
      by_cases hnone : onPanel panel pool = []
      · have hpoolEmpty : pool = [] := (if_pos hnone).symm.trans hempty
        rw [hnone, hpoolEmpty] at hfull
        simp at hfull
      · exact hnone ((if_neg hnone).symm.trans hempty)
    obtain ⟨v, before, after, hv, hsplit, hchoice⟩ := victim_spec hsource
    refine ⟨v, before, after, (evictionFor_of_full (hfull.imp_right fun e => e.ge)).trans hv, hsplit, ?_⟩
    have hshown (p : Prompt) : p.evictable = false → ¬ shown p := fun hne hs => by
      simp [evictable_iff.mpr hs] at hne
    exact hchoice.imp (fun ⟨hv, hb⟩ => ⟨evictable_iff.mp hv, fun p hp => hshown p (hb p hp)⟩)
      (fun ⟨hb, hall⟩ => ⟨hb, fun p hp => hshown p (hall p hp)⟩)

end

section
/-! PROOFS. The service level (R112, R121, R127, R131, R149): what a change does panel by panel, and the end of an event that
may have changed the record. -/

namespace Sys2Proof.Machine

/-! ### A level change at one panel: the quiet handling (R127, R131) -/

section quietLevel
variable {s : State} {n : Nat} {row : PanelRow} {q : QuietRec} (hr : s.row n = some row) (hq : s.mode.quiet[n]? = some q)

theorem lampOf_eq {lamp : Option Clock} (hlamp : s.mode.lamps[n]? = some lamp) : s.lampOf n = lamp := by
  simp only [State.lampOf, hlamp, Option.getD_some]

theorem lampEnd_eq {lamp : Option Clock} (hlamp : s.mode.lamps[n]? = some lamp) :
    s.lampEnd n = if lamp = none then s else (s.setLamp n none).hand n (.test false) := by
  unfold State.lampEnd
  rw [lampOf_eq hlamp]
  cases lamp <;> rfl

theorem lampEnd_mode (n : Nat) (s : State) :
    (s.lampEnd n).mode = { s.mode with lamps := s.mode.lamps.set n none } := by
  cases h : s.mode.lamps[n]? with
  | none =>
    have hset : s.mode.lamps.set n none = s.mode.lamps :=
      List.set_eq_of_length_le (List.getElem?_eq_none_iff.mp h)
    simp only [State.lampEnd, State.lampOf, h, Option.getD_none, hset]
  | some lamp =>
    rw [lampEnd_eq h]
    cases lamp with
    | none =>
      obtain ⟨hn, hget⟩ := List.getElem?_eq_some_iff.mp h
      have hset : s.mode.lamps.set n none = s.mode.lamps := by
        rw [← hget]
        exact List.set_getElem_self hn
      rw [if_pos rfl, hset]
    | some e => rfl

include hr hq

theorem awaken_eq (timer : Option Clock) : s.awaken n timer =
    match q.state with
    | .awake => s.setQuiet n { state := .awake, timer := timer }
    | .dim => (s.setQuiet n { state := .awake, timer := timer }).hand n (.bright row.awake)
    | .dark => (s.setQuiet n { state := .awake, timer := timer }).relight n row.awake := by
  simp only [State.awaken, hr, quietOf_of_record hq] <;> rfl

omit hq in
theorem quietLevelChange_of_evacuate (old : Level) :
    s.quietLevelChange old .evacuate n = (s.awaken n none).lampEnd n := by
  simp only [State.quietLevelChange, hr, if_true]

theorem quietLevelChange_of_back {new : Level} (h : new ≠ .evacuate) : s.quietLevelChange .evacuate new n =
    s.setQuiet n { state := q.state, timer := some (s.quietAhead row) } := by
  simp only [State.quietLevelChange, hr, if_neg h, if_true, quietOf_of_record hq]

omit hq in
theorem quietLevelChange_of_notice {old : Level} (h : old ≠ .evacuate) (hl : s.mode.level = .notice) :
    s.quietLevelChange old .notice n = s.awaken n (some (s.quietAhead row)) := by
  have hwake : s.wake n = s.awaken n (some (s.quietAhead row)) := by
    simp [State.wake, hr, hl]
  simp [State.quietLevelChange, hr, h, hwake]

theorem quietLevelChange_of_day (h : q.state = .dark) : s.quietLevelChange .night .normal n =
    (s.setQuiet n { state := .dim, timer := some (s.quietAhead row) }).relight n row.dim := by
  have hd : s.isDark n = true := by simp [State.isDark, quietOf_of_record hq, h]
  simp [State.quietLevelChange, hr, hd]

theorem quietLevelChange_of_other {old new : Level} (hnew : new ≠ .evacuate) (hold : old ≠ .evacuate)
    (hnotice : new ≠ .notice) (h : ¬ (old = .night ∧ new = .normal ∧ q.state = .dark)) :
    s.quietLevelChange old new n = s := by
  have hd : s.isDark n = true ↔ q.state = .dark := by simp [State.isDark, quietOf_of_record hq]
  simp only [State.quietLevelChange, hr, if_neg hnew, if_neg hold, if_neg hnotice, hd, if_neg h]

/-- What a level change does to the panel's quiet record and lamp test. -/
theorem quietLevelChange_mode {old new : Level} (hl : s.mode.level = new) :
    (s.quietLevelChange old new n).mode = { s.mode with
      quiet := s.mode.quiet.set n (q.afterLevel old new (s.quietAhead row)),
      lamps := if new = .evacuate then s.mode.lamps.set n none else s.mode.lamps } := by
  by_cases hnew : new = .evacuate
  · subst hnew
    rw [quietLevelChange_of_evacuate hr, lampEnd_mode, awaken_mode hr]
    rfl
  by_cases hold : old = .evacuate
  · subst hold
    rw [quietLevelChange_of_back hr hq hnew, if_neg hnew]
    simp only [QuietRec.afterLevel, if_neg hnew, if_true]
    rfl
  by_cases hnotice : new = .notice
  · subst hnotice
    rw [quietLevelChange_of_notice hr hold hl, awaken_mode hr, if_neg hnew]
    simp only [QuietRec.afterLevel, if_neg hnew, if_neg hold, if_true]
  by_cases hday : old = .night ∧ new = .normal ∧ q.state = .dark
  · obtain ⟨rfl, rfl, hdark⟩ := hday
    rw [quietLevelChange_of_day hr hq hdark, if_neg hnew]
    have hrelight : ((s.setQuiet n { state := .dim, timer := some (s.quietAhead row) }).relight n row.dim).mode =
        { s.mode with quiet := s.mode.quiet.set n { state := .dim, timer := some (s.quietAhead row) } } :=
      (congrArg State.mode (relight_forShow n row.dim
        (s.setQuiet n { state := .dim, timer := some (s.quietAhead row) })) :)
    rw [hrelight]
    simp [QuietRec.afterLevel, hdark]
  · have hkept : s.mode.quiet.set n q = s.mode.quiet := by
      obtain ⟨hn, hget⟩ := List.getElem?_eq_some_iff.mp hq
      rw [← hget]
      exact List.set_getElem_self hn
    rw [quietLevelChange_of_other hr hq hnew hold hnotice hday, if_neg hnew]
    simp only [QuietRec.afterLevel, if_neg hnew, if_neg hold, if_neg hnotice, if_neg hday, hkept]

end quietLevel

theorem quietLevelChange_lamps {s : State} {n : Nat} {row : PanelRow} (hr : s.row n = some row) (old new : Level) :
    (s.quietLevelChange old new n).mode.lamps = if new = .evacuate then s.mode.lamps.set n none else s.mode.lamps := by
  by_cases hnew : new = .evacuate
  · subst hnew
    rw [quietLevelChange_of_evacuate hr, lampEnd_mode, awaken_mode hr]
    rfl
  · rw [if_neg hnew]
    simp only [State.quietLevelChange, hr, if_neg hnew]
    split
    · rfl
    · split
      · exact wake_lamps n s
      · split
        · exact (congrArg (fun u => u.mode.lamps) (relight_forShow n row.dim (s.setQuiet n _)) :)
        · rfl

/-! ### A level change at one panel: the show scheduler (R149) -/

/-- The links after the LOAD of a preload that is abandoned is cancelled (R137, R157). -/
def State.cancelledLinks (s : State) (n : Nat) (sc : Schedule) : List LinkRec :=
  match sc.preload with
  | some p => if p.state = .loading then
      s.links.modify n (fun l => if l.state = .up then
        { l with queue := l.queue.filter (fun m => !m.isLoadOf p.load) } else l)
    else s.links
  | none => s.links

theorem abandonPreload_eq {s : State} {n : Nat} {sc : Schedule} (hs : s.schedules[n]? = some sc) :
    s.abandonPreload n = ({ s with links := s.cancelledLinks n sc } : State).withSched n { sc with preload := none } := by
  unfold State.abandonPreload State.schedule State.cancelledLinks
  rw [hs]
  dsimp only
  cases hp : sc.preload with
  | none =>
    have hsame : { sc with preload := none } = sc := by rw [← hp]
    rw [hsame]
    exact (withSched_self hs).symm
  | some p =>
    dsimp only
    split
    · exact setSched_of_some (s := s.cancelLoad n p.load) hs _
    · exact setSched_of_some hs _

theorem schedLevelChange_eq {s : State} {n : Nat} {row : PanelRow} {sc : Schedule} (hr : s.row n = some row)
    (hs : s.schedules[n]? = some sc) (old new : Level) : s.schedLevelChange old new n =
      if row.kind = .lantern then s.contentChange n
      else if new = .evacuate then
        (({ s with links := s.cancelledLinks n sc } : State).withSched n
          { sc with preload := none, waiting := [] }).contentChange n
      else if old = .evacuate then (s.withSched n { sc with index := 0 }).contentChange n
      else s.contentChange n := by
  have hempty : (s.abandonPreload n).setSched n (fun sc => { sc with waiting := [] }) =
      ({ s with links := s.cancelledLinks n sc } : State).withSched n { sc with preload := none, waiting := [] } := by
    have hset := withSched_schedule (s := { s with links := s.cancelledLinks n sc }) hs { sc with preload := none }
    rw [abandonPreload_eq hs, setSched_of_some hset]
    exact withSched_withSched n _ _ _
  simp only [State.schedLevelChange, hr, hempty, setSched_of_some hs]

theorem schedLevelChange_mode (old new : Level) (n : Nat) (s : State) : (s.schedLevelChange old new n).mode = s.mode :=
  (congrArg State.mode (schedLevelChange_forShow old new n s) :)

/-! ### A level change at every panel (R121) -/

theorem panelLevelChange_mode {s : State} {n : Nat} {row : PanelRow} {q : QuietRec} (hr : s.row n = some row)
    (hq : s.mode.quiet[n]? = some q) {old new : Level} (hl : s.mode.level = new) :
    (s.panelLevelChange old new n).mode = { s.mode with
      quiet := s.mode.quiet.set n (q.afterLevel old new (s.quietAhead row)),
      lamps := if new = .evacuate then s.mode.lamps.set n none else s.mode.lamps } := by
  have hsched := eq_of_forShow (schedLevelChange_forShow old new n s)
  have hrow : (s.schedLevelChange old new n).row n = some row := by rw [hsched]; exact hr
  have hmode := schedLevelChange_mode old new n s
  have hahead : (s.schedLevelChange old new n).quietAhead row = s.quietAhead row := by rw [hsched]; rfl
  unfold State.panelLevelChange
  split
  · rw [quietLevelChange_mode hrow (by rw [hmode]; exact hq) (by rw [hmode]; exact hl), hmode, hahead]
  · rw [schedLevelChange_mode, quietLevelChange_mode hr hq hl]

theorem panelLevelChange_lamps {s : State} {n : Nat} {row : PanelRow} (hr : s.row n = some row) (old new : Level) :
    (s.panelLevelChange old new n).mode.lamps = if new = .evacuate then s.mode.lamps.set n none else s.mode.lamps := by
  have hrow : (s.schedLevelChange old new n).row n = some row := by
    rw [eq_of_forShow (schedLevelChange_forShow old new n s)]
    exact hr
  unfold State.panelLevelChange
  split
  · rw [quietLevelChange_lamps hrow, schedLevelChange_mode]
  · rw [schedLevelChange_mode, quietLevelChange_lamps hr]

/-- The panels of a state, each having taken a level change. -/
def State.levelShown (s : State) (old new : Level) : State :=
  forEach s.panelIds (fun n s => s.panelLevelChange old new n) { s with mode := { s.mode with level := new } }

theorem levelChanged_eq (s : State) (old new : Level) : s.levelChanged old new =
    if new = .evacuate then (s.levelShown old new).removePrompts (fun _ => true) else s.levelShown old new := rfl

theorem levelShown_forQuiet (s : State) (old new : Level) :
    (s.levelShown old new).forQuiet = ({ s with mode := { s.mode with level := new } } : State).forQuiet :=
  forEach_keeps _ _ (fun n s => panelLevelChange_forQuiet old new n s) _ _

theorem levelChanged_mode (s : State) (old new : Level) : (s.levelChanged old new).mode = (s.levelShown old new).mode := by
  rw [levelChanged_eq]
  split
  · exact removePrompts_mode _ _
  · rfl

theorem levelChanged_level (s : State) (old new : Level) : (s.levelChanged old new).mode.level = new := by
  rw [levelChanged_mode]
  exact (congrArg (fun u => u.mode.level) (levelShown_forQuiet s old new) :)

theorem levelChanged_pool_of_evacuate (s : State) (old : Level) : (s.levelChanged old .evacuate).prompts.pool = [] := by
  rw [levelChanged_eq, if_pos rfl, removePrompts_pool]
  simp

theorem levelChanged_pool {s : State} (old : Level) {new : Level} (h : new ≠ .evacuate) :
    (s.levelChanged old new).prompts.pool = s.prompts.pool := by
  rw [levelChanged_eq, if_neg h]
  exact (congrArg (fun u => u.prompts.pool) (levelShown_forQuiet s old new) :)

/-- The panel's own change, taken with its quiet record and lamp test as they were before all of them. -/
theorem levelShown_lampPart {s : State} {n : Nat} {row : PanelRow} (hr : s.row n = some row) (old new : Level) :
    ∃ u : State, u.forQuiet = ({ s with mode := { s.mode with level := new } } : State).forQuiet ∧
      u.lampPart n = s.lampPart n ∧ (s.levelShown old new).lampPart n = (u.panelLevelChange old new n).lampPart n :=
  forEach_part_of_mem (P := State.lampPart) (F := State.forQuiet) (f := fun n s => s.panelLevelChange old new n)
    (fun m s => panelLevelChange_forQuiet old new m s)
    (fun _ k h s => panelLevelChange_at (lampPart_quietAt h (s.lampPart k)) old new s rfl)
    (panelIds_nodup s) (mem_panelIds.mpr ⟨row, hr⟩) _

theorem levelChanged_quiet {s : State} {n : Nat} {row : PanelRow} {q : QuietRec} (hr : s.row n = some row)
    (hq : s.mode.quiet[n]? = some q) (old new : Level) :
    (s.levelChanged old new).mode.quiet[n]? = some (q.afterLevel old new (s.quietAhead row)) := by
  obtain ⟨u, hframe, hpart, htaken⟩ := levelShown_lampPart hr old new
  have hu := eq_of_forQuiet hframe
  have hru : u.row n = some row := by rw [hu]; exact hr
  have hlevel : u.mode.level = new := by rw [hu]; rfl
  have hahead : u.quietAhead row = s.quietAhead row := by rw [hu]; rfl
  have hqu : u.mode.quiet[n]? = some q := (congrArg (fun p => p.1.quiet) hpart :).trans hq
  rw [levelChanged_mode]
  refine (congrArg (fun p => p.1.quiet) htaken :).trans ?_
  show (u.panelLevelChange old new n).mode.quiet[n]? = _
  rw [panelLevelChange_mode hru hqu hlevel, hahead]
  exact List.getElem?_set_self (List.getElem?_eq_some_iff.mp hqu).1

theorem levelChanged_lamps {s : State} {n : Nat} {row : PanelRow} {lamp : Option Clock} (hr : s.row n = some row)
    (hlamp : s.mode.lamps[n]? = some lamp) (old new : Level) :
    (s.levelChanged old new).mode.lamps[n]? = some (if new = .evacuate then none else lamp) := by
  obtain ⟨u, hframe, hpart, htaken⟩ := levelShown_lampPart hr old new
  have hru : u.row n = some row := by rw [eq_of_forQuiet hframe]; exact hr
  have hlampu : u.mode.lamps[n]? = some lamp := (congrArg Prod.snd hpart :).trans hlamp
  rw [levelChanged_mode]
  refine (congrArg Prod.snd htaken :).trans ?_
  show (u.panelLevelChange old new n).mode.lamps[n]? = _
  rw [panelLevelChange_lamps hru]
  split
  · exact List.getElem?_set_self (List.getElem?_eq_some_iff.mp hlampu).1
  · exact hlampu

/-! ### The end of an event that may have changed the record (R121) -/

/-- The state after an event, `s` being the state before it and `r` the state with the record changed. -/
structure Settled (s r t : State) : Prop where
  level : t.mode.level = r.mode.derived
  record : t.mode.evacuation = r.mode.evacuation ∧ t.mode.evacText = r.mode.evacText ∧ t.mode.night = r.mode.night ∧
    t.mode.claims = r.mode.claims
  emptied : t.mode.level = .evacuate → s.mode.level ≠ .evacuate → t.prompts.pool = []
  kept : t.mode.level ≠ .evacuate ∨ s.mode.level = .evacuate → t.prompts.pool = r.prompts.pool
  taken : s.levelTaken t
  changed : t.mode.level ≠ s.mode.level → t = r.levelChanged s.mode.level t.mode.level
  texts : t.mode.level = s.mode.level →
    ¬ (r.mode.noticeText = s.mode.noticeText ∧ r.mode.evacText = s.mode.evacText) → t = r.contentChanges r.panelIds
  same : t.mode.level = s.mode.level → r.mode.noticeText = s.mode.noticeText ∧ r.mode.evacText = s.mode.evacText → t = r
  frame : t = { r with mode := { r.mode with level := t.mode.level } }.promptsMoved t

section settle
variable {s r : State} (hlevel : r.mode.level = s.mode.level)

theorem settleMode_of_level (h : r.mode.derived ≠ r.mode.level) :
    r.settleMode s.mode = r.levelChanged r.mode.level r.mode.derived := if_pos h

theorem settleMode_of_same (h : r.mode.derived = r.mode.level) : r.settleMode s.mode =
    if r.mode.noticeText ≠ s.mode.noticeText ∨ r.mode.evacText ≠ s.mode.evacText then r.contentChanges r.panelIds
    else r := if_neg (not_not.mpr h)

include hlevel

theorem settleMode_settled (hloader : r.loader = s.loader) (hclock : r.cycle = s.cycle)
    (hquiet : r.mode.quiet = s.mode.quiet) (hlamps : r.mode.lamps = s.mode.lamps) :
    Settled s r (r.settleMode s.mode) := by
  have hrow (n : Nat) : r.row n = s.row n := by simp only [State.row, hloader]
  have hahead (row : PanelRow) : r.quietAhead row = s.quietAhead row := by
    simp only [State.quietAhead, State.timing, State.now, hloader, hclock]
  by_cases h : r.mode.derived = r.mode.level
  · have hshow : (r.settleMode s.mode).forShow = r.forShow := by
      rw [settleMode_of_same h]
      split
      · exact contentChanges_forShow _ r
      · rfl
    have hmode : (r.settleMode s.mode).mode = r.mode := (congrArg State.mode hshow :)
    have hpool : (r.settleMode s.mode).prompts.pool = r.prompts.pool := (congrArg (fun u => u.prompts.pool) hshow :)
    have heq : (r.settleMode s.mode).mode.level = s.mode.level := by rw [hmode, hlevel]
    refine ⟨by rw [hmode, h], by rw [hmode]; exact ⟨rfl, rfl, rfl, rfl⟩, fun he hne => absurd (heq.symm.trans he) hne,
      fun _ => hpool, ⟨fun _ => by rw [hmode]; exact ⟨hquiet, hlamps⟩, fun hne => absurd heq hne, fun hne => absurd heq hne⟩,
      fun hne => absurd heq hne, fun _ htexts => ?_, fun _ htexts => ?_, ?_⟩
    · rw [settleMode_of_same h]
      exact if_pos (by rwa [not_and_or] at htexts)
    · rw [settleMode_of_same h]
      exact if_neg (by rw [not_or, not_not, not_not]; exact htexts)
    · rw [hmode]
      exact eq_of_forPrompts (forPrompts_of_forQuiet (forQuiet_of_forShow hshow))
  · have hchanged : r.settleMode s.mode = r.levelChanged s.mode.level r.mode.derived := by
      rw [settleMode_of_level h, hlevel]
    have hnew : r.mode.derived ≠ s.mode.level := hlevel ▸ h
    rw [hchanged]
    have hl := levelChanged_level r s.mode.level r.mode.derived
    have hframe := eq_of_forPrompts (levelChanged_forPrompts s.mode.level r.mode.derived r)
    refine ⟨hl, ?_, fun he _ => ?_, fun hkept => ?_, ⟨fun he => absurd (hl.symm.trans he) hnew, fun _ n row q hr hq => ?_,
      fun _ n row lamp hr hlamp => ?_⟩, fun _ => by rw [hl], fun he => absurd (hl.symm.trans he) hnew,
      fun he => absurd (hl.symm.trans he) hnew, by rw [hl]; exact hframe⟩
    · rw [hframe]
      exact ⟨rfl, rfl, rfl, rfl⟩
    · rw [hl] at he
      rw [he, levelChanged_pool_of_evacuate]
    · rw [hl] at hkept
      exact levelChanged_pool _ (hkept.elim id fun hold he => hnew (he.trans hold.symm))
    · rw [hl, levelChanged_quiet (by rw [hrow]; exact hr) (by rw [hquiet]; exact hq), hahead]
      rfl
    · rw [hl]
      exact levelChanged_lamps (by rw [hrow]; exact hr) (by rw [hlamps]; exact hlamp) _ _

end settle

theorem claimExpiry_eq {s : State} {source : Byte}
    (h : ∃ c ∈ s.mode.claims, c.source = source ∧ reached c.expiry s.cycle.clock = true) : s.claimExpiry source =
      ({ s with mode := { s.mode with claims := dropClaim source s.mode.claims } } : State).settleMode s.mode := by
  obtain ⟨c, hc, hsource, hreached⟩ := h
  refine if_pos (List.any_eq_true.mpr ⟨c, hc, ?_⟩)
  rw [hsource, beq_self_eq_true, Bool.true_and]
  exact hreached

end Sys2Proof.Machine

open Sys2Proof Sys2Proof.Machine

/-- Settles O43. -/
theorem levelChangesReachEveryPanel : Obligations.LevelChangesReachEveryPanel := by
  unfold Obligations.LevelChangesReachEveryPanel
  refine ⟨fun s old new => rfl, fun s old new n => rfl, fun s old new n row q lamp hne hl hr hq hlamp => ?_,
    fun s old new n row sc hr hs => schedLevelChange_eq hr hs old new, fun s c hrun hc hreached => ?_⟩
  · intro ahead put bright awake tested
    have hawake (timer : Option Clock) : s.awaken n timer = awake timer := by
      rw [awaken_eq hr hq]
      simp only [awake]
      cases q.state <;> rfl
    have htested : (s.awaken n none).lampEnd n = tested (awake none) := by
      have hlamp' : (s.awaken n none).mode.lamps[n]? = some lamp := by
        rw [awaken_mode hr]
        exact hlamp
      have hnow : (s.awaken n none).now = s.now := by
        rw [eq_of_forQuiet (awaken_forQuiet n none s)]
        rfl
      rw [lampEnd_eq hlamp', ← hawake]
      simp only [tested]
      split
      · rfl
      · unfold State.hand State.setLink
        rw [show (State.setLamp n none (s.awaken n none)).now = s.now from hnow]
        rfl
    by_cases hnew : new = .evacuate
    · subst hnew
      rw [if_pos rfl, quietLevelChange_of_evacuate hr, htested]
    by_cases hold : old = .evacuate
    · subst hold
      rw [if_neg hnew, if_pos rfl, quietLevelChange_of_back hr hq hnew]
      rfl
    by_cases hnotice : new = .notice
    · subst hnotice
      rw [if_neg hnew, if_neg hold, if_pos rfl, quietLevelChange_of_notice hr hold hl]
      exact hawake _
    by_cases hday : old = .night ∧ new = .normal ∧ q.state = .dark
    · obtain ⟨rfl, rfl, hdark⟩ := hday
      rw [if_neg hnew, if_neg hold, if_neg hnotice, if_pos ⟨rfl, rfl, hdark⟩, quietLevelChange_of_day hr hq hdark]
      rfl
    · rw [if_neg hnew, if_neg hold, if_neg hnotice, if_neg hday,
        quietLevelChange_of_other hr hq hnew hold hnotice hday]
  · have hexec : exec (.claimWatchExpiry c.source) s = .next (s.claimExpiry c.source) :=
      congrArg Host.Outcome.next (if_pos (running_of hrun))
    obtain ⟨hlevel, ⟨-, -, -, hclaims⟩, -, hkept, htaken, hchanged, htexts, hsame, hframe⟩ :=
      settleMode_settled (s := s) (r := { s with mode := { s.mode with claims := dropClaim c.source s.mode.claims } })
        rfl rfl rfl rfl rfl
    rw [← claimExpiry_eq ⟨c, hc, rfl, hreached⟩] at hlevel hclaims hkept htaken hchanged htexts hsame hframe
    refine ⟨_, hexec, ?_⟩
    dsimp only
    rw [hclaims]
    exact ⟨rfl, hlevel, htaken, hkept, hchanged, fun hl htext => htexts hl fun h => htext h.1,
      fun hl htext => hsame hl ⟨htext, rfl⟩, hframe⟩

end

section
/-! PROOFS. A BUILDING MODE frame: the record after each of its codes (R118, R119). -/

namespace Sys2Proof.Machine

/-- The byte of a code of BUILDING MODE. -/
def ModeCode.byte : ModeCode → Byte
  | .notice => 0
  | .evacuate => 1
  | .evacuateClear => 2
  | .night => 3
  | .day => 4
  | .noticeEnd => 5

theorem byte_of_decodeMode {b : Byte} {code : ModeCode} (h : decodeMode b = some code) : b = code.byte := by
  have hbyte (k : Byte) (hk : b.toNat = k.toNat) : b = k := BitVec.eq_of_toNat_eq hk
  unfold decodeMode at h
  split at h
  · cases h
    exact hbyte 0 ‹_›
  · cases h
    exact hbyte 1 ‹_›
  · cases h
    exact hbyte 2 ‹_›
  · cases h
    exact hbyte 3 ‹_›
  · cases h
    exact hbyte 4 ‹_›
  · cases h
    exact hbyte 5 ‹_›
  · cases h

theorem textBeyond_iff {s : State} {text : Byte} : s.textBeyond text = true ↔ s.loader.copy.texts.length ≤ text.toNat :=
  decide_eq_true_iff

/-- The record that an applied BUILDING MODE frame leaves, by the byte of its code. -/
structure Recorded (s : State) (source text mode : Byte) (r : State) : Prop where
  evacuation : r.mode.evacuation = (if mode = 1 then true else if mode = 2 then false else s.mode.evacuation)
  evacText : r.mode.evacText = (if mode = 1 then
      (if text.toNat < s.loader.copy.texts.length then some text.toNat else none)
    else if mode = 2 then none else s.mode.evacText)
  night : r.mode.night = (if mode = 3 then true else if mode = 4 then false else s.mode.night)
  claims : r.mode.claims = (if mode = 0 then claimNotice (s.newClaim source text) s.mode.claims
    else if mode = 5 then dropClaim source s.mode.claims else s.mode.claims)
  state : r = { s with
    mode := { s.mode with evacuation := r.mode.evacuation, evacText := r.mode.evacText, night := r.mode.night,
                          claims := r.mode.claims },
    status := { s.status with counters := { s.status.counters with
      fieldRange := if mode = 1 ∧ s.loader.copy.texts.length ≤ text.toNat
        then counted s.status.counters.fieldRange 1 else s.status.counters.fieldRange } } }

theorem applyMode_recorded (s : State) (source text : Byte) {mode : Byte} {code : ModeCode}
    (h : decodeMode mode = some code) : Recorded s source text mode (s.applyMode source text code) := by
  obtain rfl := byte_of_decodeMode h
  clear h
  cases code with
  | notice => exact ⟨rfl, rfl, rfl, rfl, rfl⟩
  | evacuate =>
    unfold State.applyMode
    by_cases hb : s.loader.copy.texts.length ≤ text.toNat
    · dsimp only
      rw [if_pos (textBeyond_iff.mpr hb)]
      exact ⟨rfl, (if_neg (Nat.not_lt.mpr hb)).symm, rfl, rfl, by rw [if_pos ⟨rfl, hb⟩]; rfl⟩
    · dsimp only
      rw [if_neg (mt textBeyond_iff.mp hb)]
      exact ⟨rfl, (if_pos (Nat.not_le.mp hb)).symm, rfl, rfl, by rw [if_neg fun hboth => hb hboth.2]; rfl⟩
  | evacuateClear => exact ⟨rfl, rfl, rfl, rfl, rfl⟩
  | night => exact ⟨rfl, rfl, rfl, rfl, rfl⟩
  | day => exact ⟨rfl, rfl, rfl, rfl, rfl⟩
  | noticeEnd => exact ⟨rfl, rfl, rfl, rfl, rfl⟩

/-- A frame that is applied changes the record, and the event is settled. -/
theorem buildingModeTaken_applied {s : State} {f : ModeFrame} {code : ModeCode} (h : decodeMode f.mode = some code)
    (hz : f.zones.getLsbD s.loader.copy.zone = true)
    (hn : ¬ (f.mode = 0 ∧ s.loader.copy.texts.length ≤ f.text.toNat)) (source : Byte) :
    s.buildingModeTaken source f = (s.applyMode source f.text code).settleMode s.mode := by
  have hnotice : ¬ (code = .notice ∧ s.textBeyond f.text = true) := by
    rintro ⟨rfl, hb⟩
    exact hn ⟨byte_of_decodeMode h, textBeyond_iff.mp hb⟩
  simp only [State.buildingModeTaken, h, hz, if_neg hnotice]
  rfl

end Sys2Proof.Machine

open Sys2Proof Sys2Proof.Machine

/-- Settles O16: the record by the code (`applyMode_recorded`), and the end of the event (`settleMode_settled`). -/
theorem buildingModeChangesTheRecord : Obligations.BuildingModeChangesTheRecord := by
  unfold Obligations.BuildingModeChangesTheRecord
  intro s rx f h hmode hz hn
  obtain ⟨code, hcode⟩ := decodeMode_some hmode
  have hexec := exec_buildingMode h f
  rw [buildingModeTaken_applied (s := s.busy) hcode hz hn] at hexec
  obtain ⟨hev, htext, hnight, hclaims, hstate⟩ := applyMode_recorded s.busy rx.source f.text hcode
  obtain ⟨hlevel, ⟨hev', htext', hnight', hclaims'⟩, hemptied, hkept, htaken, hchanged, htexts, hsame, hframe⟩ :=
    settleMode_settled (s := s.busy) (r := s.busy.applyMode rx.source f.text code)
      (by rw [hstate]) (by rw [hstate]) (by rw [hstate]) (by rw [hstate]) (by rw [hstate])
  generalize (s.busy.applyMode rx.source f.text code).settleMode s.busy.mode = t at *
  generalize s.busy.applyMode rx.source f.text code = r at *
  rw [← hev', ← htext', ← hnight', ← hclaims'] at hstate
  refine ⟨t, hexec, hev'.trans hev, htext'.trans htext, hnight'.trans hnight, hclaims'.trans hclaims, ?_, hemptied, ?_,
    ⟨htaken.same, htaken.quiet, htaken.lamps⟩, ?_⟩
  · rw [hlevel, hev', hnight', hclaims']
    rfl
  · rw [hstate] at hkept
    exact hkept
  · intro recorded texts
    have hr : r = recorded := hstate
    have hsameTexts : r.mode.noticeText = s.busy.mode.noticeText ∧ r.mode.evacText = s.busy.mode.evacText ↔ texts := by
      rw [hr]
      rfl
    have hids : r.panelIds = s.panelIds := by rw [hr]; rfl
    rw [hsameTexts] at htexts hsame
    rw [hids] at htexts
    rw [hr] at hchanged htexts hsame hframe
    exact ⟨hchanged, htexts, hsame, hframe⟩

end

section
/-! PROOFS. The floor indication (05): windows and candidates, the switching position, hysteresis and direction, and the label
shown of an indicated landing. -/

namespace Sys2Proof.Machine

/-! ### Windows and candidates (R70, R74) -/

/-- Whether a landing's window among those from `i` to `top` holds Q. -/
def Image.windowHolds (c : Image) (low top : Nat) (q : Int) (k : Nat) : Prop :=
  low ≤ k ∧ k ≤ top ∧ (∀ i, low ≤ i → i < k → (c.boundary i : Int) ≤ q) ∧ (k < top → q < (c.boundary k : Int))

theorem candidateFrom_holds (c : Image) (q : Int) : ∀ n i, c.windowHolds i (i + n) q (candidateFrom c q n i)
  | 0, i => ⟨Nat.le_refl i, Nat.le_refl i, fun j hj hlt => absurd hlt (Nat.not_lt.mpr hj),
      fun h => absurd h (Nat.lt_irrefl i)⟩
  | n + 1, i => by
    unfold candidateFrom
    split
    · rename_i hq
      exact ⟨Nat.le_refl i, Nat.le_add_right i _, fun j hj hlt => absurd hlt (Nat.not_lt.mpr hj), fun _ => hq⟩
    · rename_i hq
      obtain ⟨hlow, htop, hbelow, habove⟩ := candidateFrom_holds c q n (i + 1)
      refine ⟨by omega, by omega, fun j hj hlt => ?_, fun h => habove (by omega)⟩
      by_cases hij : j = i
      · rw [hij]
        exact Int.not_lt.mp hq
      · exact hbelow j (by omega) hlt

/-- Q lies in one window only. -/
theorem windowHolds_unique {c : Image} {low top : Nat} {q : Int} {k k' : Nat} (h : c.windowHolds low top q k)
    (h' : c.windowHolds low top q k') : k = k' := by
  obtain ⟨hlow, htop, hbelow, habove⟩ := h
  obtain ⟨hlow', htop', hbelow', habove'⟩ := h'
  rcases Nat.lt_trichotomy k k' with hlt | heq | hlt
  · exact absurd (habove (by omega)) (Int.not_lt.mpr (hbelow' k hlow hlt))
  · exact heq
  · exact absurd (habove' (by omega)) (Int.not_lt.mpr (hbelow k' hlow' hlt))

theorem candidate_iff {c : Image} {row : CarRow} {q : Int} (h : row.lo ≤ row.hi) (k : Nat) :
    candidate c row q = k ↔ c.windowHolds row.lo row.hi q k := by
  have hholds : c.windowHolds row.lo row.hi q (candidate c row q) := by
    have hfrom := candidateFrom_holds c q (row.hi - row.lo) row.lo
    rwa [Nat.add_sub_cancel' h] at hfrom
  exact ⟨fun e => e ▸ hholds, windowHolds_unique hholds⟩

/-! ### The switching position (R71 to R73) -/

theorem spanClamp_eq {c : Image} {row : CarRow} (h : c.height row.lo ≤ c.height row.hi) (x : Int) :
    spanClamp c row x =
      if x < (c.height row.lo : Int) then (c.height row.lo : Int)
      else if (c.height row.hi : Int) < x then (c.height row.hi : Int) else x := by
  unfold spanClamp clampInt
  split
  · omega
  · split <;> omega

theorem spanClamp_idem (c : Image) (row : CarRow) (x : Int) : spanClamp c row (spanClamp c row x) = spanClamp c row x := by
  unfold spanClamp clampInt
  omega

theorem spanClamp_bounds {c : Image} {row : CarRow} (h : c.height row.lo ≤ c.height row.hi) (x : Int) :
    (c.height row.lo : Int) ≤ spanClamp c row x ∧ spanClamp c row x ≤ (c.height row.hi : Int) := by
  unfold spanClamp clampInt
  omega

theorem effectiveVelocity_eq (m : Motion) (v : Int) : effectiveVelocity m v =
    if (m = .runningUp ∧ 0 ≤ v) ∨ (m = .runningDown ∧ v ≤ 0) then v else 0 := by
  cases m with
  | runningUp =>
    simp only [effectiveVelocity, true_and, reduceCtorEq, false_and, or_false]
    split <;> split <;> omega
  | runningDown =>
    simp only [effectiveVelocity, true_and, reduceCtorEq, false_and, false_or]
    split <;> split <;> omega
  | parked => simp [effectiveVelocity]
  | levelling => simp [effectiveVelocity]
  | inspection => simp [effectiveVelocity]

/-- A car at rest switches where it stands. -/
theorem switching_of_atRest {c : Image} {row : CarRow} {r : CarRec} (h : r.motion = .parked ∨ r.motion = .levelling)
    (age : Nat) : switching c row r age = spanClamp c row r.pos := by
  have hzero : effectiveVelocity r.motion r.vel = 0 := by
    rw [effectiveVelocity_eq]
    rcases h with h | h <;> simp [h]
  have hadvance : extrapolated c row r age = spanClamp c row r.pos := by
    simp [extrapolated, hzero, advance]
  rcases h with h | h <;> simp only [switching, h, hadvance, spanClamp_idem]

/-- The switching position, with the lead of a running car ahead of it. -/
theorem switching_eq (c : Image) (row : CarRow) (r : CarRec) (age : Nat) : switching c row r age =
    spanClamp c row
      (if r.motion = .runningUp then extrapolated c row r age +
          (min c.gmax ((effectiveVelocity r.motion r.vel).natAbs * c.tlead / 1000) : Nat)
        else if r.motion = .runningDown then extrapolated c row r age -
          (min c.gmax ((effectiveVelocity r.motion r.vel).natAbs * c.tlead / 1000) : Nat)
        else extrapolated c row r age) := by
  unfold switching leadDistance
  cases r.motion <;> rfl

/-! ### The indication (R75 to R79) -/

theorem arrowOf_eq (m : Motion) (intent : Dir) : arrowOf m intent =
    if m = .runningUp then .up else if m = .runningDown then .down else if m = .inspection then .none else intent := by
  cases m <;> rfl

theorem atRest_iff {m : Motion} : m.atRest = true ↔ m = .parked ∨ m = .levelling := by
  cases m <;> simp [Motion.atRest]

theorem isRunning_iff {m : Motion} : m.isRunning = true ↔ m = .runningUp ∨ m = .runningDown := by
  cases m <;> simp [Motion.isRunning]

section indication
variable (c : Image) (row : CarRow) (r : CarRec) (age : Nat)

theorem indicationOf_of_report {l : Nat} (h : r.motion = .parked ∨ r.motion = .levelling) :
    indicationOf c row r age (some l) = l := by
  simp only [indicationOf, levelReport, atRest_iff.mpr h, if_true]

theorem indicationOf_of_none {report : Option Nat} (h : ¬ (r.motion = .parked ∨ r.motion = .levelling) ∨ report = none) :
    indicationOf c row r age report = stageFive c row r.motion r.indicated (switching c row r age) := by
  have hnone : levelReport r.motion report = none := by
    unfold levelReport
    rcases h with hmoves | hreport
    · rw [if_neg (mt atRest_iff.mp hmoves)]
    · rw [hreport, ite_self]
  simp only [indicationOf, hnone]

/-- A running car's indication does not move against its direction (R77). -/
theorem indicationOf_direction {report : Option Nat} {k : Nat} (hk : r.indicated = some k) :
    (r.motion = .runningUp → k ≤ indicationOf c row r age report) ∧
      (r.motion = .runningDown → indicationOf c row r age report ≤ k) := by
  have hstage (h : r.motion = .runningUp ∨ r.motion = .runningDown) : indicationOf c row r age report =
      restrictDirection r.motion k (hysteresis c (switching c row r age) k (candidate c row (switching c row r age))) := by
    rw [indicationOf_of_none c row r age (.inl (by rcases h with h | h <;> simp [h])), hk]
    rfl
  refine ⟨fun hup => ?_, fun hdown => ?_⟩
  · rw [hstage (.inl hup), hup]
    show k ≤ if _ then _ else _
    split <;> omega
  · rw [hstage (.inr hdown), hdown]
    show (if _ then _ else _) ≤ k
    split <;> omega

/-- From a current landing: hysteresis, and the restriction of a running car (R76, R77). -/
theorem restricted_hysteresis (m : Motion) (q : Int) (cur cand : Nat) :
    (cand = cur → restrictDirection m cur (hysteresis c q cur cand) = cur) ∧
    (cur < cand → restrictDirection m cur (hysteresis c q cur cand) =
      if (c.boundary (cand - 1) : Int) + c.hyst ≤ q ∧ m ≠ .runningDown then cand else cur) ∧
    (cand < cur → restrictDirection m cur (hysteresis c q cur cand) =
      if q < (c.boundary cand : Int) - c.hyst ∧ m ≠ .runningUp then cand else cur) := by
  refine ⟨fun h => ?_, fun h => ?_, fun h => ?_⟩
  · subst h
    have hsame : hysteresis c q cand cand = cand := by simp [hysteresis]
    rw [hsame]
    cases m <;> simp [restrictDirection]
  · by_cases hq : (c.boundary (cand - 1) : Int) + c.hyst ≤ q
    · have hmoved : hysteresis c q cur cand = cand := by simp [hysteresis, h, hq]
      rw [hmoved]
      cases m <;> simp [restrictDirection, hq, h, Nat.not_lt.mpr h.le]
    · have hstays : hysteresis c q cur cand = cur := by simp [hysteresis, h, hq]
      rw [hstays, if_neg fun hboth => hq hboth.1]
      cases m <;> simp [restrictDirection]
  · by_cases hq : q < (c.boundary cand : Int) - c.hyst
    · have hmoved : hysteresis c q cur cand = cand := by simp [hysteresis, h, hq, Nat.not_lt.mpr h.le]
      rw [hmoved]
      cases m <;> simp [restrictDirection, hq, h, Nat.not_lt.mpr h.le]
    · have hstays : hysteresis c q cur cand = cur := by simp [hysteresis, h, hq, Nat.not_lt.mpr h.le]
      rw [hstays, if_neg fun hboth => hq hboth.1]
      cases m <;> simp [restrictDirection]

end indication

/-! ### Labels (R81, R140) -/

theorem isExpress_iff {l : Landing} : l.isExpress = true ↔ l.drawsExpress := by
  simp [Landing.isExpress, Landing.drawsExpress]

theorem isHidden_iff {l : Landing} : l.isHidden = true ↔ l.drawsHidden := by
  simp [Landing.isHidden, Landing.drawsHidden]

/-- Places that a search for a visible landing passes over. -/
def Image.passesOver (c : Image) (z : Nat) : Prop := ∀ w, c.landings[z]? = some w → w.drawsHidden

theorem firstVisible_cons_of_passed {c : Image} {z : Nat} (h : c.passesOver z) (rest : List Nat) :
    firstVisible c (z :: rest) = firstVisible c rest := by
  rw [firstVisible]
  cases hz : c.landings[z]? with
  | none => rfl
  | some w => exact if_pos (isHidden_iff.mpr (h w hz))

theorem firstVisible_append_of_passed {c : Image} : ∀ {l : List Nat} (l' : List Nat), (∀ z ∈ l, c.passesOver z) →
    firstVisible c (l ++ l') = firstVisible c l'
  | [], _, _ => rfl
  | z :: l, l', h => (firstVisible_cons_of_passed (h z List.mem_cons_self) (l ++ l')).trans
      (firstVisible_append_of_passed l' fun y hy => h y (List.mem_cons_of_mem z hy))

/-- The first place of an ordered list that is not passed over. -/
theorem firstVisible_of_first {c : Image} {R : Nat → Nat → Prop} {y : Nat} {v : Landing}
    (hv : c.landings[y]? = some v) (hvisible : ¬ v.drawsHidden) : ∀ {l : List Nat} (l' : List Nat), l.Pairwise R → y ∈ l →
    (∀ z ∈ l, R z y → c.passesOver z) → firstVisible c (l ++ l') = v.form
  | [], _, _, hy, _ => nomatch hy
  | z :: l, l', hl, hy, hpass => by
    obtain ⟨hz, htail⟩ := List.pairwise_cons.mp hl
    by_cases hzy : z = y
    · subst hzy
      show firstVisible c (z :: (l ++ l')) = _
      unfold firstVisible
      rw [hv]
      exact if_neg (mt isHidden_iff.mp hvisible)
    · have hyl : y ∈ l := (List.mem_cons.mp hy).resolve_left (Ne.symm hzy)
      refine (firstVisible_cons_of_passed (hpass z List.mem_cons_self (hz y hyl)) (l ++ l')).trans ?_
      exact firstVisible_of_first hv hvisible l' htail hyl fun w hw => hpass w (List.mem_cons_of_mem z hw)

theorem form_of_express {l : Landing} (h : l.drawsExpress) : l.form = [0x03#8] := if_pos (isExpress_iff.mpr h)

theorem form_of_plain {l : Landing} (h : ¬ l.drawsExpress) : l.form = l.label := if_neg (mt isExpress_iff.mp h)

section nearest
variable {c : Image} {x : Nat}

theorem below_pairwise : (List.range x).reverse.Pairwise (fun z y => y < z) := by
  rw [List.pairwise_reverse]
  exact List.pairwise_lt_range

theorem nearestForm_of_below {y : Nat} {v : Landing} (hy : y < x) (hv : c.landings[y]? = some v)
    (hvisible : ¬ v.drawsHidden) (h : ∀ z, y < z → z < x → c.passesOver z) : nearestForm c x = v.form :=
  firstVisible_of_first hv hvisible _ below_pairwise (List.mem_reverse.mpr (List.mem_range.mpr hy)) fun z hz hyz =>
    h z hyz (List.mem_range.mp (List.mem_reverse.mp hz))

theorem nearestForm_of_above {y : Nat} {v : Landing} (hy : x < y) (hv : c.landings[y]? = some v)
    (hvisible : ¬ v.drawsHidden) (h : ∀ z, z < y → c.passesOver z) : nearestForm c x = v.form := by
  have hlt : y < c.landings.length := (List.getElem?_eq_some_iff.mp hv).1
  have hbelow : ∀ z ∈ (List.range x).reverse, c.passesOver z := fun z hz =>
    h z ((List.mem_range.mp (List.mem_reverse.mp hz)).trans hy)
  have hpairwise : ((List.range (c.landings.length - (x + 1))).map (fun i => x + 1 + i)).Pairwise (· < ·) :=
    List.pairwise_map.mpr (List.pairwise_lt_range.imp fun h => Nat.add_lt_add_left h (x + 1))
  have hmem : y ∈ (List.range (c.landings.length - (x + 1))).map (fun i => x + 1 + i) :=
    List.mem_map.mpr ⟨y - (x + 1), List.mem_range.mpr (by omega), by omega⟩
  have hfirst := firstVisible_of_first hv hvisible [] hpairwise hmem fun z _ hz => h z hz
  rw [List.append_nil] at hfirst
  exact (firstVisible_append_of_passed _ hbelow).trans hfirst

theorem nearestForm_of_none (h : ∀ z, c.passesOver z) : nearestForm c x = [] := by
  have hall := firstVisible_append_of_passed (c := c) (l := (List.range x).reverse ++
    (List.range (c.landings.length - (x + 1))).map (fun i => x + 1 + i)) [] fun z _ => h z
  rw [List.append_nil] at hall
  exact hall

theorem shownLabel_eq {l : Landing} (hl : c.landings[x]? = some l) (memory : Option Chars) : shownLabel c x memory =
    if l.isExpress then [0x03#8] else if l.isHidden then memory.getD (nearestForm c x) else l.label := by
  simp only [shownLabel, hl]
  cases memory <;> rfl

theorem shownLabel_shows (c : Image) (x : Nat) (memory : Option Chars) : c.showsLabel x memory (shownLabel c x memory) := by
  have hhidden {l : Landing} (hl : c.landings[x]? = some l) (he : ¬ l.drawsExpress) (hh : l.drawsHidden) :
      shownLabel c x memory = memory.getD (nearestForm c x) := by
    rw [shownLabel_eq hl, if_neg (mt isExpress_iff.mp he), if_pos (isHidden_iff.mpr hh)]
  refine ⟨fun l hl he => ?_, fun l hl he hh => ?_, fun l m hl he hh hm => ?_, fun l y v hl he hh hm hy hv hvis hpass => ?_,
    fun l y v hl he hh hm hy hv hvis hpass => ?_, fun l hl he hm hpass => ?_⟩
  · rw [shownLabel_eq hl, if_pos (isExpress_iff.mpr he)]
  · rw [shownLabel_eq hl, if_neg (mt isExpress_iff.mp he), if_neg (mt isHidden_iff.mp hh)]
  · rw [hhidden hl he hh, hm]
    rfl
  · rw [hhidden hl he hh, hm, Option.getD_none, nearestForm_of_below hy hv hvis fun z hyz hzx w => hpass z w hyz hzx]
    exact ⟨form_of_express, form_of_plain⟩
  · rw [hhidden hl he hh, hm, Option.getD_none, nearestForm_of_above hy hv hvis fun z hzy w => hpass z w hzy]
    exact ⟨form_of_express, form_of_plain⟩
  · rw [hhidden hl he (hpass x l hl), hm, Option.getD_none]
    exact nearestForm_of_none hpass

end nearest

end Sys2Proof.Machine

open Sys2Proof Sys2Proof.Machine

/-- Settles O20: windows hold Q once each (`candidate_iff`), the stages are their equations, and the label shown is that of
R81 (`shownLabel_shows`). -/
theorem indicationFollowsTheRun : Obligations.IndicationFollowsTheRun := by
  unfold Obligations.IndicationFollowsTheRun
  refine ⟨fun c i => ⟨rfl, fun l hl => by simp only [Image.height, hl]⟩, fun c row q h k => candidate_iff h k,
    fun c row r age h => ?_, fun c row intent age report r k hk => ?_, fun c row intent age report r => ?_⟩
  · intro low high inSpan velocity position lead
    have hspan (x : Int) : spanClamp c row x = inSpan x := spanClamp_eq h x
    have hvelocity : effectiveVelocity r.motion r.vel = velocity := effectiveVelocity_eq ..
    have hposition : extrapolated c row r age = position := by
      unfold extrapolated advance
      rw [hspan, hvelocity]
    have hlead : ((min c.gmax (velocity.natAbs * c.tlead / 1000) : Nat) : Int) = lead := by
      simp only [lead, Nat.cast_min, Nat.cast_mul, Int.natCast_ediv, Nat.cast_ofNat]
    have hswitching := switching_eq c row r age
    rw [hspan, hvelocity, hposition, hlead] at hswitching
    refine ⟨hswitching, ?_⟩
    rw [switching_eq]
    exact spanClamp_bounds h _
  · have hdir := indicationOf_direction c row r age (report := report) hk
    exact ⟨fun h => ⟨_, rfl, hdir.1 h⟩, fun h => ⟨_, rfl, hdir.2 h⟩⟩
  · intro q cand r' atRest
    refine ⟨fun l hrest hreport => ?_, fun h => ⟨fun hnone => ?_, fun cur hcur => ?_⟩, fun x hx => ?_, ?_⟩
    · subst hreport
      exact congrArg some (indicationOf_of_report c row r age hrest)
    · refine congrArg some ((indicationOf_of_none c row r age h).trans ?_)
      rw [hnone]
      rfl
    · have hstage : r'.indicated = some (restrictDirection r.motion cur (hysteresis c q cur cand)) := by
        refine congrArg some ((indicationOf_of_none c row r age h).trans ?_)
        rw [hcur]
        rfl
      obtain ⟨hsame, hup, hdown⟩ := restricted_hysteresis c r.motion q cur cand
      exact ⟨fun e => hstage.trans (congrArg some (hsame e)), fun e => hstage.trans (congrArg some (hup e)),
        fun e => hstage.trans (congrArg some (hdown e))⟩
    · obtain rfl := Option.some.inj hx
      exact ⟨⟨_, rfl, shownLabel_shows ..⟩, fun h => if_pos h, fun h => ⟨_, if_neg h, shownLabel_shows ..⟩⟩
    · rw [← arrowOf_eq]
      rfl

end

section
/-! PROOFS. The car state change event (R64 to R66, R90, R109 to R111): stop sets and pool after it, and a car record that is
stored with the event its items call for. -/

namespace Sys2Proof.Machine

/-! ### Stop sets (R90) -/

theorem CarDecks.set_get (ds : CarDecks) (d : Deck) : ds.set d (ds.get d) = ds := by
  cases d <;> rfl

theorem arrive_of_notMem {ds : CarDecks} {d : Deck} {l : Nat} (h : l ∉ (ds.get d).stops) : ds.arrive d l = ds := by
  have hkept : (ds.get d).stops.filter (fun x => x != l) = (ds.get d).stops :=
    List.filter_eq_self.mpr fun x hx => bne_iff_ne.mpr fun e => h (e ▸ hx)
  unfold CarDecks.arrive
  rw [hkept]
  exact CarDecks.set_get ds d

theorem decksOf_eq {s : State} {slot : Nat} {ds : CarDecks} (h : s.stops.decks[slot]? = some ds) :
    s.decksOf slot = ds := by
  simp only [State.decksOf, h, Option.getD_some]

/-- A change that leaves the slot's own records as they are. -/
theorem decks_modify_self {s : State} {slot : Nat} {f : CarDecks → CarDecks} (h : f (s.decksOf slot) = s.decksOf slot) :
    s.stops.decks.modify slot f = s.stops.decks := by
  refine List.ext_getElem? fun k => ?_
  rw [List.getElem?_modify]
  by_cases hk : slot = k
  · subst hk
    cases hds : s.stops.decks[slot]? with
    | none => rfl
    | some ds =>
      rw [decksOf_eq hds] at h
      simp [h]
  · simp [hk]

theorem stops_of_forQuiet {s t : State} (h : t.forQuiet = s.forQuiet) : t.stops = s.stops := (congrArg State.stops h :)

theorem removeStop_of_mem {s : State} {slot l : Nat} {d : Deck} (h : l ∈ ((s.decksOf slot).get d).stops) :
    s.removeStop slot d l = (s.setDecks slot (fun ds => ds.arrive d l)).contentChanges (s.carPanelsOf slot d) :=
  if_pos (List.contains_iff_mem.mpr h)

theorem removeStop_of_notMem {s : State} {slot l : Nat} {d : Deck} (h : l ∉ ((s.decksOf slot).get d).stops) :
    s.removeStop slot d l = s := if_neg (mt List.contains_iff_mem.mp h)

theorem removeStop_stops (slot : Nat) (d : Deck) (l : Nat) (s : State) : (s.removeStop slot d l).stops =
    { s.stops with decks := s.stops.decks.modify slot (fun ds => ds.arrive d l) } := by
  by_cases h : l ∈ ((s.decksOf slot).get d).stops
  · rw [removeStop_of_mem h]
    exact stops_of_forQuiet (contentChanges_forQuiet _ (s.setDecks slot (fun ds => ds.arrive d l)))
  · rw [removeStop_of_notMem h, decks_modify_self (arrive_of_notMem h)]

/-- The stop sets of a car once its decks have left several landings behind. -/
theorem removeStops_stops (slot : Nat) (arrivals : List (Deck × Nat)) (s : State) :
    (arrivals.foldl (fun (s : State) a => s.removeStop slot a.1 a.2) s).stops =
      { s.stops with decks := s.stops.decks.modify slot (fun ds => ds.arrived arrivals) } := by
  induction arrivals generalizing s with
  | nil =>
    have hsame : s.stops.decks.modify slot (fun ds => ds.arrived []) = s.stops.decks := decks_modify_self rfl
    rw [hsame]
    rfl
  | cons a arrivals ih =>
    rw [List.foldl_cons, ih, removeStop_stops]
    dsimp only
    rw [List.modify_modify_eq]
    rfl

theorem chime_forQuiet (n : Nat) (d : Dir) (s : State) : (s.chime n d).forQuiet = s.forQuiet :=
  forQuiet_of_forShow (chime_forShow n d s)

/-- A move of a lantern record sets that record and no stop set. -/
theorem applyMove_stops (place : Nat) (m : LanternMove) (s : State) : (s.applyMove place m).stops =
    { s.stops with lanterns := s.stops.lanterns.set place m.record } := by
  have hquiet : (s.applyMove place m).forQuiet = ({ s with
      stops := { s.stops with lanterns := s.stops.lanterns.set place m.record } } : State).forQuiet := by
    unfold State.applyMove
    dsimp only
    repeat' split
    all_goals simp only [contentChange_forQuiet, chime_forQuiet, wake_forQuiet]
  exact stops_of_forQuiet hquiet

theorem evaluateLantern_decks (car : CarRow) (slot : Nat) (arrivals : List (Deck × Nat)) (place : Nat) (s : State) :
    (s.evaluateLantern car slot arrivals place).stops.decks = s.stops.decks := by
  unfold State.evaluateLantern
  dsimp only
  repeat' split
  all_goals first
    | rfl
    | rw [applyMove_stops]

theorem evaluateLanterns_decks (slot : Nat) (arrivals : List (Deck × Nat)) (s : State) :
    (s.evaluateLanterns slot arrivals).stops.decks = s.stops.decks := by
  unfold State.evaluateLanterns
  split
  · rfl
  · exact forEach_keeps (fun t => t.stops.decks) _ (fun place t => evaluateLantern_decks _ slot arrivals place t) _ s

theorem stopsCarEvent_decks (slot : Nat) (arrivals : List (Deck × Nat)) (s : State) :
    (s.stopsCarEvent slot arrivals).stops.decks = s.stops.decks.modify slot (fun ds => ds.arrived arrivals) := by
  unfold State.stopsCarEvent
  rw [evaluateLanterns_decks, removeStops_stops]

/-! ### The pool (R109 to R111) -/

/-- What an event does to an entry depends on the copy and the clock alone. -/
theorem promptAfter_congr {s t : State} (hl : t.loader = s.loader) (hc : t.cycle = s.cycle) (car : CarRow) (slot : Nat)
    (old new : CarRec) : t.promptAfter car slot old new = s.promptAfter car slot old new := by
  have hrow (n : Nat) : t.row n = s.row n := by simp only [State.row, hl]
  have htiming (row : PanelRow) : t.timing row = s.timing row := by simp only [State.timing, hl]
  have hheld (st : PromptState) (p : Prompt) : t.held st p = s.held st p := by
    simp only [State.held, State.holdOf, State.now, hrow, htiming, hc]
  have hboards (p : Prompt) : t.boards car slot old new p = s.boards car slot old new p := by
    simp only [State.boards, State.matchesArrival, hrow]
  funext p
  simp only [State.promptAfter, hheld, hboards]

theorem promptTouched_congr {s t : State} (hl : t.loader = s.loader) (car : CarRow) (slot : Nat) (old new : CarRec) :
    t.promptTouched car slot old new = s.promptTouched car slot old new := by
  have hrow (n : Nat) : t.row n = s.row n := by simp only [State.row, hl]
  funext p
  simp only [State.promptTouched, State.boards, State.matchesArrival, hrow]

theorem promptsCarEvent_eq (car : CarRow) (slot : Nat) (old new : CarRec) (s : State) :
    s.promptsCarEvent car slot old new =
      ({ s with prompts := { s.prompts with
          pool := s.prompts.pool.filterMap (s.promptAfter car slot old new) } } : State).reportAll none
        (s.panelIds.filter ((s.prompts.pool.filter (s.promptTouched car slot old new)).map (·.panel)).contains) := by
  unfold State.promptsCarEvent
  dsimp only
  rw [any_panel_eq]
  rfl

theorem promptsCarEvent_pool (car : CarRow) (slot : Nat) (old new : CarRec) (s : State) :
    (s.promptsCarEvent car slot old new).prompts.pool = s.prompts.pool.filterMap (s.promptAfter car slot old new) := by
  rw [promptsCarEvent_eq, reportAll_pool]

/-! ### The event (R64 to R66) -/

theorem copyAndCycle_of_forLanterns {s t : State} (h : t.forLanterns = s.forLanterns) :
    t.loader = s.loader ∧ t.cycle = s.cycle ∧ t.prompts = s.prompts := by
  rw [eq_of_forLanterns h]
  exact ⟨rfl, rfl, rfl⟩

section event
variable {s : State} {slot : Nat} {car : CarRow} (hr : s.carRow slot = some car) (old new : CarRec) (arrows : Bool)

/-- The state in which the wakes of an event have been taken and the stops and lantern unit has seen it. -/
def State.carEventShown (s : State) (slot : Nat) (car : CarRow) (old new : CarRec) : State :=
  (s.wakes (s.panelsWhere (wokenBy car slot old new))).stopsCarEvent slot (arrivalsOf car old new)

theorem carEventShown_forLanterns (s : State) (slot : Nat) (car : CarRow) (old new : CarRec) :
    (s.carEventShown slot car old new).forLanterns = s.forLanterns := by
  unfold State.carEventShown
  rw [stopsCarEvent_forLanterns]
  exact forLanterns_of_forQuiet (wakes_forQuiet _ s)

include hr

theorem raiseCarEvent_eq : s.raiseCarEvent slot old new arrows =
    if contentDiffers old new arrows then
      ((s.carEventShown slot car old new).promptsCarEvent car slot old new).contentChanges
        (((s.carEventShown slot car old new).promptsCarEvent car slot old new).carPanels slot)
    else (s.carEventShown slot car old new).promptsCarEvent car slot old new := by
  simp only [State.raiseCarEvent, hr]
  rfl

theorem raiseCarEvent_forShow : (s.raiseCarEvent slot old new arrows).forShow =
    ((s.carEventShown slot car old new).promptsCarEvent car slot old new).forShow := by
  rw [raiseCarEvent_eq hr]
  split
  · exact contentChanges_forShow _ _
  · rfl

theorem raiseCarEvent_decks : (s.raiseCarEvent slot old new arrows).stops.decks =
    s.stops.decks.modify slot (fun ds => ds.arrived (arrivalsOf car old new)) := by
  have hshow := raiseCarEvent_forShow hr old new arrows
  have hprompts := promptsCarEvent_forPrompts car slot old new (s.carEventShown slot car old new)
  have hwakes := wakes_forQuiet (s.panelsWhere (wokenBy car slot old new)) s
  calc (s.raiseCarEvent slot old new arrows).stops.decks
      = ((s.carEventShown slot car old new).promptsCarEvent car slot old new).stops.decks :=
        (congrArg (fun u => u.stops.decks) hshow :)
    _ = (s.carEventShown slot car old new).stops.decks := (congrArg (fun u => u.stops.decks) hprompts :)
    _ = s.stops.decks.modify slot (fun ds => ds.arrived (arrivalsOf car old new)) := by
        rw [State.carEventShown, stopsCarEvent_decks, stops_of_forQuiet hwakes]

theorem raiseCarEvent_pool : (s.raiseCarEvent slot old new arrows).prompts.pool =
    s.prompts.pool.filterMap (s.promptAfter car slot old new) := by
  have hshow := raiseCarEvent_forShow hr old new arrows
  obtain ⟨hloader, hcycle, hprompts⟩ := copyAndCycle_of_forLanterns (carEventShown_forLanterns s slot car old new)
  have hpool : (s.raiseCarEvent slot old new arrows).prompts.pool =
      ((s.carEventShown slot car old new).promptsCarEvent car slot old new).prompts.pool :=
    (congrArg (fun u => u.prompts.pool) hshow :)
  rw [hpool, promptsCarEvent_pool, hprompts, promptAfter_congr hloader hcycle]

omit hr in
theorem raiseCarEvent_cars : (s.raiseCarEvent slot old new arrows).cars = s.cars :=
  (congrArg State.cars (raiseCarEvent_forCar slot old new arrows s) :)

end event

/-! ### A change without motion, doors and level (R65) -/

theorem openAt_congr {old new : CarRec} (hm : new.motion = old.motion) (hl : new.level = old.level)
    (hd : new.doorLower = old.doorLower) (hu : new.doorUpper = old.doorUpper) (row : CarRow) (d : Deck) :
    new.openAt row d = old.openAt row d := by
  have hdoor : new.door d = old.door d := by cases d <;> assumption
  simp only [CarRec.openAt, CarRec.levelAt, hm, hl, hdoor]

section still
variable {old new : CarRec} (hm : new.motion = old.motion) (hl : new.level = old.level)
  (hd : new.doorLower = old.doorLower) (hu : new.doorUpper = old.doorUpper)
include hm hl hd hu

theorem arrivalOf_of_still (row : CarRow) (d : Deck) : arrivalOf row old new d = none := by
  unfold arrivalOf
  rw [openAt_congr hm hl hd hu]
  cases old.openAt row d with
  | none => rfl
  | some l => exact if_pos rfl

theorem arrivalsOf_of_still (row : CarRow) : arrivalsOf row old new = [] := by
  simp [arrivalsOf, arrivalOf_of_still hm hl hd hu]

theorem promptAfter_of_still (s : State) (row : CarRow) (slot : Nat) (p : Prompt) :
    s.promptAfter row slot old new p =
      if p.slot = slot ∧ reassigns old new = true ∧ p.state ≠ .reassign then some (s.held .reassign p) else some p := by
  have hdeparts : departs old new = false := by
    unfold departs
    rw [hm]
    cases old.motion.isRunning <;> rfl
  have hboards : s.boards row slot old new p = false := by
    simp [State.boards, arrivalOf_of_still hm hl hd hu]
  by_cases hslot : p.slot = slot <;> simp [State.promptAfter, hslot, hdeparts, hboards]

end still

/-! ### A record stored (R64) -/

theorem items_iff {old new : CarRec} : old.items = new.items ↔ ¬ old.differs new := by
  simp only [CarRec.items, CarRec.differs, CarItems.mk.injEq, not_or, not_not, ne_eq]

theorem arrowFor_upper (r : CarRec) (ds : CarDecks) : r.arrowFor ds .upper = r.upperArrow ds.upper.intent := by
  unfold CarRec.arrowFor CarRec.upperArrow
  simp only [atRest_iff]

theorem upperArrowDiffers_iff {car : CarRow} {ds : CarDecks} {old new : CarRec} :
    upperArrowDiffers car ds old new = true ↔
      car.step ≠ 0 ∧ old.upperArrow ds.upper.intent ≠ new.upperArrow ds.upper.intent := by
  simp [upperArrowDiffers, arrowFor_upper]

/-- What storing a car record brings, the record before it being `old`. -/
structure StoredCar (s : State) (slot : Nat) (row : CarRow) (old new : CarRec) (t : State) : Prop where
  cars : t.cars = s.cars.set slot new
  decks : t.stops.decks = s.stops.decks.modify slot (fun ds => ds.arrived (arrivalsOf row old new))
  pool : t.prompts.pool = s.prompts.pool.filterMap (s.promptAfter row slot old new)
  event : (s.setCar slot new).eventTaken slot row (s.decksOf slot).upper.intent old new t
  frame : t = (s.setCar slot new).carMoved t

theorem filterMap_promptAfter_of_same {s : State} {row : CarRow} {slot : Nat} {old new : CarRec}
    (h : old.items = new.items) : s.prompts.pool.filterMap (s.promptAfter row slot old new) = s.prompts.pool := by
  simp only [CarRec.items, CarItems.mk.injEq] at h
  obtain ⟨htracking, hservice, hmotion, hlevel, hlower, hupper, -, -, -, -⟩ := h
  have hreassigns : reassigns old new = false := by
    simp [reassigns, htracking, hservice]
  have hid : s.promptAfter row slot old new = some := by
    funext p
    rw [promptAfter_of_still hmotion.symm hlevel.symm hlower.symm hupper.symm, hreassigns]
    simp
  rw [hid, List.filterMap_some]

theorem updateCar_stored {s : State} {slot : Nat} {row : CarRow} (hr : s.carRow slot = some row) (new : CarRec) :
    StoredCar s slot row (s.carRec slot) new (s.updateCar slot row new) := by
  have hframe := eq_of_forCar (updateCar_forCar slot row new s)
  have hcars : (s.updateCar slot row new).cars = s.cars.set slot new := by
    rw [hframe]
    rfl
  have hrow : (s.setCar slot new).carRow slot = some row := hr
  by_cases hsame : (s.carRec slot).items = new.items
  · have hstored : s.updateCar slot row new = s.setCar slot new := if_pos hsame
    have hitems := hsame
    simp only [CarRec.items, CarItems.mk.injEq] at hitems
    obtain ⟨-, -, hmotion, hlevel, hlower, hupper, -, -, -, -⟩ := hitems
    refine ⟨hcars, ?_, ?_, ⟨fun hdiffers => absurd hdiffers (items_iff.mp hsame), fun _ => hstored⟩, hframe⟩
    · rw [hstored, arrivalsOf_of_still hmotion.symm hlevel.symm hlower.symm hupper.symm]
      exact (decks_modify_self (f := fun ds => ds.arrived []) rfl).symm
    · rw [hstored, filterMap_promptAfter_of_same hsame]
      rfl
  · have hevent : s.updateCar slot row new = (s.setCar slot new).raiseCarEvent slot (s.carRec slot) new
        (upperArrowDiffers row (s.decksOf slot) (s.carRec slot) new) := if_neg hsame
    refine ⟨hcars, ?_, ?_, ⟨fun _ => ⟨_, upperArrowDiffers_iff, hevent⟩, fun hnot => absurd (items_iff.mpr hnot) hsame⟩,
      hframe⟩
    · rw [hevent, raiseCarEvent_decks hrow]
      rfl
    · rw [hevent, raiseCarEvent_pool hrow]
      rfl

end Sys2Proof.Machine
end

section
/-! PROOFS. Car frames and the indication timer (R52 to R58, R63): each stores a record and takes its event. -/

namespace Sys2Proof.Machine

/-! ### A record stored on top of a frame's reception -/

theorem storedCar_of_eq {s t : State} {slot : Nat} {row : CarRow} {new : CarRec} (hr : s.carRow slot = some row)
    (ht : t = s.updateCar slot row new) : StoredCar s slot row (s.carRec slot) new t :=
  ht ▸ updateCar_stored hr new

theorem setCar_carRec {s : State} {slot : Nat} {r : CarRec} (hr : s.cars[slot]? = some r) : s.setCar slot r = s := by
  have hsame : s.cars.set slot r = s.cars := by
    refine List.ext_getElem? fun k => ?_
    rw [List.getElem?_set]
    split
    · next e =>
      rw [← e, hr]
      exact if_pos (List.getElem?_eq_some_iff.mp hr).1
    · rfl
  unfold State.setCar
  rw [hsame]

theorem getElem?_carRec {s : State} {slot : Nat} (h : slot < s.cars.length) : s.cars[slot]? = some (s.carRec slot) := by
  unfold State.carRec
  rw [List.getElem?_eq_getElem h, Option.getD_some]

theorem updateCar_self {s : State} {slot : Nat} (h : slot < s.cars.length) (row : CarRow) :
    s.updateCar slot row (s.carRec slot) = s :=
  (if_pos rfl).trans (setCar_carRec (getElem?_carRec h))

/-- The pool after a change of tracking or service alone: what is shown or boards becomes REASSIGN when the car is no longer
one that serves (R111). -/
theorem StoredCar.still {s t : State} {slot : Nat} {row : CarRow} {old new : CarRec} (h : StoredCar s slot row old new t)
    (hm : new.motion = old.motion) (hl : new.level = old.level) (hd : new.doorLower = old.doorLower)
    (hu : new.doorUpper = old.doorUpper) :
    t.stops.decks = s.stops.decks ∧
      t.prompts.pool = s.prompts.pool.map (fun p =>
        if p.slot = slot ∧ reassigns old new = true ∧ p.state ≠ .reassign then s.held .reassign p else p) := by
  constructor
  · rw [h.decks, arrivalsOf_of_still hm hl hd hu]
    exact decks_modify_self (f := fun ds => ds.arrived []) rfl
  · have hmap : s.promptAfter row slot old new = fun p => some
        (if p.slot = slot ∧ reassigns old new = true ∧ p.state ≠ .reassign then s.held .reassign p else p) := by
      funext p
      rw [promptAfter_of_still hm hl hd hu]
      exact (apply_ite some _ _ _).symm
    rw [h.pool, hmap]
    exact congrFun List.filterMap_eq_map' s.prompts.pool

theorem held_reassign (s : State) (p : Prompt) : s.held .reassign p = { p with
    state := .reassign, expiry := s.cycle.clock + BitVec.ofNat 32 (s.holdOf p.panel .reassign p.access) } := rfl

/-! ### CAR SERVICE (R58) -/

theorem carServiceTaken_eq {s : State} {slot : Nat} {row : CarRow} (hr : s.carRow slot = some row) {code : Byte}
    {st : Service} (hst : decodeService code = some st) :
    s.carServiceTaken slot code = s.updateCar slot row { s.carRec slot with service := st } := by
  simp only [State.carServiceTaken, hr, hst]

theorem reassigns_service {r : CarRec} {st : Service} (h : st ≠ r.service) :
    reassigns r { r with service := st } = true ↔ r.service = .normal := by
  have hreassigns : reassigns r { r with service := st } = (r.service == .normal && st != .normal) := by
    unfold reassigns
    cases r.tracking <;> simp
  rw [hreassigns]
  constructor
  · intro hboth
    simp only [Bool.and_eq_true, beq_iff_eq] at hboth
    exact hboth.1
  · intro hnormal
    simp only [hnormal, beq_self_eq_true, Bool.true_and, bne_iff_ne]
    exact fun e => h (e.trans hnormal.symm)

/-! ### Evaluations and the timer (R63, R69) -/

theorem timerRuns_eq (r : CarRec) : r.timerRuns = true ↔
    r.tracking = .tracked ∧ r.anchor = true ∧ (r.motion = .runningUp ∨ r.motion = .runningDown) := by
  simp only [CarRec.timerRuns, Bool.and_eq_true, beq_iff_eq, isRunning_iff, and_assoc]

theorem settleTimer_eq (start : Clock) (r : CarRec) : r.settleTimer start =
    { r with
      timer := if r.tracking = .tracked ∧ r.anchor = true ∧ (r.motion = .runningUp ∨ r.motion = .runningDown) then
        some (r.timer.getD (start + 100)) else none } := by
  unfold CarRec.settleTimer
  simp only [timerRuns_eq]
  cases r.timer <;> rfl

theorem evaluable_iff {r : CarRec} : r.evaluable = true ↔ r.tracking = .tracked ∧ r.anchor = true := by
  simp only [CarRec.evaluable, Bool.and_eq_true, beq_iff_eq]

/-- A frame evaluation of an anchored record. -/
theorem frameEvaluated_eq (s : State) (slot : Nat) (row : CarRow) (report : Option Nat) {r : CarRec}
    (ha : r.anchor = true) : s.frameEvaluated slot row report r =
      if r.tracking = .tracked then r.evaluated s.loader.copy row (s.decksOf slot).lower.intent 0 report else r := by
  simp only [State.frameEvaluated, evaluable_iff, ha, and_true]

/-- What an evaluation does not set. -/
theorem frameEvaluated_kept (s : State) (slot : Nat) (row : CarRow) (report : Option Nat) (r : CarRec) :
    (s.frameEvaluated slot row report r).tracking = r.tracking ∧
      (s.frameEvaluated slot row report r).anchor = r.anchor ∧
      (s.frameEvaluated slot row report r).motion = r.motion ∧
      (s.frameEvaluated slot row report r).timer = r.timer := by
  unfold State.frameEvaluated
  split <;> exact ⟨rfl, rfl, rfl, rfl⟩

/-- A frame evaluation with the timer settled, of an anchored record. -/
theorem frameSettled_eq (s : State) (slot : Nat) (row : CarRow) (report : Option Nat) {r : CarRec} (mark : Clock)
    (ha : r.anchor = true) : (s.frameEvaluated slot row report r).settleTimer mark =
      { (if r.tracking = .tracked then r.evaluated s.loader.copy row (s.decksOf slot).lower.intent 0 report else r) with
        timer := if r.tracking = .tracked ∧ (r.motion = .runningUp ∨ r.motion = .runningDown) then
          some (r.timer.getD (mark + 100)) else none } := by
  obtain ⟨htracking, hanchor, hmotion, htimer⟩ := frameEvaluated_kept s slot row report r
  rw [settleTimer_eq, ← frameEvaluated_eq s slot row report ha]
  simp only [htracking, hanchor, hmotion, htimer, ha, true_and]

/-! ### CAR STEP (R54 to R56) -/

section step
variable {s : State} {slot : Nat} {row : CarRow} (hr : s.carRow slot = some row) {f : StepFrame} {m : Motion}
  (hm : decodeMotion f.motion = some m) (mark : Clock)
include hr hm

theorem carStepTaken_unanchored (ha : (s.carRec slot).anchor = false) :
    s.carStepTaken slot mark f = (s.count .unanchoredSteps).setCar slot { s.carRec slot with heard := true } := by
  simp only [State.carStepTaken, hr, hm, ha, if_true]

theorem carStepTaken_inRange (ha : (s.carRec slot).anchor = true)
    (hsum : 0 ≤ ((s.carRec slot).pos : Int) + f.delta.toInt ∧ ((s.carRec slot).pos : Int) + f.delta.toInt ≤ 1048575) :
    s.carStepTaken slot mark f = s.updateCar slot row
      ((s.frameEvaluated slot row none ((s.carRec slot).withStep (((s.carRec slot).pos : Int) + f.delta.toInt).toNat
        (decodeVelocity f.velocity) m mark)).settleTimer mark) := by
  simp only [State.carStepTaken, hr, hm, ha, Bool.true_eq_false, if_false]
  exact if_pos hsum

theorem carStepTaken_clamped (ha : (s.carRec slot).anchor = true)
    (hsum : ¬ (0 ≤ ((s.carRec slot).pos : Int) + f.delta.toInt ∧ ((s.carRec slot).pos : Int) + f.delta.toInt ≤ 1048575)) :
    s.carStepTaken slot mark f = (s.raise (.positionRange slot)).updateCar slot row
      { (s.carRec slot).withStep (if ((s.carRec slot).pos : Int) + f.delta.toInt < 0 then 0 else 1048575)
          (decodeVelocity f.velocity) m mark with anchor := false, timer := none } := by
  simp only [State.carStepTaken, hr, hm, ha, Bool.true_eq_false, if_false]
  refine (if_neg hsum).trans ?_
  rw [settleTimer_eq]
  simp only [Bool.false_eq_true, false_and, and_false, if_false]
  rfl

end step

/-! ### CAR MOTION (R52, R53) -/

theorem trackingAfterMotion_eq (t : Tracking) (silence : Nat) : trackingAfterMotion t silence =
    if t = .unknown then (if silence ≤ 2 then .tracked else .stale) else t := by
  cases t <;> simp [trackingAfterMotion]

/-- How often FIELD_RANGE is counted for a CAR MOTION frame that is not refused (R52). -/
def motionFaults (row : CarRow) (f : MotionFrame) : Nat :=
  (if 1048575 < f.position.toNat then 1 else 0) +
    (if f.level ≠ 255 ∧ ¬ (row.lo ≤ f.level.toNat ∧ f.level.toNat ≤ row.hi) then 1 else 0)

/-- The reported level of a CAR MOTION frame, when it is a landing that the car serves (R52). -/
def motionLevel (row : CarRow) (f : MotionFrame) : Option Nat :=
  if f.level ≠ 255 ∧ row.lo ≤ f.level.toNat ∧ f.level.toNat ≤ row.hi then some f.level.toNat else none

theorem decodeMotionFrame_eq {row : CarRow} {f : MotionFrame} {m : Motion} {lower upper : Door}
    (hm : decodeMotion f.motion = some m) (hlower : decodeDoor (f.doors.toNat % 16) = some lower)
    (hupper : if row.step = 0 then upper = .closed else decodeDoor (f.doors.toNat / 16) = some upper) :
    decodeMotionFrame row f = some
      { pos := min 1048575 f.position.toNat, vel := max (-16000) (min 16000 f.velocity.toInt), motion := m,
        level := motionLevel row f, doorLower := lower, doorUpper := upper, ranged := motionFaults row f } := by
  have hdoor : (if row.step = 0 then some Door.closed else decodeDoor (f.doors.toNat / 16)) = some upper := by
    split at hupper
    · next hzero => rw [if_pos hzero, hupper]
    · next hstep => rw [if_neg hstep, hupper]
  have hbyte : f.level.toNat ≠ 255 ↔ f.level ≠ 255 := by
    rw [ne_eq, ne_eq, ← BitVec.toNat_inj]
    rfl
  have hin : (row.lo ≤ f.level.toNat && f.level.toNat ≤ row.hi) = true ↔
      row.lo ≤ f.level.toNat ∧ f.level.toNat ≤ row.hi := by
    rw [Bool.and_eq_true, decide_eq_true_iff, decide_eq_true_iff]
  have hout : (row.lo ≤ f.level.toNat && f.level.toNat ≤ row.hi) = false ↔
      ¬ (row.lo ≤ f.level.toNat ∧ f.level.toNat ≤ row.hi) := by
    rw [← hin, Bool.not_eq_true]
  simp only [decodeMotionFrame, hm, hlower, hdoor, hbyte, hin, hout]
  rfl

theorem counted_zero_of_le {n : Nat} (h : n ≤ 65535) : counted n 0 = n := by
  unfold counted
  omega

/-- Whether a CAR MOTION frame disagrees with the position on the landing of the car (R78). -/
theorem levelDisagrees_iff {c : Image} {row : CarRow} {r : CarRec} {report : Option Nat}
    (hreport : ∀ l, report = some l → row.lo ≤ l ∧ l ≤ row.hi) :
    levelDisagrees c row r 0 report = true ↔ (r.motion = .parked ∨ r.motion = .levelling) ∧
      ∃ l, report = some l ∧ ¬ c.windowHolds row.lo row.hi (spanClamp c row r.pos) l := by
  by_cases hrest : r.motion = .parked ∨ r.motion = .levelling
  · cases report with
    | none => simp [levelDisagrees, levelReport]
    | some l =>
      obtain ⟨hlo, hhi⟩ := hreport l rfl
      have hwindow := candidate_iff (c := c) (row := row) (q := spanClamp c row r.pos) (hlo.trans hhi) l
      simp only [levelDisagrees, levelReport, atRest_iff.mpr hrest, if_true, switching_of_atRest hrest, bne_iff_ne,
        Option.some.injEq, exists_eq_left', hrest, true_and, ← hwindow, ne_eq]
      exact not_congr eq_comm
  · have hmoves : levelReport r.motion report = none := if_neg (mt atRest_iff.mp hrest)
    simp only [levelDisagrees, hmoves, hrest, false_and, Bool.false_eq_true]

end Sys2Proof.Machine

open Sys2Proof Sys2Proof.Machine

/-- Settles O17: the record takes the service state; with the state it had nothing differs, and with another the event finds
no arrival, and converts the pool when the old state was NORMAL. -/
theorem carServiceSetsTheState : Obligations.CarServiceSetsTheState := by
  intro s rx car service slot row st hh hk hst
  have hexec : exec (.carService rx car service) s =
      .next (s.busy.updateCar slot row { s.carRec slot with service := st }) := by
    rw [exec_carService hh hk, carServiceTaken_eq (carRow_of hk) hst]
    rfl
  refine ⟨fun hsame => ?_, fun hnew => ?_⟩
  · rw [hexec, hsame]
    exact congrArg _ (updateCar_self (s := s.busy) hk.2.2 row)
  · have hstored := updateCar_stored (carRow_of hk) { s.carRec slot with service := st }
    obtain ⟨hdecks, hpool⟩ := hstored.still rfl rfl rfl rfl
    have hcars : (s.busy.updateCar slot row { s.carRec slot with service := st }).cars =
        s.cars.set slot { s.carRec slot with service := st } := hstored.cars
    refine ⟨_, hexec, hcars, ?_, hdecks, ?_⟩
    · rw [hpool]
      refine List.map_congr_left fun p _ => ?_
      have hcond : (p.slot = slot ∧ reassigns (s.busy.carRec slot) { s.carRec slot with service := st } = true ∧
          p.state ≠ .reassign) ↔ ((s.carRec slot).service = .normal ∧ p.slot = slot ∧ p.state ≠ .reassign) := by
        rw [and_left_comm]
        exact and_congr_left' (reassigns_service hnew)
      simp only [hcond]
      rfl
    · rw [hcars]
      exact ⟨hstored.event, hstored.frame⟩

/-- Settles O19: the sum of position and delta decides between an evaluated record and a clamped one without anchor; each
is stored with its event. -/
theorem carStepMovesThePosition : Obligations.CarStepMovesThePosition := by
  refine ⟨?_, ?_⟩
  · intro s rx f slot row m hh hk hm ha
    dsimp only
    have hrow := carRow_of hk
    by_cases hsum : 0 ≤ ((s.carRec slot).pos : Int) + f.delta.toInt ∧
        ((s.carRec slot).pos : Int) + f.delta.toInt ≤ 1048575
    · have htaken := carStepTaken_inRange hrow hm s.frameMark ha hsum
      rw [frameSettled_eq (r := (s.busy.carRec slot).withStep _ _ _ _) _ _ _ _ _ ha] at htaken
      have hstored := storedCar_of_eq hrow htaken
      refine ⟨_, exec_carStep hh hk, ?_, ?_, ?_, rfl, fun _ _ => ?_, fun hout => absurd hsum (by omega)⟩
      · rw [if_pos hsum]
        exact hstored.cars
      · rw [if_pos hsum]
        exact hstored.decks
      · rw [if_pos hsum]
        exact hstored.pool
      · rw [if_pos hsum, hstored.cars]
        exact ⟨hstored.event, hstored.frame⟩
    · have htaken := carStepTaken_clamped hrow hm s.frameMark ha hsum
      have hstored := storedCar_of_eq (s := s.busy.raise (.positionRange slot)) hrow htaken
      refine ⟨_, exec_carStep hh hk, ?_, ?_, ?_, rfl, fun h0 h1 => absurd ⟨h0, h1⟩ hsum, fun _ => ?_⟩
      · rw [if_neg hsum]
        exact hstored.cars
      · rw [if_neg hsum]
        exact hstored.decks
      · rw [if_neg hsum]
        exact hstored.pool
      · rw [if_neg hsum, hstored.cars]
        exact ⟨hstored.event, hstored.frame⟩
  · intro s rx f slot row hh hk hcode ha
    obtain ⟨m, hm⟩ := decodeMotion_some hcode
    rw [exec_carStep hh hk, carStepTaken_unanchored (carRow_of hk) hm s.frameMark ha]
    rfl

/-- Settles O41: the timed evaluation keeps motion, level, doors, tracking and service, so its event has no arrival and
converts nothing. -/
theorem indicationTimerExpires : Obligations.IndicationTimerExpires := by
  intro s slot row r e hl hrow hr he hdue ht ha
  dsimp only
  have hrec : s.carRec slot = r := by rw [State.carRec, hr, Option.getD_some]
  have hdue' : s.indicationDue slot = true := (indicationDue_iff.mpr ⟨r, e, hr, he, of_decide_eq_true hdue⟩).2
  have hexpiry : s.indicationExpiry slot = s.updateCar slot row
      { r.evaluated s.loader.copy row (s.decksOf slot).lower.intent (min s.loader.copy.amax (s.cycle.clock - r.mark).toNat)
          none with timer := some (e + 100) } := by
    have hcar : s.carRow slot = some row := hrow
    have hevaluated : s.timedEvaluated slot row r = r.evaluated s.loader.copy row (s.decksOf slot).lower.intent
        (s.ageOf r) none := if_pos (evaluable_iff.mpr ⟨ht, ha⟩)
    simp only [State.indicationExpiry, hcar, hrec, he, hevaluated]
    rfl
  have hexec : exec (.indicationTimerExpiry slot) s = .next (s.indicationExpiry slot) :=
    congrArg Host.Outcome.next (whenRunning_due (b := fun t => t.indicationDue slot) hl hdue')
  have hstored := storedCar_of_eq hrow hexpiry
  rw [hrec] at hstored
  obtain ⟨hdecks, hpool⟩ := hstored.still rfl rfl rfl rfl
  refine ⟨_, hexec, hstored.cars, hdecks, ?_, ?_⟩
  · rw [hpool]
    refine (List.map_congr_left fun p _ => if_neg ?_).trans (List.map_id _)
    rintro ⟨-, hreassigns, -⟩
    simp [reassigns, CarRec.evaluated] at hreassigns
  · rw [hstored.cars]
    exact ⟨hstored.event, hstored.frame⟩

end

section
/-! PROOFS. A CAR MOTION frame (R52, R53, R78): it is stored whole, evaluated, and counted. -/

namespace Sys2Proof.Machine

/-- The record that a CAR MOTION frame stores (R53 steps 1 to 5). -/
def motionStored (row : CarRow) (f : MotionFrame) (m : Motion) (lower upper : Door) (mark : Clock) (old : CarRec) : CarRec :=
  old.withMotion { pos := min 1048575 f.position.toNat, vel := max (-16000) (min 16000 f.velocity.toInt), motion := m,
                   level := motionLevel row f, doorLower := lower, doorUpper := upper, ranged := motionFaults row f } mark

theorem motionStored_eq (row : CarRow) (f : MotionFrame) (m : Motion) (lower upper : Door) (mark : Clock) (old : CarRec) :
    motionStored row f m lower upper mark old = { old with
      pos := min 1048575 f.position.toNat, vel := max (-16000) (min 16000 f.velocity.toInt), motion := m,
      level := if f.level ≠ 255 ∧ row.lo ≤ f.level.toNat ∧ f.level.toNat ≤ row.hi then some f.level.toNat else none,
      doorLower := lower, doorUpper := upper, anchor := true, mark := mark, heard := true,
      tracking := if old.tracking = .unknown then (if old.silence ≤ 2 then .tracked else .stale) else old.tracking } := by
  rw [← trackingAfterMotion_eq]
  rfl

/-- What is stored of a frame, once evaluated and with the timer settled. -/
def motionRecord (s : State) (slot : Nat) (row : CarRow) (mark : Clock) (stored : CarRec) : CarRec :=
  { (if stored.tracking = .tracked then
      stored.evaluated s.loader.copy row (s.decksOf slot).lower.intent 0 stored.level
    else stored) with
    timer := if stored.tracking = .tracked ∧ (stored.motion = .runningUp ∨ stored.motion = .runningDown) then
      some (stored.timer.getD (mark + 100)) else none }

/-- Whether a level report disagrees with the position (R78): the landing is not the one whose window holds it. -/
def CarRec.disagrees (c : Image) (row : CarRow) (r : CarRec) : Prop :=
  r.tracking = .tracked ∧ (r.motion = .parked ∨ r.motion = .levelling) ∧
    ∃ l, r.level = some l ∧ ¬ ((∀ i, row.lo ≤ i → i < l → (c.boundary i : Int) ≤ spanClamp c row r.pos) ∧
      (l < row.hi → spanClamp c row r.pos < (c.boundary l : Int)))

theorem motionLevel_served {row : CarRow} {f : MotionFrame} {l : Nat} (h : motionLevel row f = some l) :
    row.lo ≤ l ∧ l ≤ row.hi := by
  unfold motionLevel at h
  split at h
  · next hin =>
    obtain ⟨-, hlo, hhi⟩ := hin
    cases h
    exact ⟨hlo, hhi⟩
  · cases h

theorem disagrees_iff {c : Image} {row : CarRow} {r : CarRec} (ha : r.anchor = true)
    (hserved : ∀ l, r.level = some l → row.lo ≤ l ∧ l ≤ row.hi) :
    (r.evaluable && levelDisagrees c row r 0 r.level) = true ↔ r.disagrees c row := by
  rw [Bool.and_eq_true, evaluable_iff, levelDisagrees_iff hserved]
  simp only [ha, and_true, CarRec.disagrees]
  refine and_congr_right' (and_congr_right' (exists_congr fun l => and_congr_right fun hl => not_congr ?_))
  obtain ⟨hlo, hhi⟩ := hserved l hl
  exact ⟨fun ⟨_, _, hbelow, habove⟩ => ⟨hbelow, habove⟩, fun ⟨hbelow, habove⟩ => ⟨hlo, hhi, hbelow, habove⟩⟩

/-- The state in which the counts of a CAR MOTION frame have been made. -/
def State.motionCounted (s : State) (row : CarRow) (f : MotionFrame) (disagrees : Bool) : State :=
  let t := s.countN .fieldRange (motionFaults row f)
  if disagrees then t.count .levelDisagree else t

theorem motionCounted_eq (s : State) (row : CarRow) (f : MotionFrame) (disagrees : Bool) :
    s.motionCounted row f disagrees =
      { s with
        status := { s.status with
          counters := { s.status.counters with
            levelDisagree :=
              if disagrees then counted s.status.counters.levelDisagree 1 else s.status.counters.levelDisagree,
            fieldRange := counted s.status.counters.fieldRange (motionFaults row f) } } } := by
  cases disagrees <;> rfl

theorem carMotionTaken_eq {s : State} {slot : Nat} {row : CarRow} (hr : s.carRow slot = some row) {f : MotionFrame}
    {m : Motion} {lower upper : Door} (hm : decodeMotion f.motion = some m)
    (hlower : decodeDoor (f.doors.toNat % 16) = some lower)
    (hupper : if row.step = 0 then upper = .closed else decodeDoor (f.doors.toNat / 16) = some upper) (mark : Clock) :
    let stored := motionStored row f m lower upper mark (s.carRec slot)
    let disagrees := stored.evaluable && levelDisagrees s.loader.copy row stored 0 stored.level
    s.carMotionTaken slot mark f =
      (s.motionCounted row f disagrees).updateCar slot row (motionRecord s slot row mark stored) := by
  intro stored disagrees
  have hdecoded := decodeMotionFrame_eq hm hlower hupper
  have hsettled := frameSettled_eq (s.motionCounted row f disagrees) slot row (motionLevel row f) (r := stored) mark rfl
  have hsame : motionRecord (s.motionCounted row f disagrees) slot row mark stored = motionRecord s slot row mark stored := by
    rw [motionCounted_eq]
    rfl
  calc s.carMotionTaken slot mark f
      = (s.motionCounted row f disagrees).updateCar slot row
          (((s.motionCounted row f disagrees).frameEvaluated slot row (motionLevel row f) stored).settleTimer mark) := by
        simp only [State.carMotionTaken, hr, hdecoded]
        rfl
    _ = _ := by
        rw [hsettled]
        exact congrArg (fun r => (s.motionCounted row f disagrees).updateCar slot row r) hsame

end Sys2Proof.Machine

open Sys2Proof Sys2Proof.Machine

/-- Settles O18: the frame is decoded and counted, the record evaluated and its timer settled; what remains is the event of
one stored record. -/
theorem carMotionIsStored : Obligations.CarMotionIsStored := by
  intro s rx f slot row m lower upper hh hk hm hlower hupper
  intro old inRange mark stored evaluated timer r position inWindow disagrees
  have hrow := carRow_of hk
  have hmotion : motionStored row f m lower upper mark old = stored := motionStored_eq row f m lower upper mark old
  have htaken := carMotionTaken_eq hrow hm hlower hupper mark
  dsimp only at htaken
  rw [show motionStored row f m lower upper mark (s.busy.carRec slot) = stored from hmotion] at htaken
  generalize hbit : (stored.evaluable && levelDisagrees s.busy.loader.copy row stored 0 stored.level) = bit at htaken
  have hlevel : stored.level = motionLevel row f := (congrArg CarRec.level hmotion.symm :)
  have hdisagrees : bit = true ↔ disagrees := by
    rw [← hbit]
    exact disagrees_iff rfl fun l hl => motionLevel_served (hlevel ▸ hl)
  have hcarRow : (s.busy.motionCounted row f bit).carRow slot = some row := by
    rw [motionCounted_eq]
    exact hrow
  have hstored := storedCar_of_eq hcarRow htaken
  rw [motionCounted_eq] at hstored
  have hcars : (s.busy.carMotionTaken slot mark f).cars = s.cars.set slot r := hstored.cars
  have hcount : (s.busy.carMotionTaken slot mark f).status.counters.levelDisagree =
      if bit then counted s.status.counters.levelDisagree 1 else s.status.counters.levelDisagree := by
    rw [hstored.frame]
    rfl
  refine ⟨s.busy.carMotionTaken slot mark f, exec_carMotion hh hk, hcars, fun htracked => ?_, hstored.decks, hstored.pool, fun hdis => ?_,
    fun hagree => ?_, ?_⟩
  · have hevaluated : evaluated = stored.evaluated s.loader.copy row (s.decksOf slot).lower.intent 0 stored.level :=
      if_pos htracked
    have hrecord : r = { stored.evaluated s.loader.copy row (s.decksOf slot).lower.intent 0 stored.level with
        timer := timer } := congrArg (fun e : CarRec => { e with timer := timer }) hevaluated
    rw [hrecord]
    refine ⟨rfl, arrowOf_eq m _, fun hrest l hl => ?_⟩
    rw [hl]
    exact congrArg some (indicationOf_of_report s.loader.copy row stored 0 hrest)
  · rw [hcount, if_pos (hdisagrees.mpr hdis)]
  · rw [hcount, if_neg (mt hdisagrees.mp hagree)]
  · dsimp only
    rw [hcars, hcount]
    exact ⟨hstored.event, hstored.frame⟩

end

section
/-! PROOFS. One evaluation of a lantern record (R92 to R97). -/

namespace Sys2Proof.Machine

/-! ### What a deck may do for the landing -/

section view
variable (v : LanternView) (d : Deck)

theorem isNext_iff : v.isNext d = true ↔
    nextStop v.car v.carRec v.decks d = some v.landing ∧ (d = .upper → v.car.step ≠ 0) := by
  simp only [LanternView.isNext, Bool.and_eq_true, beq_iff_eq, Bool.or_eq_true, bne_iff_ne]
  refine and_congr_right' ?_
  cases d <;> simp

theorem toward_iff : v.toward d = true ↔ ∃ k, v.carRec.indicatedOf v.car d = some k ∧
    ((v.carRec.motion = .runningUp ∧ k ≤ v.landing) ∨ (v.carRec.motion = .runningDown ∧ v.landing ≤ k)) := by
  unfold LanternView.toward
  cases v.carRec.indicatedOf v.car d with
  | none => simp
  | some k => cases v.carRec.motion <;> simp

theorem target_eq : v.target d = v.copy.height (if d = .lower then v.landing else v.landing - v.car.step) := by
  cases d <;> rfl

theorem qualifies_iff (ht : v.carRec.tracking = .tracked) : v.qualifies d = true ↔
    v.isNext d = true ∧ v.toward d = true ∧ ∃ q, v.carRec.q = some q ∧
      (((v.copy.height (if d = .lower then v.landing else v.landing - v.car.step) : Nat) : Int) - q).natAbs ≤
        v.copy.announce := by
  rw [← target_eq]
  unfold LanternView.qualifies
  cases v.carRec.q <;> simp [ht, and_assoc]

theorem holdsAt_iff : v.holdsAt d = true ↔
    v.isNext d = true ∧ ((v.carRec.motion = .parked ∨ v.carRec.motion = .levelling) ∨ v.toward d = true) := by
  simp only [LanternView.holdsAt, Bool.and_eq_true, Bool.or_eq_true, atRest_iff]

end view

/-! ### The serving deck (R94) -/

section serving
variable {v : LanternView} {p : Deck → Bool}

theorem serving_of_only {d : Deck} (hd : p d = true) (honly : ∀ e, p e = true → e = d) : v.serving p = some d := by
  unfold LanternView.serving
  cases d with
  | lower =>
    have hupper : p .upper = false := Bool.eq_false_iff.mpr fun h => Deck.noConfusion (honly .upper h)
    simp only [hd, hupper]
  | upper =>
    have hlower : p .lower = false := Bool.eq_false_iff.mpr fun h => Deck.noConfusion (honly .lower h)
    simp only [hd, hlower]

theorem serving_of_both (hlower : p .lower = true) (hupper : p .upper = true) : ∃ d, v.serving p = some d ∧
    (v.carRec.motion = .runningUp → d = .upper) ∧ (v.carRec.motion = .runningDown → d = .lower) := by
  simp only [LanternView.serving, hlower, hupper]
  cases v.carRec.motion <;> exact ⟨_, rfl, by simp, by simp⟩

/-- The serving deck is one that is alone in qualifying, or that comes first in the direction of travel. -/
theorem serving_of_first {d : Deck} (hd : p d = true) (hfirst : (∀ e, p e = true → e = d) ∨
    (d = .upper ∧ v.carRec.motion = .runningUp) ∨ (d = .lower ∧ v.carRec.motion = .runningDown)) :
    v.serving p = some d := by
  by_cases honly : ∀ e, p e = true → e = d
  · exact serving_of_only hd honly
  · have hboth : p .lower = true ∧ p .upper = true := by
      obtain ⟨e, he, hne⟩ : ∃ e, p e = true ∧ e ≠ d := by simpa only [not_forall, exists_prop] using honly
      cases d <;> cases e
      · exact absurd rfl hne
      · exact ⟨hd, he⟩
      · exact ⟨he, hd⟩
      · exact absurd rfl hne
    obtain ⟨e, he, hup, hdown⟩ := serving_of_both (v := v) hboth.1 hboth.2
    rcases hfirst with h | ⟨rfl, h⟩ | ⟨rfl, h⟩
    · exact absurd h honly
    · rw [he, hup h]
    · rw [he, hdown h]

theorem serving_of_none (h : ∀ d, ¬ p d = true) : v.serving p = none := by
  simp only [LanternView.serving, Bool.eq_false_iff.mpr (h .lower), Bool.eq_false_iff.mpr (h .upper)]

end serving

/-! ### Evaluations by state -/

section evaluate
variable {v : LanternView} {r : Lantern}

theorem evaluate_untracked (h : v.carRec.tracking ≠ .tracked) (arrival : Option Deck) :
    v.evaluate arrival r = if r.state = .dark then .stay r else .darken r := if_pos h

variable (ht : v.carRec.tracking = .tracked)
include ht

theorem evaluate_arrival (d : Deck) : v.evaluate (some d) r = v.arrive d r := if_neg (not_not.mpr ht)

theorem evaluate_dark (hs : r.state = .dark) : v.evaluate none r =
    match v.serving v.qualifies with
    | some d =>
      { record := { r with state := .announced, dir := v.intent d, deck := some d, linger := none }, wake := true,
        chime := true, changed := true }
    | none => .stay r := by
  simp only [LanternView.evaluate, ht, hs, ne_eq, not_true, if_false] <;> rfl

theorem evaluate_announced (hs : r.state = .announced) : v.evaluate none r = v.hold r := by
  simp only [LanternView.evaluate, ht, hs, ne_eq, not_true, if_false]

theorem evaluate_open (hs : r.state = .open_) : v.evaluate none r = v.stayOpen r := by
  simp only [LanternView.evaluate, ht, hs, ne_eq, not_true, if_false]

theorem evaluate_linger (hs : r.state = .linger) {d : Deck} (hd : r.deck = some d) : v.evaluate none r =
    if v.carRec.levelAt v.car d = some v.landing then .stay r else .darken r := by
  simp only [LanternView.evaluate, ht, hs, hd, ne_eq, not_true, if_false]

end evaluate

/-- The move of a record that takes direction and serving deck of a deck, in the state it has. -/
def LanternView.follow (v : LanternView) (r : Lantern) (d : Deck) : LanternMove :=
  { record := { r with dir := v.intent d, deck := some d }, wake := false, chime := v.intent d != r.dir,
    changed := ({ r with dir := v.intent d, deck := some d } : Lantern) != r }

theorem follow_eq (v : LanternView) (r : Lantern) (d : Deck) : v.follow r d =
    { record := { r with dir := (v.decks.get d).intent, deck := some d }, wake := false,
      chime := decide ((v.decks.get d).intent ≠ r.dir),
      changed := decide (({ r with dir := (v.decks.get d).intent, deck := some d } : Lantern) ≠ r) } := by
  have hbne {α : Type} [DecidableEq α] (a b : α) : (a != b) = decide (a ≠ b) := by
    by_cases h : a = b <;> simp [h]
  simp only [LanternView.follow, hbne]
  rfl

theorem arrive_eq (v : LanternView) (r : Lantern) (d : Deck) : v.arrive d r =
    { record := { r with state := .open_, dir := (v.decks.get d).intent, deck := some d, linger := none },
      wake := decide (r.state = .dark),
      chime := decide (r.state = .dark ∨ (r.state = .announced ∧ (v.decks.get d).intent ≠ r.dir)),
      changed := decide (r.state ≠ .open_ ∨
        ({ r with state := .open_, dir := (v.decks.get d).intent, deck := some d, linger := none } : Lantern) ≠ r) } := by
  have hbne {α : Type} [DecidableEq α] (a b : α) : (a != b) = decide (a ≠ b) := by
    by_cases h : a = b <;> simp [h]
  unfold LanternView.arrive
  cases hs : r.state <;> simp [hbne, LanternView.intent]

section hold
variable {v : LanternView} {r : Lantern}

/-- Whether every deck that has the landing as its next stop holds (R95). -/
theorem allHold_iff : [Deck.lower, Deck.upper].all (fun d => !v.isNext d || v.holdsAt d) = true ↔
    ∀ d, v.isNext d = true → v.holdsAt d = true := by
  have himp (d : Deck) : (!v.isNext d || v.holdsAt d) = true ↔ (v.isNext d = true → v.holdsAt d = true) := by
    cases v.isNext d <;> simp
  simp only [List.all_cons, List.all_nil, Bool.and_true, Bool.and_eq_true, himp]
  exact ⟨fun ⟨hl, hu⟩ d => by cases d <;> assumption, fun h => ⟨h .lower, h .upper⟩⟩

theorem hold_of_serving (hall : ∀ d, v.isNext d = true → v.holdsAt d = true) {d : Deck}
    (hd : v.serving v.holdsAt = some d) : v.hold r = v.follow r d := by
  unfold LanternView.hold
  rw [if_pos (allHold_iff.mpr hall), hd]
  rfl

theorem hold_of_not (h : ¬ ((v.isNext .lower = true ∨ v.isNext .upper = true) ∧
    ∀ d, v.isNext d = true → v.holdsAt d = true)) : v.hold r = .darken r := by
  unfold LanternView.hold
  by_cases hall : ∀ d, v.isNext d = true → v.holdsAt d = true
  · have hnone : v.serving v.holdsAt = none := by
      refine serving_of_none fun d hd => h ⟨?_, hall⟩
      have hnext := ((holdsAt_iff v d).mp hd).1
      cases d
      · exact .inl hnext
      · exact .inr hnext
    rw [if_pos (allHold_iff.mpr hall), hnone]
  · exact if_neg (mt allHold_iff.mp hall)

end hold

section stayOpen
variable {v : LanternView} {r : Lantern} {d : Deck} (hd : r.deck = some d)
include hd

theorem stayOpen_away (h : v.carRec.levelAt v.car d ≠ some v.landing) : v.stayOpen r = .darken r := by
  unfold LanternView.stayOpen
  rw [hd]
  exact if_pos h

theorem stayOpen_closed (h : v.carRec.levelAt v.car d = some v.landing) (hdoor : v.carRec.door d = .closed) :
    v.stayOpen r = if v.linger = 0 then .darken r else
      { record := { r with state := .linger, linger := some (after v.now v.linger) }, wake := false, chime := false,
        changed := true } := by
  unfold LanternView.stayOpen
  rw [hd]
  exact (if_neg (not_not.mpr h)).trans (if_pos hdoor)

theorem stayOpen_follows (h : v.carRec.levelAt v.car d = some v.landing) (hdoor : v.carRec.door d ≠ .closed) :
    v.stayOpen r = v.follow r d := by
  have hrecord : ({ r with dir := v.intent d, deck := some d } : Lantern) = { r with dir := v.intent d } := by rw [← hd]
  unfold LanternView.stayOpen LanternView.follow
  rw [hrecord, hd]
  exact (if_neg (not_not.mpr h)).trans (if_neg hdoor)

end stayOpen

end Sys2Proof.Machine

open Sys2Proof Sys2Proof.Machine

/-- Settles O22: each state has its own rule, and the deck that serves is fixed where one alone meets the condition or the
direction of travel orders the two. -/
theorem lanternsFollowTheirCars : Obligations.LanternsFollowTheirCars := by
  intro v r up down atRest isNext toward height qualifies holds first dir level dark stays follows opens
  have hnext (d : Deck) : v.isNext d = true ↔ isNext d := isNext_iff v d
  have hfollows (d : Deck) : v.follow r d = follows d := follow_eq v r d
  have hholds (d : Deck) : v.holdsAt d = true ↔ isNext d ∧ (atRest ∨ toward d) := by
    rw [holdsAt_iff, hnext, toward_iff]
  have hall : (∀ d, v.isNext d = true → v.holdsAt d = true) ↔ ∀ d, isNext d → atRest ∨ toward d :=
    forall_congr' fun d => by rw [hnext, hholds]; exact imp_congr_right fun hn => and_iff_right hn
  refine ⟨fun hlost arrival => evaluate_untracked hlost arrival, fun ht => ⟨fun d => ?_, fun hs => ⟨?_, ?_⟩,
    fun hs => ⟨?_, ?_, ?_⟩, fun hs => ⟨?_, ?_, ?_, ?_⟩, fun hs => ⟨?_, ?_⟩⟩⟩
  · rw [evaluate_arrival ht, arrive_eq]
  · intro d hd hfirst
    have hqualifies (e : Deck) : v.qualifies e = true ↔ qualifies e := by
      rw [qualifies_iff v e ht, hnext, toward_iff]
    rw [evaluate_dark ht hs, serving_of_first ((hqualifies d).mpr hd)
      (hfirst.imp_left fun honly e he => honly e ((hqualifies e).mp he))]
    rfl
  · intro hnone
    have hqualifies (e : Deck) : v.qualifies e = true ↔ qualifies e := by
      rw [qualifies_iff v e ht, hnext, toward_iff]
    rw [evaluate_dark ht hs, serving_of_none fun d hd => hnone d ((hqualifies d).mp hd)]
    rfl
  · intro d hh hd hfirst
    rw [evaluate_announced ht hs, ← hfollows]
    refine hold_of_serving (hall.mpr hh.2) (serving_of_first ((hholds d).mpr ⟨hd, hh.2 d hd⟩) ?_)
    exact hfirst.imp_left fun honly e he => honly e ((hholds e).mp he).1
  · intro hh hboth _
    obtain ⟨d, hd, -, -⟩ := serving_of_both (v := v) (p := v.holdsAt)
      ((hholds .lower).mpr ⟨hboth .lower, hh.2 .lower (hboth .lower)⟩)
      ((hholds .upper).mpr ⟨hboth .upper, hh.2 .upper (hboth .upper)⟩)
    exact ⟨d, by rw [evaluate_announced ht hs, ← hfollows, hold_of_serving (hall.mpr hh.2) hd]⟩
  · intro hh
    rw [evaluate_announced ht hs]
    refine hold_of_not fun ⟨hsome, hevery⟩ => hh ⟨?_, hall.mp hevery⟩
    exact hsome.imp (hnext .lower).mp (hnext .upper).mp
  · intro d hd hlevel hdoor
    rw [evaluate_open ht hs, ← hfollows, stayOpen_follows hd hlevel hdoor]
  · intro d hd hlevel hdoor hlinger
    exact (evaluate_open ht hs).trans ((stayOpen_closed hd hlevel hdoor).trans (if_neg hlinger))
  · intro d hd hlevel hdoor hlinger
    exact (evaluate_open ht hs).trans ((stayOpen_closed hd hlevel hdoor).trans (if_pos hlinger))
  · intro d hd hlevel
    exact (evaluate_open ht hs).trans (stayOpen_away hd hlevel)
  · intro d hd hlevel
    exact (evaluate_linger ht hs hd).trans (if_pos hlevel)
  · intro d hd hlevel
    exact (evaluate_linger ht hs hd).trans (if_neg hlevel)

end

section
/-! PROOFS. Moves of lantern records, and the linger expiry (R92, R94 to R98). -/

namespace Sys2Proof.Machine

/-! ### What a content change hands (R148) -/

theorem handedAll_links_congr {s t : State} (hl : t.links = s.links) (hc : t.cycle = s.cycle) (n : Nat)
    (work : List LinkMsg) : (t.handedAll n work).links = (s.handedAll n work).links := by
  simp only [State.handedAll, hl, hc]

theorem handPage_links (n : Nat) (c : Content) (atMark : Bool) (s : State) :
    (s.handPage n c atMark).links = s.links ∨
      ∃ work, (s.handPage n c atMark).links = (s.handedAll n [.load c work, .flip (work + 1) atMark]).links := by
  cases hs : s.schedules[n]? with
  | none => exact .inl (by simp only [State.handPage, State.schedule, hs])
  | some sc =>
    right
    rw [handPage_eq hs]
    exact ⟨sc.works + 1, rfl⟩

theorem handPreload_links (n : Nat) (p : Preload) (s : State) : (s.handPreload n p).links = s.links ∨
    ∃ c work, (s.handPreload n p).links = (s.handedAll n [.load c work]).links := by
  cases hs : s.schedules[n]? with
  | none => exact .inl (by simp only [State.handPreload, State.schedule, hs])
  | some sc =>
    right
    rw [handPreload_eq hs]
    exact ⟨_, sc.works + 1, rfl⟩

theorem recomposePreload_links (n : Nat) (s : State) : (s.recomposePreload n).links = s.links ∨
    ∃ c work, (s.recomposePreload n).links = (s.handedAll n [.load c work]).links := by
  unfold State.recomposePreload
  split
  · exact .inl rfl
  · split
    · exact .inl rfl
    · split
      · exact .inl rfl
      · split
        · exact .inl rfl
        · exact handPreload_links n _ s

theorem contentChange_links (n : Nat) (s : State) : (s.contentChange n).links = s.links ∨
    (∃ c work, (s.contentChange n).links = (s.handedAll n [.load c work, .flip (work + 1) false]).links) ∨
    ∃ c work, (s.contentChange n).links = (s.handedAll n [.load c work]).links := by
  have hlinks := settlePaging_links n s
  have hcycle : (s.settlePaging n).cycle = s.cycle := (congrArg State.cycle (settlePaging_forShow n s) :)
  have hhanded := handedAll_links_congr hlinks hcycle n
  unfold State.contentChange
  dsimp only
  split
  · split
    · rcases recomposePreload_links n (s.settlePaging n) with h | ⟨c, work, h⟩
      · exact .inl (h.trans hlinks)
      · exact .inr (.inr ⟨c, work, h.trans (hhanded _)⟩)
    · rcases handPage_links n ((s.settlePaging n).currentContent n) false (s.settlePaging n) with h | ⟨work, h⟩
      · exact .inl (h.trans hlinks)
      · exact .inr (.inl ⟨_, work, h.trans (hhanded _)⟩)
  · exact .inl hlinks

/-! ### A move carried out (R94, R98) -/

/-- What a chime request does to a state in the mode and at the time of another (R98). -/
theorem chime_eq {s t : State} (hm : t.mode.night = s.mode.night ∧ t.mode.level = s.mode.level) (hc : t.cycle = s.cycle)
    (n : Nat) (dir : Dir) : t.chime n dir =
      if (s.mode.night = true ∧ s.mode.level ≠ .evacuate) ∨ dir = .none then t
      else { t with links := t.links.modify n (fun l => l.hand (.chime (if dir = .up then 1 else 2)) s.cycle.clock) } := by
  obtain ⟨hnight, hlevel⟩ := hm
  unfold State.chime
  rw [hnight, hlevel, ← hc]
  by_cases hsuppressed : s.mode.night = true ∧ s.mode.level ≠ .evacuate
  · rw [if_pos hsuppressed, if_pos (.inl hsuppressed)]
  · rw [if_neg hsuppressed]
    cases dir with
    | none => exact (if_pos (.inr rfl)).symm
    | up => exact (if_neg (not_or.mpr ⟨hsuppressed, Dir.noConfusion⟩)).symm
    | down => exact (if_neg (not_or.mpr ⟨hsuppressed, Dir.noConfusion⟩)).symm

/-- A wake leaves the night latch, the level and the clock. -/
theorem wakeIf_kept (b : Bool) (n : Nat) (s : State) :
    ((if b then s.wake n else s).mode.night = s.mode.night ∧ (if b then s.wake n else s).mode.level = s.mode.level) ∧
      (if b then s.wake n else s).cycle = s.cycle := by
  have h := wake_forQuiet n s
  cases b
  · exact ⟨⟨rfl, rfl⟩, rfl⟩
  · exact ⟨⟨(congrArg (fun u => u.mode.night) h :), (congrArg (fun u => u.mode.level) h :)⟩, (congrArg State.cycle h :)⟩

/-- A linger expiry acts on the one record of the panel and slot whose timer is reached. -/
theorem lingerExpiry_eq {s : State} {panel slot place : Nat} {r : Lantern} (hr : s.stops.lanterns[place]? = some r)
    (hdue : r.lingerDue panel slot s.now = true)
    (honly : ∀ other q, s.stops.lanterns[other]? = some q → q.panel = panel → q.slot = slot → other = place) :
    s.lingerExpiry panel slot = s.applyMove place (.darken r) := by
  have hfind : findPlace (fun q => q.lingerDue panel slot s.now) s.stops.lanterns = some place := by
    refine findPlace_iff.mpr ⟨⟨r, hr, hdue⟩, ?_⟩
    rintro k hk ⟨q, hq, hqdue⟩
    simp only [Lantern.lingerDue, Bool.and_eq_true, beq_iff_eq] at hqdue
    obtain ⟨⟨⟨hpanel, hslot⟩, -⟩, -⟩ := hqdue
    exact absurd (honly k q hq hpanel hslot) (Nat.ne_of_lt hk)
  simp only [State.lingerExpiry, hfind, hr]

end Sys2Proof.Machine

open Sys2Proof Sys2Proof.Machine

/-- Settles O42: the darkening move has neither wake nor chime, and a content change hands what its case calls for. -/
theorem lingerExpiryDarkensTheRecord : Obligations.LingerExpiryDarkensTheRecord := by
  refine ⟨?_, ?_⟩
  · intro s panel slot place r e hl hr hpanel hslot hstate he hdue honly
    dsimp only
    have hlinger : r.lingerDue panel slot s.now = true := by
      rw [← hpanel, ← hslot]
      exact lingerDue_iff.mpr ⟨hstate, e, he, of_decide_eq_true hdue⟩
    have hexec : exec (.lingerExpiry panel slot) s = .next (s.applyMove place (.darken r)) :=
      congrArg Host.Outcome.next ((if_pos (running_of hl)).trans (lingerExpiry_eq hr hlinger honly))
    subst hpanel hslot
    exact ⟨_, hexec, rfl, eq_of_forShow (contentChange_forShow _ _), contentChange_links _ _⟩
  · intro s place m n moved woken stroke suppressed chimed
    have hkept : (woken.mode.night = s.mode.night ∧ woken.mode.level = s.mode.level) ∧ woken.cycle = s.cycle :=
      wakeIf_kept m.wake n moved
    have hchimed : (if m.chime then woken.chime n m.record.dir else woken) = chimed := by
      rw [chime_eq hkept.1 hkept.2]
      cases hchime : m.chime with
      | false => exact (if_pos (.inl hchime)).symm
      | true =>
        have hiff : (m.chime = false ∨ suppressed ∨ m.record.dir = .none) ↔ (suppressed ∨ m.record.dir = .none) := by
          simp only [hchime, Bool.true_eq_false, false_or]
        refine (if_pos rfl).trans ?_
        by_cases hquiet : suppressed ∨ m.record.dir = .none
        · exact (if_pos hquiet).trans (if_pos (hiff.mpr hquiet)).symm
        · refine (if_neg hquiet).trans (.trans ?_ (if_neg (mt hiff.mp hquiet)).symm)
          by_cases hup : m.record.dir = .up <;> simp only [hup, if_true, if_false, stroke]
    change (if m.changed then (if m.chime then woken.chime n m.record.dir else woken).contentChange n
      else (if m.chime then woken.chime n m.record.dir else woken)) = _
    rw [hchimed]

end

section
/-! PROOFS. The lantern records of a car, place by place (R93): what an event reads and moves of each. -/

namespace Sys2Proof.Machine

/-! ### What an evaluation keeps, and when it wakes -/

theorem evaluate_place (v : LanternView) (arrival : Option Deck) (r : Lantern) :
    (v.evaluate arrival r).record.panel = r.panel ∧ (v.evaluate arrival r).record.slot = r.slot := by
  unfold LanternView.evaluate LanternView.arrive LanternView.hold LanternView.stayOpen
  dsimp only
  repeat' split
  all_goals exact ⟨rfl, rfl⟩

theorem serving_isSome (v : LanternView) (p : Deck → Bool) : (v.serving p).isSome = (p .lower || p .upper) := by
  unfold LanternView.serving
  cases p .lower <;> cases p .upper <;> cases v.carRec.motion <;> rfl

/-- An evaluation wakes the panel at an arrival from DARK and at an announcement. -/
theorem evaluate_wake (v : LanternView) (arrival : Option Deck) (r : Lantern) : (v.evaluate arrival r).wake =
    (v.carRec.tracking == .tracked && r.state == .dark &&
      (arrival.isSome || v.qualifies .lower || v.qualifies .upper)) := by
  by_cases ht : v.carRec.tracking = .tracked
  · cases arrival with
    | some d =>
      rw [evaluate_arrival ht, arrive_eq, ht]
      cases r.state <;> rfl
    | none =>
      have hdark : r.state = .dark → (v.evaluate none r).wake = (v.qualifies .lower || v.qualifies .upper) := by
        intro hs
        rw [evaluate_dark ht hs, ← serving_isSome]
        cases v.serving v.qualifies <;> rfl
      cases hs : r.state with
      | dark =>
        rw [hdark hs, ht]
        rfl
      | announced =>
        rw [evaluate_announced ht hs, ht]
        unfold LanternView.hold
        dsimp only
        repeat' split
        all_goals rfl
      | open_ =>
        rw [evaluate_open ht hs, ht]
        unfold LanternView.stayOpen
        dsimp only
        repeat' split
        all_goals rfl
      | linger =>
        have hlinger : (v.evaluate none r).wake = false := by
          simp only [LanternView.evaluate, ht, hs, ne_eq, not_true, if_false]
          repeat' split
          all_goals rfl
        rw [hlinger, ht]
        rfl
  · have hfalse : (v.carRec.tracking == Tracking.tracked) = false := beq_eq_false_iff_ne.mpr ht
    rw [evaluate_untracked ht, hfalse]
    split <;> rfl

/-- The choice of R95 does not decide whether an evaluation wakes. -/
theorem evaluate_wake_choice (v : LanternView) (choice : Bool) (arrival : Option Deck) (r : Lantern) :
    (({ v with openUpper := choice } : LanternView).evaluate arrival r).wake = (v.evaluate arrival r).wake := by
  rw [evaluate_wake, evaluate_wake]
  rfl

/-! ### One place of the list -/

/-- The view of a lantern record of a car, with a choice for R95. -/
def State.viewOf (s : State) (prow : PanelRow) (car : CarRow) (slot : Nat) (choice : Bool) : LanternView :=
  { s.lanternView prow car slot with openUpper := choice }

/-- What evaluations of lantern records read beside the record. -/
def State.viewBase (s : State) : LoaderUnit × CycleUnit × List CarRec × List CarDecks :=
  (s.loader, s.cycle, s.cars, s.stops.decks)

theorem viewOf_congr {s t : State} (h : t.viewBase = s.viewBase) (prow : PanelRow) (car : CarRow) (slot : Nat)
    (choice : Bool) : t.viewOf prow car slot choice = s.viewOf prow car slot choice := by
  simp only [State.viewBase, Prod.mk.injEq] at h
  obtain ⟨hloader, hcycle, hcars, hdecks⟩ := h
  simp only [State.viewOf, State.lanternView, State.carRec, State.decksOf, State.now, State.timing, hloader, hcycle,
    hcars, hdecks]

theorem row_congr {s t : State} (h : t.viewBase = s.viewBase) (n : Nat) : t.row n = s.row n := by
  simp only [State.viewBase, Prod.mk.injEq] at h
  simp only [State.row, h.1]

section place
variable (car : CarRow) (slot : Nat) (arrivals : List (Deck × Nat)) (place : Nat) (s : State)

theorem evaluateLantern_viewBase : (s.evaluateLantern car slot arrivals place).viewBase = s.viewBase := by
  have hframe := eq_of_forLanterns (evaluateLantern_forLanterns car slot arrivals place s)
  have hdecks := evaluateLantern_decks car slot arrivals place s
  generalize s.evaluateLantern car slot arrivals place = t at hframe hdecks
  unfold State.viewBase
  rw [hdecks, hframe]
  rfl

variable {place s} {r : Lantern} (hr : s.stops.lanterns[place]? = some r)
include hr

theorem evaluateLantern_of_other (h : r.slot ≠ slot) : s.evaluateLantern car slot arrivals place = s := by
  unfold State.evaluateLantern
  rw [hr]
  exact if_pos h

variable {prow : PanelRow} (hslot : r.slot = slot) (hrow : s.row r.panel = some prow)
include hslot hrow

/-- The evaluation of a record of the car is the move it calls for. -/
theorem evaluateLantern_of_car : ∃ choice free, (free = s.free ∨ free = s.free + 1) ∧
    s.evaluateLantern car slot arrivals place = ({ s with free := free } : State).applyMove place
      ((s.viewOf prow car slot choice).evaluate (arrivalAt prow.landing arrivals) r) := by
  have hmove : s.evaluateLantern car slot arrivals place =
      (if r.state = .announced ∧ arrivalAt prow.landing arrivals = none ∧
          (s.lanternView prow car slot).takesOpenChoice = true then { s with free := s.free + 1 } else s).applyMove place
        ((s.lanternView prow car slot).evaluate (arrivalAt prow.landing arrivals) r) := by
    unfold State.evaluateLantern
    rw [hr]
    dsimp only
    rw [if_neg (not_not.mpr hslot), hrow]
  rw [hmove]
  split
  · exact ⟨_, _, .inr rfl, rfl⟩
  · exact ⟨_, _, .inl rfl, rfl⟩

theorem evaluateLantern_record : ∃ choice, (s.evaluateLantern car slot arrivals place).stops.lanterns[place]? =
    some ((s.viewOf prow car slot choice).evaluate (arrivalAt prow.landing arrivals) r).record := by
  obtain ⟨choice, free, -, he⟩ := evaluateLantern_of_car car slot arrivals hr hslot hrow
  refine ⟨choice, ?_⟩
  rw [he, applyMove_stops]
  exact List.getElem?_set_self (List.getElem?_eq_some_iff.mp hr).1

end place

theorem applyMove_lanterns_ne {place k : Nat} (h : place ≠ k) (m : LanternMove) (s : State) :
    (s.applyMove place m).stops.lanterns[k]? = s.stops.lanterns[k]? := by
  rw [applyMove_stops]
  exact List.getElem?_set_ne h

/-- An evaluation changes nothing, or it is the move of a record of the car. -/
theorem evaluateLantern_cases (car : CarRow) (slot : Nat) (arrivals : List (Deck × Nat)) (place : Nat) (s : State) :
    ((∀ r prow, s.stops.lanterns[place]? = some r → r.slot = slot → s.row r.panel ≠ some prow) ∧
      s.evaluateLantern car slot arrivals place = s) ∨
    ∃ r prow choice free, s.stops.lanterns[place]? = some r ∧ r.slot = slot ∧ s.row r.panel = some prow ∧
      s.evaluateLantern car slot arrivals place = ({ s with free := free } : State).applyMove place
        ((s.viewOf prow car slot choice).evaluate (arrivalAt prow.landing arrivals) r) := by
  cases hr : s.stops.lanterns[place]? with
  | none => exact .inl ⟨fun r prow h _ => (nomatch h), by simp only [State.evaluateLantern, hr]⟩
  | some r =>
    by_cases hslot : r.slot = slot
    · cases hrow : s.row r.panel with
      | none =>
        refine .inl ⟨fun r' prow h _ hrow' => ?_, ?_⟩
        · cases h
          exact nomatch hrow.symm.trans hrow'
        unfold State.evaluateLantern
        rw [hr]
        dsimp only
        rw [if_neg (not_not.mpr hslot), hrow]
      | some prow =>
        obtain ⟨choice, free, -, he⟩ := evaluateLantern_of_car car slot arrivals hr hslot hrow
        exact .inr ⟨r, prow, choice, free, rfl, hslot, hrow, he⟩
    · refine .inl ⟨fun r' prow h hslot' => ?_, evaluateLantern_of_other car slot arrivals hr hslot⟩
      cases h
      exact absurd hslot' hslot

theorem evaluateLantern_lanterns_ne (car : CarRow) (slot : Nat) (arrivals : List (Deck × Nat)) {place k : Nat}
    (h : place ≠ k) (s : State) :
    (s.evaluateLantern car slot arrivals place).stops.lanterns[k]? = s.stops.lanterns[k]? := by
  rcases evaluateLantern_cases car slot arrivals place s with ⟨-, he⟩ | ⟨r, prow, choice, free, -, -, -, he⟩
  · rw [he]
  · rw [he, applyMove_lanterns_ne h]

/-! ### The records of a car, all of them (R93) -/

section list
variable {car : CarRow} {slot : Nat} {s : State} (hc : s.carRow slot = some car) (arrivals : List (Deck × Nat))
include hc

theorem evaluateLanterns_eq : s.evaluateLanterns slot arrivals =
    (List.range s.stops.lanterns.length).foldl
      (fun (u : State) place => u.evaluateLantern car slot arrivals place) s := by
  simp only [State.evaluateLanterns, hc]
  rfl

theorem evaluateLanterns_place {place : Nat} {r : Lantern} (hr : s.stops.lanterns[place]? = some r) :
    ∃ u : State, u.viewBase = s.viewBase ∧ u.stops.lanterns[place]? = some r ∧
      (s.evaluateLanterns slot arrivals).stops.lanterns[place]? =
        (u.evaluateLantern car slot arrivals place).stops.lanterns[place]? := by
  obtain ⟨u, hbase, hplace, hafter⟩ := forEach_part_of_mem (P := fun t k => t.stops.lanterns[k]?) (F := State.viewBase)
    (f := fun place s => s.evaluateLantern car slot arrivals place)
    (fun m t => evaluateLantern_viewBase car slot arrivals m t)
    (fun m k h t => evaluateLantern_lanterns_ne car slot arrivals h t) List.nodup_range
    (List.mem_range.mpr (List.getElem?_eq_some_iff.mp hr).1) s
  refine ⟨u, hbase, hplace.trans hr, ?_⟩
  rw [evaluateLanterns_eq hc]
  exact hafter

theorem evaluateLanterns_other {place : Nat} {r : Lantern} (hr : s.stops.lanterns[place]? = some r) (h : r.slot ≠ slot) :
    (s.evaluateLanterns slot arrivals).stops.lanterns[place]? = some r := by
  obtain ⟨u, -, hplace, hafter⟩ := evaluateLanterns_place hc arrivals hr
  rw [hafter, evaluateLantern_of_other car slot arrivals hplace h, hplace]

theorem evaluateLanterns_record {place : Nat} {r : Lantern} {prow : PanelRow} (hr : s.stops.lanterns[place]? = some r)
    (hslot : r.slot = slot) (hrow : s.row r.panel = some prow) :
    ∃ choice, (s.evaluateLanterns slot arrivals).stops.lanterns[place]? =
      some ((s.viewOf prow car slot choice).evaluate (arrivalAt prow.landing arrivals) r).record := by
  obtain ⟨u, hbase, hplace, hafter⟩ := evaluateLanterns_place hc arrivals hr
  obtain ⟨choice, hrecord⟩ := evaluateLantern_record car slot arrivals hplace hslot ((row_congr hbase _).trans hrow)
  exact ⟨choice, by rw [hafter, hrecord, viewOf_congr hbase]⟩

end list

/-! ### Quiet records (R124, R125) -/

theorem applyMove_mode (place : Nat) (m : LanternMove) (s : State) : (s.applyMove place m).mode =
    (if m.wake then ({ s with stops := { s.stops with lanterns := s.stops.lanterns.set place m.record } } : State).wake
      m.record.panel else s).mode := by
  have hshow : (s.applyMove place m).forShow =
      (if m.wake then ({ s with stops := { s.stops with lanterns := s.stops.lanterns.set place m.record } } : State).wake
        m.record.panel else { s with stops := { s.stops with lanterns := s.stops.lanterns.set place m.record } }).forShow := by
    unfold State.applyMove
    dsimp only
    repeat' split
    all_goals simp only [contentChange_forShow, chime_forShow]
  have hmode := (congrArg State.mode hshow :)
  refine Eq.trans hmode ?_
  split <;> rfl

section quiet
variable {s : State} (hlevel : s.mode.level ≠ .evacuate) {n : Nat} {prow : PanelRow} (hn : s.row n = some prow) {q : QuietRec}
  (hq : s.mode.quiet[n]? = some q)

include hn hq hlevel in
theorem applyMove_quiet (place : Nat) (m : LanternMove) : (s.applyMove place m).mode.quiet[n]? =
    if m.record.panel = n ∧ m.wake = true then some { state := .awake, timer := some (s.quietAhead prow) } else some q := by
  rw [applyMove_mode]
  cases hw : m.wake with
  | false => simpa using hq
  | true =>
    by_cases hp : m.record.panel = n
    · subst hp
      simp only [and_self, if_true]
      exact wake_quiet (s := { s with stops := { s.stops with lanterns := s.stops.lanterns.set place m.record } }) hn hlevel hq
    · simp only [hp, false_and, if_false, if_true]
      exact (wake_quiet_ne hp _).trans hq

end quiet

/-- Whether the evaluation of a place wakes a panel. -/
def State.lightsAt (s : State) (car : CarRow) (slot : Nat) (arrivals : List (Deck × Nat)) (n : Nat) (prow : PanelRow)
    (place : Nat) : Prop :=
  ∃ r, s.stops.lanterns[place]? = some r ∧ r.slot = slot ∧ r.panel = n ∧
    ((s.viewOf prow car slot false).evaluate (arrivalAt prow.landing arrivals) r).wake = true

theorem applyMove_evacuate {s : State} (h : s.mode.level = .evacuate) (place : Nat) (m : LanternMove) :
    (s.applyMove place m).mode = s.mode := by
  rw [applyMove_mode]
  split
  · exact (congrArg State.mode (wake_evacuate (s := { s with
      stops := { s.stops with lanterns := s.stops.lanterns.set place m.record } }) m.record.panel h) :)
  · rfl

theorem evaluateLantern_evacuate (car : CarRow) (slot : Nat) (arrivals : List (Deck × Nat)) (place : Nat) {s : State}
    (h : s.mode.level = .evacuate) : (s.evaluateLantern car slot arrivals place).mode = s.mode := by
  rcases evaluateLantern_cases car slot arrivals place s with ⟨-, he⟩ | ⟨r, prow, choice, free, -, -, -, he⟩
  · rw [he]
  · rw [he]
    exact applyMove_evacuate (s := { s with free := free }) h place _

theorem evaluateLantern_level (car : CarRow) (slot : Nat) (arrivals : List (Deck × Nat)) (place : Nat) (s : State) :
    (s.evaluateLantern car slot arrivals place).mode.level = s.mode.level :=
  (congrArg (fun u => u.mode.level) (evaluateLantern_forLanterns car slot arrivals place s) :)

section lights
variable (car : CarRow) (slot : Nat) (arrivals : List (Deck × Nat)) {n : Nat} {prow : PanelRow}

open Classical in
/-- Whether one place's evaluation wakes a panel decides its quiet record. -/
theorem evaluateLantern_quiet {s : State} (hlevel : s.mode.level ≠ .evacuate) (hn : s.row n = some prow) {q : QuietRec}
    (hq : s.mode.quiet[n]? = some q) (place : Nat) :
    (s.evaluateLantern car slot arrivals place).mode.quiet[n]? = some
      (if s.lightsAt car slot arrivals n prow place then { state := .awake, timer := some (s.quietAhead prow) } else q) := by
  rcases evaluateLantern_cases car slot arrivals place s with ⟨hnone, he⟩ | ⟨r, prow', choice, free, hr, hslot, hrow, he⟩
  · have hnot : ¬ s.lightsAt car slot arrivals n prow place := fun ⟨r, hr, hslot, hp, _⟩ =>
      hnone r prow hr hslot (hp ▸ hn)
    rw [he, if_neg hnot, hq]
  · have hwake (choice : Bool) := evaluate_wake_choice (s.viewOf prow' car slot false) choice
      (arrivalAt prow'.landing arrivals) r
    have hiff : s.lightsAt car slot arrivals n prow place ↔
        ((s.viewOf prow' car slot choice).evaluate (arrivalAt prow'.landing arrivals) r).record.panel = n ∧
          ((s.viewOf prow' car slot choice).evaluate (arrivalAt prow'.landing arrivals) r).wake = true := by
      rw [(evaluate_place _ _ r).1, show ((s.viewOf prow' car slot choice).evaluate
        (arrivalAt prow'.landing arrivals) r).wake = _ from hwake choice]
      constructor
      · rintro ⟨r', hr', -, hp, hw⟩
        cases hr.symm.trans hr'
        cases (hp ▸ hn).symm.trans hrow
        exact ⟨hp, hw⟩
      · rintro ⟨hp, hw⟩
        cases (hp ▸ hn).symm.trans hrow
        exact ⟨r, hr, hslot, hp, hw⟩
    rw [he, applyMove_quiet (s := { s with free := free }) hlevel hn hq, apply_ite some]
    exact if_congr hiff.symm rfl rfl

theorem lightsAt_congr {s t : State} (h : t.viewBase = s.viewBase) {place : Nat}
    (hp : t.stops.lanterns[place]? = s.stops.lanterns[place]?) :
    t.lightsAt car slot arrivals n prow place ↔ s.lightsAt car slot arrivals n prow place := by
  unfold State.lightsAt
  rw [viewOf_congr h, hp]

theorem quietAhead_congr {s t : State} (h : t.viewBase = s.viewBase) (row : PanelRow) :
    t.quietAhead row = s.quietAhead row := by
  simp only [State.viewBase, Prod.mk.injEq] at h
  obtain ⟨hloader, hcycle, -, -⟩ := h
  simp only [State.quietAhead, State.now, State.timing, hloader, hcycle]

open Classical in
theorem forEach_evaluateLantern_quiet {l : List Nat} (hl : l.Nodup) {s : State} (hlevel : s.mode.level ≠ .evacuate)
    (hn : s.row n = some prow) {q : QuietRec} (hq : s.mode.quiet[n]? = some q) :
    (forEach l (fun place u => u.evaluateLantern car slot arrivals place) s).mode.quiet[n]? = some
      (if ∃ place ∈ l, s.lightsAt car slot arrivals n prow place then
        { state := .awake, timer := some (s.quietAhead prow) } else q) := by
  induction l generalizing s q with
  | nil => exact hq.trans (congrArg some (if_neg (by simp)).symm)
  | cons place l ih =>
    obtain ⟨hnotMem, hl⟩ := List.nodup_cons.mp hl
    have hbase := evaluateLantern_viewBase car slot arrivals place s
    have hlights (k : Nat) (hk : k ∈ l) := lightsAt_congr (n := n) (prow := prow) car slot arrivals hbase
      (evaluateLantern_lanterns_ne car slot arrivals (fun e : place = k => hnotMem (e ▸ hk)) s)
    have hrest : (∃ k ∈ l, (s.evaluateLantern car slot arrivals place).lightsAt car slot arrivals n prow k) ↔
        ∃ k ∈ l, s.lightsAt car slot arrivals n prow k :=
      exists_congr fun k => and_congr_right fun hk => hlights k hk
    have hstep := ih hl (by rw [evaluateLantern_level]; exact hlevel) ((row_congr hbase n).trans hn)
      (evaluateLantern_quiet car slot arrivals hlevel hn hq place)
    refine hstep.trans (congrArg some ?_)
    rw [quietAhead_congr hbase, if_congr hrest rfl rfl]
    by_cases hhead : s.lightsAt car slot arrivals n prow place <;>
      by_cases htail : ∃ k ∈ l, s.lightsAt car slot arrivals n prow k <;> simp [hhead, htail]

/-- Below level 3 the panels of the records that open from DARK or are announced are AWAKE, and no other changes. -/
theorem evaluateLanterns_quiet {s : State} (hc : s.carRow slot = some car) (hn : s.row n = some prow) {q : QuietRec}
    (hq : s.mode.quiet[n]? = some q) :
    (s.mode.level ≠ .evacuate → (∃ place, s.lightsAt car slot arrivals n prow place) →
      (s.evaluateLanterns slot arrivals).mode.quiet[n]? = some { state := .awake, timer := some (s.quietAhead prow) }) ∧
    (s.mode.level = .evacuate ∨ ¬ (∃ place, s.lightsAt car slot arrivals n prow place) →
      (s.evaluateLanterns slot arrivals).mode.quiet[n]? = some q) := by
  have hplaces : (∃ place, s.lightsAt car slot arrivals n prow place) ↔
      ∃ place ∈ List.range s.stops.lanterns.length, s.lightsAt car slot arrivals n prow place := by
    refine exists_congr fun place => (and_iff_right_of_imp ?_).symm
    rintro ⟨r, hr, -⟩
    exact List.mem_range.mpr (List.getElem?_eq_some_iff.mp hr).1
  have heq := evaluateLanterns_eq hc arrivals
  have hquiet (hlevel : s.mode.level ≠ .evacuate) :=
    forEach_evaluateLantern_quiet car slot arrivals List.nodup_range hlevel hn hq (l := List.range s.stops.lanterns.length)
  refine ⟨fun hlevel hlights => ?_, fun hnone => ?_⟩
  · rw [heq]
    exact (hquiet hlevel).trans (congrArg some (if_pos (hplaces.mp hlights)))
  · rw [heq]
    by_cases hlevel : s.mode.level = .evacuate
    · have hkept := forEach_preserves (fun u : State => u.mode = s.mode)
        (fun place u => u.evaluateLantern car slot arrivals place)
        (fun place u hu => (evaluateLantern_evacuate car slot arrivals place (by rw [hu]; exact hlevel)).trans hu)
        (List.range s.stops.lanterns.length) s rfl
      exact (congrArg (fun m : ModeUnit => m.quiet[n]?) hkept).trans hq
    · exact (hquiet hlevel).trans (congrArg some (if_neg (mt hplaces.mpr (hnone.resolve_left hlevel))))

end lights

end Sys2Proof.Machine
end

section
/-! PROOFS. The car state change event as a whole (R65, R66, R90, R93, R109 to R111, R124, R125). -/

namespace Sys2Proof.Machine

/-! ### Arrivals and departures (R65) -/

theorem levelAt_iff {r : CarRec} {row : CarRow} {d : Deck} {l : Nat} : r.levelAt row d = some l ↔
    (r.motion = .parked ∨ r.motion = .levelling) ∧
      ∃ k, r.level = some k ∧ ((d = .lower ∧ l = k) ∨ (d = .upper ∧ row.step ≠ 0 ∧ l = k + row.step)) := by
  unfold CarRec.levelAt
  by_cases hrest : r.motion = .parked ∨ r.motion = .levelling
  · rw [if_pos (atRest_iff.mpr hrest), and_iff_right hrest]
    cases d with
    | lower => simp
    | upper =>
      by_cases hstep : row.step = 0
      · simp [hstep]
      · simp [hstep, @eq_comm Nat l]
  · rw [if_neg (mt atRest_iff.mp hrest)]
    simp [hrest]

theorem openAt_iff {r : CarRec} {row : CarRow} {d : Deck} {l : Nat} : r.openAt row d = some l ↔
    (r.motion = .parked ∨ r.motion = .levelling) ∧ (r.door d = .opening ∨ r.door d = .opened) ∧
      ∃ k, r.level = some k ∧ ((d = .lower ∧ l = k) ∨ (d = .upper ∧ row.step ≠ 0 ∧ l = k + row.step)) := by
  unfold CarRec.openAt
  by_cases hdoor : r.door d = .opening ∨ r.door d = .opened
  · rw [if_pos hdoor, levelAt_iff]
    exact and_congr_right' (and_iff_right hdoor).symm
  · rw [if_neg hdoor]
    simp [hdoor]

theorem arrivalOf_iff {row : CarRow} {old new : CarRec} {d : Deck} {l : Nat} :
    arrivalOf row old new d = some l ↔ new.openAt row d = some l ∧ ¬ old.openAt row d = some l := by
  unfold arrivalOf
  cases new.openAt row d with
  | none => simp
  | some k =>
    by_cases hold : old.openAt row d = some k
    · simp only [hold, if_true, reduceCtorEq, Option.some.injEq, false_iff, not_and, not_not, imp_self]
    · simp only [hold, if_false, Option.some.injEq]
      exact ⟨fun e => ⟨e, e ▸ hold⟩, And.left⟩

theorem mem_arrivalsOf {row : CarRow} {old new : CarRec} {d : Deck} {l : Nat} :
    (d, l) ∈ arrivalsOf row old new ↔ arrivalOf row old new d = some l := by
  simp only [arrivalsOf, List.mem_filterMap, Option.map_eq_some_iff, Prod.mk.injEq]
  constructor
  · rintro ⟨d', -, l', h, rfl, rfl⟩
    exact h
  · exact fun h => ⟨d, by cases d <;> simp, l, h, rfl, rfl⟩

/-- No two decks arrive at one landing. -/
theorem arrivalsOf_deck_unique {row : CarRow} {old new : CarRec} {d d' : Deck} {l : Nat}
    (h : (d, l) ∈ arrivalsOf row old new) (h' : (d', l) ∈ arrivalsOf row old new) : d = d' := by
  obtain ⟨-, -, k, hk, hd⟩ := openAt_iff.mp (arrivalOf_iff.mp (mem_arrivalsOf.mp h)).1
  obtain ⟨-, -, k', hk', hd'⟩ := openAt_iff.mp (arrivalOf_iff.mp (mem_arrivalsOf.mp h')).1
  have hlevel : k = k' := Option.some.inj (hk.symm.trans hk')
  rcases hd with ⟨rfl, hl⟩ | ⟨rfl, hstep, hl⟩ <;> rcases hd' with ⟨rfl, hl'⟩ | ⟨rfl, hstep', hl'⟩
  · rfl
  · omega
  · omega
  · rfl

theorem arrivalAt_mem {landing : Nat} {d : Deck} {arrivals : List (Deck × Nat)} (h : arrivalAt landing arrivals = some d) :
    (d, landing) ∈ arrivals := by
  induction arrivals with
  | nil => cases h
  | cons a arrivals ih =>
    obtain ⟨d', l⟩ := a
    unfold arrivalAt at h
    split at h
    · next hl =>
      cases h
      rw [hl]
      exact List.mem_cons_self
    · exact List.mem_cons_of_mem _ (ih h)

theorem arrivalAt_isSome {landing : Nat} {d : Deck} {arrivals : List (Deck × Nat)} (h : (d, landing) ∈ arrivals) :
    ∃ d', arrivalAt landing arrivals = some d' := by
  induction arrivals with
  | nil => cases h
  | cons a arrivals ih =>
    obtain ⟨d', l⟩ := a
    unfold arrivalAt
    by_cases hl : l = landing
    · exact ⟨d', if_pos hl⟩
    · rw [if_neg hl]
      refine ih ((List.mem_cons.mp h).resolve_left fun e => hl ?_)
      exact (Prod.mk.inj e).2.symm

theorem arrivalAt_iff {row : CarRow} {old new : CarRec} {d : Deck} {l : Nat} :
    arrivalAt l (arrivalsOf row old new) = some d ↔ (d, l) ∈ arrivalsOf row old new := by
  refine ⟨arrivalAt_mem, fun h => ?_⟩
  obtain ⟨d', hd'⟩ := arrivalAt_isSome h
  rw [hd', arrivalsOf_deck_unique (arrivalAt_mem hd') h]

theorem departs_iff {old new : CarRec} : departs old new = true ↔
    ¬ (old.motion = .runningUp ∨ old.motion = .runningDown) ∧ (new.motion = .runningUp ∨ new.motion = .runningDown) := by
  rw [← isRunning_iff, ← isRunning_iff, departs, Bool.and_eq_true, Bool.not_eq_true', Bool.not_eq_true]

theorem reassigns_iff {old new : CarRec} : reassigns old new = true ↔
    (old.tracking ≠ .lost ∧ new.tracking = .lost) ∨ (old.service = .normal ∧ new.service ≠ .normal) := by
  simp only [reassigns, Bool.or_eq_true, Bool.and_eq_true, bne_iff_ne, beq_iff_eq]

/-! ### Wakes and shown panels (R66, R124) -/

theorem arrivesHere_iff {arrivals : List (Deck × Nat)} {landing : Nat} :
    arrivals.any (fun a => a.2 == landing) = true ↔ ∃ d, (d, landing) ∈ arrivals := by
  rw [List.any_eq_true]
  constructor
  · rintro ⟨⟨d, l⟩, hmem, hl⟩
    exact ⟨d, beq_iff_eq.mp hl ▸ hmem⟩
  · exact fun ⟨d, hmem⟩ => ⟨_, hmem, beq_self_eq_true landing⟩

theorem wokenBy_iff {row : CarRow} {slot : Nat} {old new : CarRec} {prow : PanelRow} : wokenBy row slot old new prow = true ↔
    (prow.kind = .lobby ∧ slot ∈ prow.cars ∧ ∃ d, (d, prow.landing) ∈ arrivalsOf row old new) ∨
    (prow.kind = .destination ∧ ∃ d, (d, prow.landing) ∈ arrivalsOf row old new) ∨
    (prow.kind = .car ∧ prow.slot = slot ∧
      ((¬ (old.motion = .runningUp ∨ old.motion = .runningDown) ∧
          (new.motion = .runningUp ∨ new.motion = .runningDown)) ∨
        (old.door prow.deck ≠ .opening ∧ new.door prow.deck = .opening))) := by
  unfold wokenBy
  cases hkind : prow.kind with
  | lobby =>
    simp only [Bool.and_eq_true, List.contains_iff_mem, arrivesHere_iff]
    simp
  | destination =>
    simp only [arrivesHere_iff]
    simp
  | car =>
    simp only [Bool.and_eq_true, Bool.or_eq_true, beq_iff_eq, departs_iff, startsOpening, bne_iff_ne]
    simp
  | lantern => simp

theorem shows_iff {prow : PanelRow} {slot : Nat} : prow.shows slot = true ↔
    ((prow.kind = .lobby ∨ prow.kind = .lantern) ∧ slot ∈ prow.cars) ∨ (prow.kind = .car ∧ prow.slot = slot) ∨
      prow.kind = .destination := by
  unfold PanelRow.shows
  cases hkind : prow.kind <;> simp

theorem contentDiffers_iff {old new : CarRec} {arrows : Bool} : contentDiffers old new arrows = true ↔
    old.indicated ≠ new.indicated ∨ old.arrow ≠ new.arrow ∨ old.tracking ≠ new.tracking ∨
      old.service ≠ new.service ∨ arrows = true := by
  simp only [contentDiffers, Bool.or_eq_true, bne_iff_ne, or_assoc]

/-! ### One entry of the pool (R109 to R111) -/

theorem boards_iff {s : State} {row : CarRow} {slot : Nat} {old new : CarRec} {p : Prompt} (hp : p.slot = slot) :
    s.boards row slot old new p = true ↔ p.state ≠ .reassign ∧ ∃ d prow, (p.deck = some d ∨ p.deck = none) ∧
      s.row p.panel = some prow ∧ prow.kind = .destination ∧ (d, prow.landing) ∈ arrivalsOf row old new := by
  have hdeck (d : Deck) : (match arrivalOf row old new d with
      | some l => s.matchesArrival slot d l p
      | none => false) = true ↔ ∃ prow, (p.deck = some d ∨ p.deck = none) ∧ s.row p.panel = some prow ∧
        prow.kind = .destination ∧ (d, prow.landing) ∈ arrivalsOf row old new := by
    simp only [mem_arrivalsOf, State.matchesArrival]
    cases arrivalOf row old new d with
    | none => simp
    | some l =>
      cases s.row p.panel with
      | none => simp
      | some prow => simp [hp, @eq_comm Nat l]
  simp only [State.boards, Bool.and_eq_true, bne_iff_ne, List.any_eq_true]
  refine and_congr_right' ⟨fun ⟨d, _, h⟩ => ⟨d, (hdeck d).mp h⟩, fun ⟨d, h⟩ => ⟨d, by cases d <;> simp, (hdeck d).mpr h⟩⟩

theorem promptTouched_iff {s : State} {row : CarRow} {slot : Nat} {old new : CarRec} {p : Prompt} :
    s.promptTouched row slot old new p = true ↔ p.slot = slot ∧
      ((departs old new = true ∧ p.state = .boarding) ∨ (reassigns old new = true ∧ p.state ≠ .reassign) ∨
        s.boards row slot old new p = true) := by
  simp only [State.promptTouched, Bool.and_eq_true, Bool.or_eq_true, beq_iff_eq, bne_iff_ne, or_assoc]

section after
variable {s : State} {row : CarRow} {slot : Nat} {old new : CarRec} {p : Prompt}

theorem promptAfter_other (h : p.slot ≠ slot) : s.promptAfter row slot old new p = some p := if_pos h

theorem promptAfter_departs (hp : p.slot = slot) (h : departs old new = true ∧ p.state = .boarding) :
    s.promptAfter row slot old new p = none := (if_neg (not_not.mpr hp)).trans (if_pos h)

theorem promptAfter_stays (hp : p.slot = slot) (h : ¬ (departs old new = true ∧ p.state = .boarding)) :
    s.promptAfter row slot old new p =
      if reassigns old new = true ∧ p.state ≠ .reassign then some (s.held .reassign p)
      else if s.boards row slot old new p then some (s.held .boarding p) else some p :=
  (if_neg (not_not.mpr hp)).trans (if_neg h)

end after

/-! ### The state in which a car's decks have left their landings -/

theorem removeStop_mode (slot : Nat) (d : Deck) (l : Nat) (s : State) : (s.removeStop slot d l).mode = s.mode := by
  by_cases h : l ∈ ((s.decksOf slot).get d).stops
  · rw [removeStop_of_mem h]
    exact (congrArg State.mode (contentChanges_forShow _ (s.setDecks slot (fun ds => ds.arrive d l))) :)
  · rw [removeStop_of_notMem h]

theorem removeStops_keeps {α : Type} (P : State → α) (hP : ∀ slot d l s, P (s.removeStop slot d l) = P s) (slot : Nat)
    (arrivals : List (Deck × Nat)) (s : State) :
    P (arrivals.foldl (fun (s : State) a => s.removeStop slot a.1 a.2) s) = P s := by
  induction arrivals generalizing s with
  | nil => rfl
  | cons a arrivals ih => exact (ih _).trans (hP slot a.1 a.2 s)

theorem arrived_start (arrivals : List (Deck × Nat)) : CarDecks.start.arrived arrivals = CarDecks.start := by
  induction arrivals with
  | nil => rfl
  | cons a arrivals ih =>
    obtain ⟨d, l⟩ := a
    cases d
    · exact ih
    · exact ih

theorem decksOf_modify {s t : State} {slot : Nat} {f : CarDecks → CarDecks} (hf : f CarDecks.start = CarDecks.start)
    (h : t.stops.decks = s.stops.decks.modify slot f) : t.decksOf slot = f (s.decksOf slot) := by
  unfold State.decksOf
  rw [h, List.getElem?_modify]
  cases s.stops.decks[slot]? <;> simp [hf]

/-- The state in which an event's wakes have been taken and its decks have left their landings behind. -/
def State.leftBehind (s : State) (slot : Nat) (row : CarRow) (old new : CarRec) : State :=
  (arrivalsOf row old new).foldl (fun (u : State) a => u.removeStop slot a.1 a.2)
    (s.wakes (s.panelsWhere (wokenBy row slot old new)))

section left
variable (s : State) (slot : Nat) (row : CarRow) (old new : CarRec)

theorem leftBehind_forLanterns : (s.leftBehind slot row old new).forLanterns = s.forLanterns :=
  (removeStops_keeps State.forLanterns (fun slot d l s => removeStop_forLanterns slot d l s) slot _ _).trans
    (forLanterns_of_forQuiet (wakes_forQuiet _ s))

theorem leftBehind_stops : (s.leftBehind slot row old new).stops = { s.stops with
    decks := s.stops.decks.modify slot (fun ds => ds.arrived (arrivalsOf row old new)) } := by
  unfold State.leftBehind
  rw [removeStops_stops, stops_of_forQuiet (wakes_forQuiet _ s)]

theorem leftBehind_mode : (s.leftBehind slot row old new).mode =
    (s.wakes (s.panelsWhere (wokenBy row slot old new))).mode :=
  removeStops_keeps State.mode removeStop_mode slot _ _

theorem leftBehind_row (n : Nat) : (s.leftBehind slot row old new).row n = s.row n := by
  have h := (copyAndCycle_of_forLanterns (leftBehind_forLanterns s slot row old new)).1
  simp only [State.row, h]

theorem leftBehind_viewOf (prow : PanelRow) (choice : Bool) : (s.leftBehind slot row old new).viewOf prow row slot choice =
    { copy := s.loader.copy, landing := prow.landing, car := row, carRec := s.carRec slot,
      decks := (s.decksOf slot).arrived (arrivalsOf row old new), now := s.cycle.clock,
      linger := (s.timing prow).linger, openUpper := choice } := by
  have hframe := leftBehind_forLanterns s slot row old new
  obtain ⟨hloader, hcycle, -⟩ := copyAndCycle_of_forLanterns hframe
  have hcars : (s.leftBehind slot row old new).cars = s.cars := by
    rw [eq_of_forLanterns hframe]
    rfl
  have hdecks : (s.leftBehind slot row old new).decksOf slot = (s.decksOf slot).arrived (arrivalsOf row old new) :=
    decksOf_modify (arrived_start _) (congrArg StopsUnit.decks (leftBehind_stops s slot row old new))
  simp only [State.viewOf, State.lanternView, hdecks, State.carRec, hcars, State.now, hcycle, State.timing, hloader]

/-- Wakes of an event, taken before anything else. -/
theorem leftBehind_quiet {n : Nat} {prow : PanelRow} (hn : s.row n = some prow) {q : QuietRec}
    (hq : s.mode.quiet[n]? = some q) : (s.leftBehind slot row old new).mode.quiet[n]? = some
      (if s.mode.level ≠ .evacuate ∧ wokenBy row slot old new prow = true then
        { state := .awake, timer := some (s.quietAhead prow) } else q) := by
  rw [leftBehind_mode]
  by_cases hl : s.mode.level = .evacuate
  · rw [wakes_evacuate _ hl, hq, if_neg fun h => h.1 hl]
  · have hmem : n ∈ s.panelsWhere (wokenBy row slot old new) ↔ wokenBy row slot old new prow = true := by
      rw [mem_panelsWhere, hn]
      exact ⟨fun ⟨_, h, hw⟩ => Option.some.inj h ▸ hw, fun hw => ⟨prow, rfl, hw⟩⟩
    by_cases hw : wokenBy row slot old new prow = true
    · rw [if_pos ⟨hl, hw⟩]
      exact wakes_quiet ((panelsWhere_sorted s _).imp Nat.ne_of_lt) (hmem.mpr hw) hn hl hq
    · rw [if_neg fun h => hw h.2]
      exact (congrArg PanelPart.quiet (wakes_panelPart_of_notMem (mt hmem.mp hw) s)).trans hq

theorem leftBehind_lamps : (s.leftBehind slot row old new).mode.lamps = s.mode.lamps := by
  rw [leftBehind_mode, wakes_lamps]

theorem leftBehind_level : (s.leftBehind slot row old new).mode.level = s.mode.level := by
  rw [leftBehind_mode]
  exact (congrArg (fun u => u.mode.level) (wakes_forQuiet (s.panelsWhere (wokenBy row slot old new)) s) :)

theorem carEventShown_eq : s.carEventShown slot row old new =
    (s.leftBehind slot row old new).evaluateLanterns slot (arrivalsOf row old new) := rfl

end left

end Sys2Proof.Machine
end

section
/-! PROOFS. The car state change event as one equation, and what it leaves of every record. -/

namespace Sys2Proof.Machine

section event
variable {s : State} {slot : Nat} {row : CarRow} (hr : s.carRow slot = some row) (old new : CarRec) (arrows : Bool)

/-- The panels whose entries an event touches (R109 to R111). -/
def State.toldPanels (s : State) (row : CarRow) (slot : Nat) (old new : CarRec) : List Nat :=
  s.panelIds.filter ((s.prompts.pool.filter (s.promptTouched row slot old new)).map (·.panel)).contains

theorem mem_toldPanels {n : Nat} : n ∈ s.toldPanels row slot old new ↔ ∃ prow, s.row n = some prow ∧
    ∃ p ∈ s.prompts.pool, p.panel = n ∧ s.promptTouched row slot old new p = true := by
  simp only [State.toldPanels, List.mem_filter, mem_panelIds, List.contains_iff_mem, List.mem_map]
  constructor
  · rintro ⟨⟨prow, hrow⟩, p, ⟨hp, ht⟩, hn⟩
    exact ⟨prow, hrow, p, hp, hn, ht⟩
  · rintro ⟨prow, hrow, p, hp, hn, ht⟩
    exact ⟨⟨prow, hrow⟩, p, ⟨hp, ht⟩, hn⟩

theorem toldPanels_sorted (s : State) (row : CarRow) (slot : Nat) (old new : CarRec) :
    (s.toldPanels row slot old new).Pairwise (· < ·) := List.pairwise_lt_range.filter _

theorem panelsWhere_congr {s t : State} (h : t.loader = s.loader) (p : PanelRow → Bool) :
    t.panelsWhere p = s.panelsWhere p := by
  simp only [State.panelsWhere, State.panelIds, State.row, h]

/-- The state after the reports of an event, before its content changes. -/
def State.eventReported (s : State) (slot : Nat) (row : CarRow) (old new : CarRec) : State :=
  ({ s.carEventShown slot row old new with
    prompts := { (s.carEventShown slot row old new).prompts with
      pool := s.prompts.pool.filterMap (s.promptAfter row slot old new) } } : State).reportAll none
    (s.toldPanels row slot old new)

theorem promptsCarEvent_shown : (s.carEventShown slot row old new).promptsCarEvent row slot old new =
    s.eventReported slot row old new := by
  obtain ⟨hloader, hcycle, hprompts⟩ := copyAndCycle_of_forLanterns (carEventShown_forLanterns s slot row old new)
  have hpanels : (s.carEventShown slot row old new).panelIds = s.panelIds := by simp only [State.panelIds, hloader]
  rw [promptsCarEvent_eq, hpanels, promptAfter_congr hloader hcycle, promptTouched_congr hloader]
  simp only [hprompts, State.eventReported, State.toldPanels]

theorem eventReported_stops : (s.eventReported slot row old new).stops = (s.carEventShown slot row old new).stops :=
  (congrArg State.stops (reportAll_forPrompts none (s.toldPanels row slot old new) _) :)

theorem eventReported_mode : (s.eventReported slot row old new).mode = (s.carEventShown slot row old new).mode :=
  reportAll_mode ..

theorem eventReported_loader : (s.eventReported slot row old new).loader = s.loader :=
  Eq.trans (congrArg State.loader (reportAll_forPrompts none (s.toldPanels row slot old new) _) :)
    (copyAndCycle_of_forLanterns (carEventShown_forLanterns s slot row old new)).1

include hr

/-- An event is its reports, and then the content changes of the panels that show the car. -/
theorem raiseCarEvent_reported : s.raiseCarEvent slot old new arrows =
    if contentDiffers old new arrows then
      (s.eventReported slot row old new).contentChanges (s.carPanels slot)
    else s.eventReported slot row old new := by
  have hpanels : (s.eventReported slot row old new).carPanels slot = s.carPanels slot :=
    panelsWhere_congr (eventReported_loader old new) _
  rw [raiseCarEvent_eq hr, promptsCarEvent_shown, hpanels]

theorem raiseCarEvent_keepsShown : (s.raiseCarEvent slot old new arrows).stops = (s.carEventShown slot row old new).stops ∧
    (s.raiseCarEvent slot old new arrows).mode = (s.carEventShown slot row old new).mode := by
  rw [raiseCarEvent_reported hr]
  split
  · have hshow := contentChanges_forShow (s.carPanels slot) (s.eventReported slot row old new)
    exact ⟨Eq.trans (congrArg State.stops hshow :) (eventReported_stops old new),
      Eq.trans (congrArg State.mode hshow :) (eventReported_mode old new)⟩
  · exact ⟨eventReported_stops old new, eventReported_mode old new⟩

theorem leftBehind_carRow : (s.leftBehind slot row old new).carRow slot = some row := by
  have hloader := (copyAndCycle_of_forLanterns (leftBehind_forLanterns s slot row old new)).1
  simp only [State.carRow, hloader]
  exact hr

omit hr in
theorem leftBehind_lanterns (s : State) (slot : Nat) (row : CarRow) (old new : CarRec) :
    (s.leftBehind slot row old new).stops.lanterns = s.stops.lanterns := by
  rw [leftBehind_stops]

/-- The places of the list as the lantern evaluation finds them. -/
theorem carEventShown_foldl : s.carEventShown slot row old new =
    (List.range s.stops.lanterns.length).foldl
      (fun (u : State) place => u.evaluateLantern row slot (arrivalsOf row old new) place) (s.leftBehind slot row old new) := by
  rw [carEventShown_eq, evaluateLanterns_eq (leftBehind_carRow hr old new), leftBehind_lanterns]

open Classical in
/-- The quiet record of a panel after an event: AWAKE below level 3 when the event or a lantern wakes it. -/
theorem carEventShown_quiet {n : Nat} {prow : PanelRow} (hn : s.row n = some prow) {q : QuietRec}
    (hq : s.mode.quiet[n]? = some q) : (s.carEventShown slot row old new).mode.quiet[n]? = some
      (if s.mode.level ≠ .evacuate ∧ (wokenBy row slot old new prow = true ∨
          ∃ place, (s.leftBehind slot row old new).lightsAt row slot (arrivalsOf row old new) n prow place) then
        { state := .awake, timer := some (s.quietAhead prow) } else q) := by
  have hleft := leftBehind_quiet s slot row old new hn hq
  have hahead : (s.leftBehind slot row old new).quietAhead prow = s.quietAhead prow := by
    obtain ⟨hloader, hcycle, -⟩ := copyAndCycle_of_forLanterns (leftBehind_forLanterns s slot row old new)
    simp only [State.quietAhead, State.now, State.timing, hloader, hcycle]
  obtain ⟨hlit, hdark⟩ := evaluateLanterns_quiet row slot (arrivalsOf row old new) (leftBehind_carRow hr old new)
    ((leftBehind_row s slot row old new n).trans hn) hleft
  rw [leftBehind_level, hahead] at hlit
  rw [leftBehind_level] at hdark
  rw [carEventShown_eq]
  by_cases hl : s.mode.level = .evacuate
  · rw [hdark (.inl hl), if_neg fun h => h.1 hl, if_neg fun h => h.1 hl]
  · by_cases hp : ∃ place, (s.leftBehind slot row old new).lightsAt row slot (arrivalsOf row old new) n prow place
    · rw [hlit hl hp, if_pos ⟨hl, .inr hp⟩]
    · rw [hdark (.inr hp)]
      simp only [hp, or_false]

theorem evaluateLanterns_lamps (arrivals : List (Deck × Nat)) : (s.evaluateLanterns slot arrivals).mode.lamps = s.mode.lamps := by
  rw [evaluateLanterns_eq hr]
  refine forEach_keeps (fun t => t.mode.lamps) (fun place u => u.evaluateLantern row slot arrivals place)
    (fun place u => ?_) _ s
  rcases evaluateLantern_cases row slot arrivals place u with ⟨-, he⟩ | ⟨r, prow, choice, free, -, -, -, he⟩
  · rw [he]
  · rw [he, applyMove_mode]
    split
    · exact wake_lamps _ _
    · rfl

end event

end Sys2Proof.Machine

open Sys2Proof Sys2Proof.Machine

/-- Settles O21: wakes first, then the decks leave their landings, each lantern record of the car is evaluated, the pool
reported and the panels of the car shown; each part reads what the parts before it leave. -/
theorem carEventsActOnStopsAndPrompts : Obligations.CarEventsActOnStopsAndPrompts := by
  intro s slot row old new hr opened running departs' unfit arrivals boards held touched woken shows view move arrived
    panels
  have hdeparts : departs old new = true ↔ departs' := departs_iff
  have hunfit : reassigns old new = true ↔ unfit := reassigns_iff
  have hwoken (prow : PanelRow) : wokenBy row slot old new prow = true ↔ woken prow := wokenBy_iff
  have hboards {p : Prompt} (hp : p.slot = slot) : s.boards row slot old new p = true ↔ p.state ≠ .reassign ∧ boards p :=
    boards_iff hp
  have hpanels (p : PanelRow → Bool) (q : PanelRow → Prop) (hpq : ∀ prow, p prow = true ↔ q prow) :
      panels (fun _ prow => q prow) (s.panelsWhere p) :=
    ⟨panelsWhere_sorted s p, fun n => by simp only [mem_panelsWhere, hpq]⟩
  refine ⟨fun d l => ⟨?_, arrivalAt_iff⟩, fun d l => ⟨fun hmem => ?_, removeStop_of_notMem⟩,
    fun place r prow hplace hrow => ⟨fun hother => ?_, fun hslot => ?_⟩, fun p => ⟨promptAfter_other, ?_, ?_⟩,
    fun arrows => ⟨⟨_, _, _, hpanels _ woken hwoken, ⟨toldPanels_sorted s row slot old new, ?_⟩,
      hpanels (fun prow => prow.shows slot) shows (fun _ => shows_iff), ?_⟩, ?_, ?_, ?_, raiseCarEvent_decks hr old new arrows,
      raiseCarEvent_pool hr old new arrows, ?_, ?_⟩⟩
  · rw [mem_arrivalsOf, arrivalOf_iff, openAt_iff, openAt_iff]
  · refine ⟨s.carPanelsOf slot d, hpanels _ _ (fun prow => ?_), removeStop_of_mem hmem⟩
    simp only [Bool.and_eq_true, beq_iff_eq, and_assoc]
  · exact evaluateLantern_of_other row slot arrivals hplace hother
  · exact evaluateLantern_of_car row slot arrivals hplace hslot hrow
  · exact fun hslot hd hb => promptAfter_departs hslot ⟨hdeparts.mpr hd, hb⟩
  · intro hslot hstays
    have hafter := promptAfter_stays (s := s) (row := row) (old := old) (new := new) hslot
      (fun h => hstays ⟨hdeparts.mp h.1, h.2⟩)
    refine ⟨fun hu hp => ?_, fun hu hb hp => ?_, fun hu hb => ?_, fun hp => ?_⟩
    · exact hafter.trans (if_pos ⟨hunfit.mpr hu, hp⟩)
    · rw [hafter, if_neg fun h => hu (hunfit.mp h.1), if_pos ((hboards hslot).mpr ⟨hp, hb⟩)]
      rfl
    · rw [hafter, if_neg fun h => hu (hunfit.mp h.1), if_neg fun h => hb ((hboards hslot).mp h).2]
    · rw [hafter, if_neg fun h => h.2 hp, if_neg fun h => ((hboards hslot).mp h).1 hp]
  · intro n
    rw [mem_toldPanels]
    refine exists_congr fun prow => and_congr_right fun _ => exists_congr fun p => and_congr_right fun _ =>
      and_congr_right fun _ => promptTouched_iff.trans (and_congr_right fun hslot => ?_)
    rw [hdeparts, hunfit, hboards hslot, and_comm (a := p.state ≠ .reassign)]
  · have hraise := raiseCarEvent_reported hr old new arrows
    have hdiffers := contentDiffers_iff (old := old) (new := new) (arrows := arrows)
    unfold State.eventReported at hraise
    rw [carEventShown_foldl hr] at hraise
    exact ⟨fun h => hraise.trans (if_pos (hdiffers.mpr h)), fun h => hraise.trans (if_neg (mt hdiffers.mp h))⟩
  · exact eq_of_forCar (raiseCarEvent_forCar slot old new arrows s)
  · rw [(raiseCarEvent_keepsShown hr old new arrows).2, carEventShown_eq, evaluateLanterns_lamps (leftBehind_carRow hr old new),
      leftBehind_lamps]
  · intro n prow q hn hq
    have hlights : (∃ place, (s.leftBehind slot row old new).lightsAt row slot arrivals n prow place) ↔
        ∃ r ∈ s.stops.lanterns, r.slot = slot ∧ r.panel = n ∧ ∃ choice, (move arrived prow choice r).wake = true := by
      simp only [State.lightsAt, leftBehind_lanterns, leftBehind_viewOf]
      constructor
      · rintro ⟨place, r, hplace, hslot, hp, hw⟩
        exact ⟨r, List.mem_of_getElem? hplace, hslot, hp, false, hw⟩
      · rintro ⟨r, hmem, hslot, hp, choice, hw⟩
        obtain ⟨place, hplace⟩ := List.getElem?_of_mem hmem
        exact ⟨place, r, hplace, hslot, hp, (evaluate_wake_choice (view arrived prow choice) false _ r).trans hw⟩
    have hquiet := carEventShown_quiet hr old new hn hq
    have hwakes := or_congr (hwoken prow) hlights
    rw [(raiseCarEvent_keepsShown hr old new arrows).2]
    refine ⟨fun hl hw => hquiet.trans (congrArg some (if_pos ⟨hl, hwakes.mpr hw⟩)),
      fun hnot => hquiet.trans (congrArg some (if_neg ?_))⟩
    rintro ⟨hl, hw⟩
    exact hnot.elim hl fun hn => hn (hwakes.mp hw)
  · intro place r hplace hother
    rw [(raiseCarEvent_keepsShown hr old new arrows).1, carEventShown_eq]
    exact evaluateLanterns_other (leftBehind_carRow hr old new) arrivals
      ((leftBehind_lanterns s slot row old new).symm ▸ hplace) hother
  · intro place r prow hplace hslot hrow
    rw [(raiseCarEvent_keepsShown hr old new arrows).1, carEventShown_eq]
    obtain ⟨choice, hrecord⟩ := evaluateLanterns_record (leftBehind_carRow hr old new) arrivals
      ((leftBehind_lanterns s slot row old new).symm ▸ hplace) hslot ((leftBehind_row s slot row old new _).trans hrow)
    rw [leftBehind_viewOf] at hrecord
    exact ⟨choice, hrecord⟩

end

section
/-! PROOFS. A CAR CALLS frame (R83, R86 to R89, R93): the deck record, the intent's arrow, and what follows. -/

namespace Sys2Proof.Machine

/-! ### The stop set of a frame (R89) -/

theorem mem_insertStop {l k : Nat} {stops : List Nat} : k ∈ insertStop l stops ↔ k = l ∨ k ∈ stops := by
  induction stops with
  | nil => simp [insertStop]
  | cons x stops ih =>
    unfold insertStop
    split
    · simp
    · split
      · next h => simp [h]
      · simp only [List.mem_cons, ih]
        exact or_left_comm

theorem insertStop_sorted {l : Nat} {stops : List Nat} (h : stops.Pairwise (· < ·)) :
    (insertStop l stops).Pairwise (· < ·) := by
  induction stops with
  | nil => exact List.pairwise_singleton _ l
  | cons x stops ih =>
    obtain ⟨hx, hstops⟩ := List.pairwise_cons.mp h
    unfold insertStop
    split
    · next hlt =>
      refine List.pairwise_cons.mpr ⟨fun y hy => ?_, h⟩
      rcases List.mem_cons.mp hy with rfl | hmem
      · exact hlt
      · exact hlt.trans (hx y hmem)
    · split
      · exact h
      · refine List.pairwise_cons.mpr ⟨fun y hy => ?_, ih hstops⟩
        rcases mem_insertStop.mp hy with rfl | hmem
        · omega
        · exact hx y hmem

theorem mem_stopSet {row : CarRow} {d : Deck} {l : Nat} {stops : List Byte} :
    l ∈ stopSet row d stops ↔ ∃ b : Byte, b ∈ stops ∧ b.toNat = l ∧ row.serves d l = true := by
  induction stops with
  | nil => simp [stopSet]
  | cons b stops ih =>
    have hsplit : (∃ c : Byte, c ∈ b :: stops ∧ c.toNat = l ∧ row.serves d l = true) ↔
        (b.toNat = l ∧ row.serves d l = true) ∨ ∃ c : Byte, c ∈ stops ∧ c.toNat = l ∧ row.serves d l = true := by
      simp only [List.mem_cons, or_and_right, exists_or, exists_eq_left]
    unfold stopSet
    rw [hsplit]
    split
    · next hserves =>
      rw [mem_insertStop, ih]
      refine or_congr_left ⟨fun e => ⟨e.symm, e ▸ hserves⟩, fun h => h.1.symm⟩
    · next hserves =>
      rw [ih]
      refine (or_iff_right fun h => hserves ?_).symm
      rw [h.1]
      exact h.2

theorem stopSet_sorted (row : CarRow) (d : Deck) (stops : List Byte) : (stopSet row d stops).Pairwise (· < ·) := by
  induction stops with
  | nil => exact List.Pairwise.nil
  | cons b stops ih =>
    unfold stopSet
    split
    · exact insertStop_sorted ih
    · exact ih

/-! ### The intent (R83) -/

/-- The state in which a deck's record has been replaced, with the landings dropped counted. -/
def State.callsStored (s : State) (slot : Nat) (row : CarRow) (d : Deck) (f : CallsFrame) (intent : Dir) : State :=
  (s.countN .fieldRange (stopsOutside row d f.stops)).setDecks slot
    (fun ds => ds.set d { stops := stopSet row d f.stops, intent := intent, lastSeq := some f.seq })

section calls
variable {s : State} {slot : Nat} {row : CarRow} (hr : s.carRow slot = some row) {f : CallsFrame} {d : Deck}
  {intent : Dir} (hd : decodeCallsDeck f.deck = some d) (hi : decodeIntent f.intent = some intent)
  (hserved : ¬ (d = .upper ∧ row.step = 0))
  (hnewer : ∀ last, ((s.decksOf slot).get d).lastSeq = some last →
    1 ≤ (f.seq - last).toNat ∧ (f.seq - last).toNat ≤ 127)

include hr hd hi hserved hnewer in
theorem carCallsTaken_newer : s.carCallsTaken slot f =
    let told := if ((s.decksOf slot).get d).intent = intent then s.callsStored slot row d f intent
      else (s.callsStored slot row d f intent).intentChanged slot row (s.decksOf slot)
    if ((s.decksOf slot).get d).intent = intent ∧ ((s.decksOf slot).get d).stops = stopSet row d f.stops then told
    else (told.contentChanges (told.carPanelsOf slot d)).evaluateLanterns slot [] := by
  have hnew : (match ((s.decksOf slot).get d).lastSeq with
      | none => true
      | some l => decide (1 ≤ (f.seq - l).toNat) && decide ((f.seq - l).toNat ≤ 127)) = true := by
    cases hlast : ((s.decksOf slot).get d).lastSeq with
    | none => rfl
    | some l =>
      obtain ⟨hlo, hhi⟩ := hnewer l hlast
      exact Bool.and_eq_true _ _ ▸ ⟨decide_eq_true hlo, decide_eq_true hhi⟩
  simp only [State.carCallsTaken, hr, hd, hi, if_neg hserved]
  exact if_pos hnew

/-- The deck's intent turns the arrow of a car that stands tracked and anchored (R83). -/
abbrev State.turnsArrow (s : State) (slot : Nat) (d : Deck) (intent : Dir) : Prop :=
  ((s.decksOf slot).get d).intent ≠ intent ∧ (s.carRec slot).tracking = .tracked ∧ (s.carRec slot).anchor = true ∧
    (s.carRec slot).motion.atRest = true ∧ slot < s.stops.decks.length

/-- The record of a car whose intent a frame has set. -/
def State.turnedRec (s : State) (slot : Nat) (d : Deck) (intent : Dir) : CarRec :=
  { s.carRec slot with
    arrow := if d = .lower ∧ s.turnsArrow slot d intent then intent else (s.carRec slot).arrow }

/-- The state after the arrow of a frame's intent, with its event where an arrow changed. -/
def State.callsTold (s : State) (slot : Nat) (row : CarRow) (d : Deck) (f : CallsFrame) (intent : Dir) : State :=
  let replaced := (s.callsStored slot row d f intent).setCar slot (s.turnedRec slot d intent)
  if s.turnsArrow slot d intent ∧ (d = .upper ∨ (s.carRec slot).arrow ≠ intent) then
    replaced.raiseCarEvent slot (s.carRec slot) (s.turnedRec slot d intent) true
  else replaced

theorem turnedRec_of_not (h : ¬ s.turnsArrow slot d intent) : s.turnedRec slot d intent = s.carRec slot := by
  unfold State.turnedRec
  rw [if_neg fun hd => h hd.2]

theorem turnedRec_of_turns (h : s.turnsArrow slot d intent) : s.turnedRec slot d intent =
    { s.carRec slot with arrow := if d = .lower then intent else (s.carRec slot).arrow } :=
  congrArg (fun arrow => ({ s.carRec slot with arrow := arrow } : CarRec)) (if_congr (and_iff_left h) rfl rfl)

theorem callsTold_of_turns (h : s.turnsArrow slot d intent) : s.callsTold slot row d f intent =
    if d = .upper ∨ (s.carRec slot).arrow ≠ intent then
      ((s.callsStored slot row d f intent).setCar slot (s.turnedRec slot d intent)).raiseCarEvent slot (s.carRec slot)
        (s.turnedRec slot d intent) true
    else (s.callsStored slot row d f intent).setCar slot (s.turnedRec slot d intent) :=
  if_congr (and_iff_right h) rfl rfl

theorem callsTold_of_not (hslot : slot < s.cars.length) (h : ¬ s.turnsArrow slot d intent) :
    s.callsTold slot row d f intent = s.callsStored slot row d f intent := by
  have hself : (s.callsStored slot row d f intent).setCar slot (s.carRec slot) = s.callsStored slot row d f intent :=
    setCar_carRec (s := s.callsStored slot row d f intent) (getElem?_carRec hslot)
  unfold State.callsTold
  dsimp only
  rw [if_neg fun ht => h ht.1, turnedRec_of_not h, hself]

theorem callsStored_decksOf (hlt : slot < s.stops.decks.length) : (s.callsStored slot row d f intent).decksOf slot =
    (s.decksOf slot).set d { stops := stopSet row d f.stops, intent := intent, lastSeq := some f.seq } := by
  unfold State.decksOf
  have hmodify := List.getElem?_modify_eq (fun ds : CarDecks =>
    ds.set d { stops := stopSet row d f.stops, intent := intent, lastSeq := some f.seq }) slot s.stops.decks
  refine (congrArg (fun o => o.getD CarDecks.start) hmodify).trans ?_
  rw [List.getElem?_eq_getElem hlt]
  rfl

theorem callsStored_decksOf_of_le (hle : s.stops.decks.length ≤ slot) :
    (s.callsStored slot row d f intent).decksOf slot = s.decksOf slot := by
  have hmodify : (s.callsStored slot row d f intent).stops.decks = s.stops.decks :=
    List.modify_eq_self hle
  simp only [State.decksOf, hmodify]

theorem arrowFor_upper_of_rest {r : CarRec} (h : r.tracking = .tracked ∧ r.anchor = true ∧ r.motion.atRest = true)
    (ds : CarDecks) : r.arrowFor ds .upper = ds.upper.intent := if_pos h

/-- The arrow of a car at rest, and what an intent changes of the two decks' arrows (R83). -/
theorem intentChanged_of_rest {u : State} {before : CarDecks} {car : CarRec} (hcar : u.carRec slot = car)
    (h : car.tracking = .tracked ∧ car.anchor = true ∧ car.motion.atRest = true) : u.intentChanged slot row before =
      let new : CarRec := { car with
        arrow := if before.lower.intent = (u.decksOf slot).lower.intent then car.arrow
          else (u.decksOf slot).lower.intent }
      if car.arrow ≠ new.arrow ∨ (row.step ≠ 0 ∧ before.upper.intent ≠ (u.decksOf slot).upper.intent) then
        (u.setCar slot new).raiseCarEvent slot car new true
      else u.setCar slot new := by
  subst hcar
  have hnew (arrow : Dir) : ({ u.carRec slot with arrow := arrow } : CarRec).arrowFor (u.decksOf slot) .upper =
      (u.decksOf slot).upper.intent := arrowFor_upper_of_rest (r := { u.carRec slot with arrow := arrow }) h _
  refine (if_pos ⟨evaluable_iff.mpr ⟨h.1, h.2.1⟩, h.2.2⟩).trans (if_congr (or_congr_right ?_) rfl rfl)
  rw [Bool.and_eq_true, bne_iff_ne, bne_iff_ne, arrowFor_upper_of_rest h, hnew]

/-- A frame whose intent is another takes the arrow of a car at rest. -/
theorem intentChanged_callsStored (hslot : slot < s.cars.length) (hserved : ¬ (d = .upper ∧ row.step = 0))
    (hintent : ((s.decksOf slot).get d).intent ≠ intent) :
    (s.callsStored slot row d f intent).intentChanged slot row (s.decksOf slot) = s.callsTold slot row d f intent := by
  by_cases hrest : (s.carRec slot).evaluable = true ∧ (s.carRec slot).motion.atRest = true
  · obtain ⟨htracked, hm⟩ := hrest
    obtain ⟨ht, ha⟩ := evaluable_iff.mp htracked
    rw [intentChanged_of_rest (u := s.callsStored slot row d f intent) (car := s.carRec slot) rfl ⟨ht, ha, hm⟩]
    by_cases hlt : slot < s.stops.decks.length
    · have hturns : s.turnsArrow slot d intent := ⟨hintent, ht, ha, hm, hlt⟩
      rw [callsStored_decksOf hlt]
      rw [callsTold_of_turns hturns, turnedRec_of_turns hturns]
      cases d with
      | lower =>
        simp only [CarDecks.set, show ¬ (s.decksOf slot).lower.intent = intent from hintent, if_false, if_true, ne_eq,
          not_true, and_false, or_false, reduceCtorEq, false_or]
      | upper =>
        have hstep : row.step ≠ 0 := fun e => hserved ⟨rfl, e⟩
        simp only [CarDecks.set, if_true, if_false, true_or, ne_eq, hstep, not_false_eq_true, true_and, reduceCtorEq,
          show ¬ (s.decksOf slot).upper.intent = intent from hintent, or_true]
    · have hnot : ¬ s.turnsArrow slot d intent := fun ⟨_, _, _, _, h⟩ => hlt h
      rw [callsStored_decksOf_of_le (Nat.not_lt.mp hlt), callsTold_of_not hslot hnot]
      simp only [if_true, ne_eq, not_true, and_false, or_self, if_false]
      exact setCar_carRec (s := s.callsStored slot row d f intent) (getElem?_carRec hslot)
  · have hnot : ¬ s.turnsArrow slot d intent := fun ⟨_, ht, ha, hm, _⟩ => hrest ⟨evaluable_iff.mpr ⟨ht, ha⟩, hm⟩
    rw [callsTold_of_not hslot hnot]
    exact if_neg hrest

end calls

end Sys2Proof.Machine
end

section
/-! PROOFS. What a CAR CALLS frame leaves of every record (R66, R83, R86 to R89, R93). -/

namespace Sys2Proof.Machine

/-- An event of another arrow alone has no arrival and touches no entry. -/
theorem raiseCarEvent_of_arrow {s : State} {slot : Nat} {row : CarRow} (hr : s.carRow slot = some row) (old : CarRec)
    (arrow : Dir) (arrows : Bool) :
    (s.raiseCarEvent slot old { old with arrow := arrow } arrows).stops.decks = s.stops.decks ∧
      (s.raiseCarEvent slot old { old with arrow := arrow } arrows).prompts.pool = s.prompts.pool := by
  constructor
  · rw [raiseCarEvent_decks hr, arrivalsOf_of_still (old := old) (new := { old with arrow := arrow }) rfl rfl rfl rfl]
    exact decks_modify_self (f := fun ds => ds.arrived []) rfl
  · have hreassigns : reassigns old { old with arrow := arrow } = false := by
      simp [reassigns]
    have hid : s.promptAfter row slot old { old with arrow := arrow } = some := by
      funext p
      rw [promptAfter_of_still (old := old) (new := { old with arrow := arrow }) rfl rfl rfl rfl, hreassigns]
      simp
    rw [raiseCarEvent_pool hr, hid, List.filterMap_some]

theorem panelsWhere_any (s : State) (p : PanelRow → Bool) :
    s.panelsWhere p = s.panelIds.filter (fun n => (s.row n).any p) := by
  unfold State.panelsWhere
  refine congrArg (fun q => s.panelIds.filter q) (funext fun n => ?_)
  cases s.row n <;> rfl

section calls
variable {s : State} {slot : Nat} {row : CarRow} (hr : s.carRow slot = some row) (f : CallsFrame) (d : Deck) (intent : Dir)

/-- The state with a frame's deck record and the car's arrow stored. -/
def State.callsReplaced (s : State) (slot : Nat) (row : CarRow) (d : Deck) (f : CallsFrame) (intent : Dir) : State :=
  (s.callsStored slot row d f intent).setCar slot (s.turnedRec slot d intent)

theorem callsTold_cars : (s.callsTold slot row d f intent).cars = s.cars.set slot (s.turnedRec slot d intent) := by
  unfold State.callsTold
  dsimp only
  split
  · rw [raiseCarEvent_cars]
    rfl
  · rfl

theorem callsTold_forCar : (s.callsTold slot row d f intent).forCar =
    (s.callsReplaced slot row d f intent).forCar := by
  unfold State.callsTold
  dsimp only
  split
  · exact raiseCarEvent_forCar ..
  · rfl

include hr in
theorem callsTold_kept :
    (s.callsTold slot row d f intent).stops.decks = (s.callsReplaced slot row d f intent).stops.decks ∧
      (s.callsTold slot row d f intent).prompts.pool = s.prompts.pool := by
  unfold State.callsTold
  dsimp only
  split
  · exact raiseCarEvent_of_arrow (s := s.callsReplaced slot row d f intent) hr (s.carRec slot) _ true
  · exact ⟨rfl, rfl⟩

theorem callsTold_loader : (s.callsTold slot row d f intent).loader = s.loader :=
  Eq.trans (congrArg State.loader (callsTold_forCar f d intent) :) rfl

/-- The CAR panels of the deck, and the lanterns of the car, once more (R66, R93). -/
def State.callsShown (s : State) (slot : Nat) (row : CarRow) (d : Deck) (f : CallsFrame) (intent : Dir) : State :=
  ((s.callsTold slot row d f intent).contentChanges (s.carPanelsOf slot d)).evaluateLanterns slot []

theorem forLanterns_callsShown : (s.callsShown slot row d f intent).forLanterns =
    (s.callsTold slot row d f intent).forLanterns :=
  (evaluateLanterns_forLanterns slot [] _).trans (forLanterns_of_forQuiet (contentChanges_forQuiet _ _))

theorem callsShown_decks : (s.callsShown slot row d f intent).stops.decks =
    (s.callsTold slot row d f intent).stops.decks := by
  unfold State.callsShown
  rw [evaluateLanterns_decks]
  exact congrArg StopsUnit.decks (stops_of_forQuiet (contentChanges_forQuiet _ (s.callsTold slot row d f intent)))

theorem callsShown_forCar : (s.callsShown slot row d f intent).forCar = (s.callsReplaced slot row d f intent).forCar := by
  exact (forCar_of_forLanterns (forLanterns_callsShown f d intent)).trans (callsTold_forCar f d intent)

theorem callsShown_cars : (s.callsShown slot row d f intent).cars = s.cars.set slot (s.turnedRec slot d intent) :=
  Eq.trans (congrArg State.cars (forLanterns_callsShown f d intent) :) (callsTold_cars f d intent)

theorem callsTold_contentChanges_loader (l : List Nat) :
    ((s.callsTold slot row d f intent).contentChanges l).loader = s.loader :=
  Eq.trans (congrArg State.loader (contentChanges_forQuiet l (s.callsTold slot row d f intent)) :)
    (callsTold_loader f d intent)

theorem carRow_congr {s t : State} (h : t.loader = s.loader) (slot : Nat) : t.carRow slot = s.carRow slot := by
  simp only [State.carRow, h]

/-- The state in which the CAR panels have been told and the lanterns are evaluated. -/
theorem callsTold_contentChanges_viewOf (hslot : slot < s.cars.length) (l : List Nat) (prow : PanelRow) (choice : Bool) :
    ((s.callsTold slot row d f intent).contentChanges l).viewOf prow row slot choice =
      { copy := s.loader.copy, landing := prow.landing, car := row, carRec := s.turnedRec slot d intent,
        decks := (s.callsShown slot row d f intent).decksOf slot, now := s.cycle.clock, linger := (s.timing prow).linger,
        openUpper := choice } := by
  have hquiet := contentChanges_forQuiet l (s.callsTold slot row d f intent)
  have hforCar := callsTold_forCar (s := s) (slot := slot) (row := row) f d intent
  have hloader := callsTold_contentChanges_loader (s := s) (slot := slot) (row := row) f d intent l
  have hcycle : ((s.callsTold slot row d f intent).contentChanges l).cycle = s.cycle :=
    Eq.trans (congrArg State.cycle hquiet :) (Eq.trans (congrArg State.cycle hforCar :) rfl)
  have hcars : ((s.callsTold slot row d f intent).contentChanges l).cars = s.cars.set slot (s.turnedRec slot d intent) :=
    Eq.trans (congrArg State.cars hquiet :) (callsTold_cars f d intent)
  have hdecks : ((s.callsTold slot row d f intent).contentChanges l).decksOf slot =
      (s.callsShown slot row d f intent).decksOf slot := by
    have hstops := congrArg StopsUnit.decks (stops_of_forQuiet hquiet)
    simp only [State.decksOf, callsShown_decks, hstops]
  have hrec : ((s.callsTold slot row d f intent).contentChanges l).carRec slot = s.turnedRec slot d intent := by
    unfold State.carRec
    rw [hcars, List.getElem?_set_self hslot, Option.getD_some]
  simp only [State.viewOf, State.lanternView, hrec, hdecks, State.now, hcycle, State.timing, hloader]

section lanterns
variable {place : Nat} {r : Lantern} (hplace : (s.callsTold slot row d f intent).stops.lanterns[place]? = some r)
include hr hplace

theorem callsShown_other (h : r.slot ≠ slot) : (s.callsShown slot row d f intent).stops.lanterns[place]? = some r := by
  have hstops := stops_of_forQuiet (contentChanges_forQuiet (s.carPanelsOf slot d) (s.callsTold slot row d f intent))
  refine evaluateLanterns_other (car := row) ?_ [] ((congrArg (·.lanterns[place]?) hstops).trans hplace) h
  rw [carRow_congr (callsTold_contentChanges_loader f d intent _)]
  exact hr

theorem callsShown_record (hslot : slot < s.cars.length) (hs : r.slot = slot) {prow : PanelRow}
    (hn : s.row r.panel = some prow) : ∃ choice, (s.callsShown slot row d f intent).stops.lanterns[place]? =
      some (({ copy := s.loader.copy, landing := prow.landing, car := row, carRec := s.turnedRec slot d intent,
               decks := (s.callsShown slot row d f intent).decksOf slot, now := s.cycle.clock,
               linger := (s.timing prow).linger, openUpper := choice } : LanternView).evaluate none r).record := by
  have hstops := stops_of_forQuiet (contentChanges_forQuiet (s.carPanelsOf slot d) (s.callsTold slot row d f intent))
  have hloader := callsTold_contentChanges_loader (s := s) (slot := slot) (row := row) f d intent (s.carPanelsOf slot d)
  obtain ⟨choice, h⟩ := evaluateLanterns_record (s := (s.callsTold slot row d f intent).contentChanges (s.carPanelsOf slot d))
    (car := row) ((carRow_congr hloader slot).trans hr) [] ((congrArg (·.lanterns[place]?) hstops).trans hplace) hs
    ((show _ = s.row r.panel by simp only [State.row, hloader]).trans hn)
  rw [callsTold_contentChanges_viewOf f d intent hslot] at h
  exact ⟨choice, h⟩

end lanterns

end calls

/-- What the CAR CALLS frame of a slot gives, both where the deck's record is another and where it is the same. -/
theorem carCallsTaken_eq {s : State} {slot : Nat} {row : CarRow} (hr : s.carRow slot = some row)
    (hslot : slot < s.cars.length) {f : CallsFrame} {d : Deck} {intent : Dir} (hd : decodeCallsDeck f.deck = some d)
    (hi : decodeIntent f.intent = some intent) (hserved : ¬ (d = .upper ∧ row.step = 0))
    (hnewer : ∀ last, ((s.decksOf slot).get d).lastSeq = some last →
      1 ≤ (f.seq - last).toNat ∧ (f.seq - last).toNat ≤ 127) :
    s.carCallsTaken slot f =
      if ((s.decksOf slot).get d).intent = intent ∧ ((s.decksOf slot).get d).stops = stopSet row d f.stops then
        s.callsReplaced slot row d f intent
      else s.callsShown slot row d f intent := by
  have htold : (if ((s.decksOf slot).get d).intent = intent then s.callsStored slot row d f intent
      else (s.callsStored slot row d f intent).intentChanged slot row (s.decksOf slot)) =
        s.callsTold slot row d f intent := by
    split
    · next hsame => exact (callsTold_of_not hslot fun h => h.1 hsame).symm
    · next hother => exact intentChanged_callsStored hslot hserved hother
  have hpanels : (s.callsTold slot row d f intent).carPanelsOf slot d = s.carPanelsOf slot d :=
    panelsWhere_congr (callsTold_loader f d intent) _
  rw [carCallsTaken_newer hr hd hi hserved hnewer]
  dsimp only
  rw [htold, hpanels]
  refine ite_congr rfl (fun hsame => ?_) (fun _ => rfl)
  have hnot : ¬ s.turnsArrow slot d intent := fun h => h.1 hsame.1
  exact if_neg fun h => hnot h.1

end Sys2Proof.Machine

open Sys2Proof Sys2Proof.Machine

/-- Settles O23: the frame's deck record is stored with the arrow it turns; another intent or set shows the CAR panels of
the deck and evaluates the lanterns of the car. -/
theorem carCallsReplaceTheStopSet : Obligations.CarCallsReplaceTheStopSet := by
  intro s rx f slot row d intent hh hk hd hserved hi old car hnewer
  have hrow := carRow_of hk
  have hslot : slot < s.busy.cars.length := hk.2.2
  have htaken := carCallsTaken_eq hrow hslot hd hi hserved hnewer
  have hexec := exec_carCalls hh hk
  rw [htaken] at hexec
  by_cases hsame : old.intent = intent ∧ old.stops = stopSet row d f.stops
  · have hnot : ¬ s.busy.turnsArrow slot d intent := fun h => h.1 hsame.1
    refine ⟨s.busy.callsReplaced slot row d f intent, stopSet row d f.stops, hexec.trans (congrArg _ (if_pos hsame)),
      fun _ => mem_stopSet, stopSet_sorted row d f.stops, rfl, rfl, rfl, fun _ _ => rfl, fun hdiff => ?_, rfl⟩
    exact absurd hsame (not_and_or.mpr hdiff)
  · obtain ⟨hdecks, hpool⟩ := callsTold_kept (s := s.busy) hrow f d intent
    have hshown := forLanterns_callsShown (s := s.busy) (slot := slot) (row := row) f d intent
    have hcars := callsShown_cars (s := s.busy) (slot := slot) (row := row) f d intent
    have hdecks' := (callsShown_decks (s := s.busy) (slot := slot) (row := row) f d intent).trans hdecks
    refine ⟨s.busy.callsShown slot row d f intent, stopSet row d f.stops, hexec.trans (congrArg _ (if_neg hsame)),
      fun _ => mem_stopSet, stopSet_sorted row d f.stops, hdecks', hcars,
      (congrArg PromptUnit.pool (copyAndCycle_of_forLanterns hshown).2.2).trans hpool, fun hi hs => absurd ⟨hi, hs⟩ hsame, fun _ => ?_, ?_⟩
    · dsimp only
      rw [hcars, hdecks', ← panelsWhere_any]
      exact ⟨rfl, fun place r hplace hother => callsShown_other (s := s.busy) hrow f d intent hplace hother,
        fun place r prow hplace hs hn => callsShown_record (s := s.busy) hrow f d intent hplace hslot hs hn⟩
    · dsimp only
      rw [hcars, hdecks']
      exact eq_of_forCar (callsShown_forCar (s := s.busy) f d intent)

end

section
/-! PROOFS. Cycle starts (R34, R59 to R62, R136, R137): the silence of a car, and a panel's skipped marks. -/

namespace Sys2Proof.Machine

/-! ### Silence (R59 to R62) -/

theorem trackingAfterSilence_eq (t : Tracking) (anchor : Bool) (n : Nat) : trackingAfterSilence t anchor n =
    if t = .lost then (if n = 0 then (if anchor then .tracked else .unknown) else .lost)
    else if 7 ≤ n then .lost
    else if t = .tracked ∧ 3 ≤ n then .stale
    else if t = .stale ∧ n ≤ 2 then .tracked
    else t := by
  cases t <;> simp [trackingAfterSilence]

theorem trackingAfterSilence_unknown (anchor : Bool) (n : Nat) : trackingAfterSilence .unknown anchor n ≠ .tracked := by
  unfold trackingAfterSilence
  dsimp only
  split <;> exact Tracking.noConfusion

/-- A timed evaluation with the timer settled, of a TRACKED record. -/
theorem timedSettled_eq (s : State) (slot : Nat) (row : CarRow) {r : CarRec} (ht : r.tracking = .tracked) :
    (s.timedEvaluated slot row r).settleTimer s.now =
      { (if r.anchor then r.evaluated s.loader.copy row (s.decksOf slot).lower.intent (s.cappedAge r) none else r) with
        timer := if r.anchor = true ∧ (r.motion = .runningUp ∨ r.motion = .runningDown) then
          some (r.timer.getD (s.cycle.clock + 100)) else none } := by
  have hevaluated : s.timedEvaluated slot row r =
      if r.anchor then r.evaluated s.loader.copy row (s.decksOf slot).lower.intent (s.cappedAge r) none else r :=
    if_congr (evaluable_iff.trans (and_iff_right ht)) rfl rfl
  have hkept : (s.timedEvaluated slot row r).tracking = .tracked ∧ (s.timedEvaluated slot row r).anchor = r.anchor ∧
      (s.timedEvaluated slot row r).motion = r.motion ∧ (s.timedEvaluated slot row r).timer = r.timer := by
    unfold State.timedEvaluated
    split <;> exact ⟨ht, rfl, rfl, rfl⟩
  obtain ⟨htracking, hanchor, hmotion, htimer⟩ := hkept
  rw [settleTimer_eq, ← hevaluated]
  simp only [htracking, hanchor, hmotion, htimer, true_and]
  rfl

theorem silenced_eq (s : State) (slot : Nat) (row : CarRow) (r : CarRec) :
    s.silenced slot row r = s.silencedRec slot row r := by
  have hunknown : trackingAfterSilence r.tracking r.anchor (silenceAfter r.heard r.silence) = .tracked →
      r.tracking ≠ .unknown := fun h hu => trackingAfterSilence_unknown _ _ (hu ▸ h)
  unfold State.silenced State.silencedRec
  dsimp only
  rw [← trackingAfterSilence_eq r.tracking r.anchor (if r.heard then r.silence - 1 else min 7 (r.silence + 1))]
  change _ → _ at hunknown
  unfold silenceAfter at hunknown ⊢
  generalize trackingAfterSilence r.tracking r.anchor (if r.heard then r.silence - 1 else min 7 (r.silence + 1)) = next
    at hunknown ⊢
  generalize (if r.heard then r.silence - 1 else min 7 (r.silence + 1)) = n
  cases next with
  | lost => cases r.tracking <;> rfl
  | unknown => cases r.tracking <;> rfl
  | stale => cases r.tracking <;> rfl
  | tracked =>
    rw [timedSettled_eq s slot row (r := { r with silence := n, heard := false, tracking := .tracked }) rfl]
    have hknown := hunknown rfl
    generalize r.tracking = t at hknown ⊢
    cases t with
    | unknown => exact absurd rfl hknown
    | tracked => rfl
    | stale => rfl
    | lost => rfl

/-- The silence evaluation of a car stores one record, with CAR_LOST raised at the entry to LOST (R60). -/
theorem evaluateSilence_taken {s : State} {slot : Nat} {row : CarRow} (hrow : s.loader.copy.cars[slot]? = some row) :
    StoredCar (s.raiseIf ((s.carRec slot).tracking != .lost &&
        (s.silencedRec slot row (s.carRec slot)).tracking == .lost) (.carLost slot)) slot row (s.carRec slot)
      (s.silencedRec slot row (s.carRec slot)) (s.evaluateSilence slot) := by
  have hcar : s.carRow slot = some row := hrow
  have heq : s.evaluateSilence slot = (s.raiseIf ((s.carRec slot).tracking != .lost &&
      (s.silencedRec slot row (s.carRec slot)).tracking == .lost) (.carLost slot)).updateCar slot row
        (s.silencedRec slot row (s.carRec slot)) := by
    simp only [State.evaluateSilence, hcar, silenced_eq]
  have hraised (b : Bool) : (s.raiseIf b (.carLost slot)).carRow slot = some row ∧
      (s.raiseIf b (.carLost slot)).carRec slot = s.carRec slot := by
    cases b <;> exact ⟨hrow, rfl⟩
  have hstored := storedCar_of_eq (hraised _).1 heq
  rw [(hraised _).2] at hstored
  exact hstored

/-! ### Skipped marks (R137) -/

theorem nextMatch_eq (count : BitVec 6) (list : List ShowEntry) (i : Nat) :
    nextMatch count list i = (findPlace (fun e => e.matchesCount count) list).map (· + i) := by
  induction list generalizing i with
  | nil => rfl
  | cons e rest ih =>
    unfold nextMatch findPlace
    split
    · exact congrArg some (Nat.zero_add i).symm
    · rw [ih, Option.map_map]
      refine congrArg (fun f => Option.map f _) (funext fun k => ?_)
      simp only [Function.comp_apply]
      omega

theorem nextMatch_zero (count : BitVec 6) (list : List ShowEntry) :
    nextMatch count list 0 = findPlace (fun e => count.toNat % e.period == e.phase) list := by
  rw [nextMatch_eq]
  simp only [Nat.add_zero, Option.map_id']
  rfl

section panel
variable {s : State} {n : Nat} {row : PanelRow} {sc : Schedule} (hr : s.row n = some row) (hs : s.schedules[n]? = some sc)
include hr hs

theorem skippedOf_eq (old : BitVec 6) : s.skippedOf n old =
    if s.suspended row then 0
    else match sc.pointer with
      | some p => ((row.list.drop p).filter (fun e => old.toNat % e.period == e.phase)).length
      | none => 0 := by
  simp only [State.skippedOf, State.schedule, hr, hs] <;> rfl

/-- A START, before its instants and marks are taken. -/
theorem schedCycleStart_start {e : CycleStart} (he : e.cause = .start) (old : BitVec 6) : s.schedCycleStart e old n =
    ((s.withSched n { sc with
      waiting := [], instants := 0,
      pointer := findPlace (fun e => s.cycle.count.toNat % e.period == e.phase) row.list }).takeInstants n).takeMarks n := by
  unfold State.schedCycleStart
  simp only [if_pos he]
  rw [setSched_of_some hs, showList_of_row hr, nextMatch_zero]

/-- The schedule of a panel at another cycle start, before its instants and marks are taken. -/
theorem schedCycleStart_other {e : CycleStart} (he : e.cause ≠ .start) (old : BitVec 6) : s.schedCycleStart e old n =
    ((({ s with
      links := s.cancelledLinks n sc,
      status := { s.status with counters := { s.status.counters with
        skippedMarks := counted s.status.counters.skippedMarks (s.skippedOf n old) } } } : State).withSched n
      { sc with
        waiting := [], instants := 0, preload := none,
        pointer := findPlace (fun e => s.cycle.count.toNat % e.period == e.phase) row.list }).takeInstants n).takeMarks n := by
  have habandon := abandonPreload_eq (s := s.countN .skippedMarks (s.skippedOf n old)) (n := n) (sc := sc) hs
  have hset : ((s.countN .skippedMarks (s.skippedOf n old)).abandonPreload n).schedules[n]? =
      some { sc with preload := none } := by
    rw [habandon]
    exact withSched_schedule (s := ({ s.countN .skippedMarks (s.skippedOf n old) with
      links := (s.countN .skippedMarks (s.skippedOf n old)).cancelledLinks n sc } : State)) hs _
  have hcount : ((s.countN .skippedMarks (s.skippedOf n old)).abandonPreload n).cycle.count = s.cycle.count := by
    rw [habandon]
    rfl
  have hlist : ((s.countN .skippedMarks (s.skippedOf n old)).abandonPreload n).showList n = row.list := by
    refine showList_of_row ?_
    rw [habandon]
    exact hr
  unfold State.schedCycleStart
  simp only [if_neg he]
  rw [setSched_of_some hset, hcount, hlist, nextMatch_zero, habandon]
  exact congrArg (fun u : State => (u.takeInstants n).takeMarks n) (withSched_withSched n _ _ _)

end panel

theorem cycleStart_eq (s : State) (cause : CycleCause) (base : Clock) (count : BitVec 6) :
    s.cycleStart cause base count =
      (s.panelIds.foldl (fun (t : State) n => t.schedCycleStart (s.cycleEvent cause base count) s.cycle.count n)
        { s with
          cycle := { s.cycle with
            base := base, count := count, crossed := false,
            event := some (s.cycleEvent cause base count) } }).carsCycleStart (s.cycleEvent cause base count) := rfl

end Sys2Proof.Machine

open Sys2Proof Sys2Proof.Machine

/-- Settles O40: the event reaches each panel and then each car; each part is the equation of its own function. -/
theorem cycleStartSkipsMarks : Obligations.CycleStartSkipsMarks := by
  refine ⟨fun s cause base count => ?_, fun s event old n row sc hr hs => ?_, fun s => rfl,
    fun s slot row r hrow hr => ?_⟩
  · have hevent : s.cycleEvent cause base count =
        { cause := cause, base := base, count := count, endedCt :=
            match cause with
            | .start => none
            | .heard => some s.ct
            | .localStart => some (s.loader.copy.lc + s.loader.copy.lc / 4) } := by
      cases cause <;> rfl
    exact hevent ▸ cycleStart_eq s cause base count
  · refine ⟨skippedOf_eq hr hs old, fun hstart => schedCycleStart_start hr hs hstart old, fun hother => ?_⟩
    have heq := schedCycleStart_other hr hs hother old
    rw [skippedOf_eq hr hs] at heq
    exact heq
  · have hrec : s.carRec slot = r := by rw [State.carRec, hr, Option.getD_some]
    have hstored := (evaluateSilence_taken hrow).event
    rw [hrec] at hstored
    dsimp only
    by_cases hlost : r.tracking ≠ .lost ∧ (s.silencedRec slot row r).tracking = .lost
    · have hraises : (r.tracking != .lost && (s.silencedRec slot row r).tracking == .lost) = true := by
        rw [Bool.and_eq_true, bne_iff_ne, beq_iff_eq]
        exact hlost
      rw [hraises] at hstored
      rw [if_pos hlost]
      exact hstored
    · have hkeeps : (r.tracking != .lost && (s.silencedRec slot row r).tracking == .lost) = false := by
        rw [← Bool.not_eq_true, Bool.and_eq_true, bne_iff_ne, beq_iff_eq]
        exact hlost
      rw [hkeeps] at hstored
      rw [if_neg hlost]
      exact hstored

end

section
/-! PROOFS. What a HEARD or LOCAL cycle start leaves of cars, pool, stop sets and skipped marks (R59 to R62, R111, R137). -/

namespace Sys2Proof.Machine

/-! ### The silence of one car -/

theorem silencedRec_kept (s : State) (slot : Nat) (row : CarRow) (r : CarRec) :
    (s.silencedRec slot row r).motion = r.motion ∧ (s.silencedRec slot row r).level = r.level ∧
      (s.silencedRec slot row r).doorLower = r.doorLower ∧ (s.silencedRec slot row r).doorUpper = r.doorUpper ∧
      (s.silencedRec slot row r).service = r.service := by
  unfold State.silencedRec
  dsimp only
  repeat' split
  all_goals exact ⟨rfl, rfl, rfl, rfl, rfl⟩

/-- What the silence evaluation of a car reads beside its record. -/
def State.silenceBase (s : State) : LoaderUnit × Clock × List CarDecks := (s.loader, s.cycle.clock, s.stops.decks)

theorem silencedRec_congr {s t : State} (h : t.silenceBase = s.silenceBase) (slot : Nat) (row : CarRow) (r : CarRec) :
    t.silencedRec slot row r = s.silencedRec slot row r := by
  simp only [State.silenceBase, Prod.mk.injEq] at h
  obtain ⟨hloader, hcycle, hdecks⟩ := h
  simp only [State.silencedRec, State.cappedAge, State.decksOf, hloader, hcycle, hdecks]

theorem reassigns_silenced (s : State) (slot : Nat) (row : CarRow) (r : CarRec) :
    reassigns r (s.silencedRec slot row r) = true ↔
      r.tracking ≠ .lost ∧ (s.silencedRec slot row r).tracking = .lost := by
  obtain ⟨-, -, -, -, hservice⟩ := silencedRec_kept s slot row r
  rw [reassigns_iff, hservice]
  exact or_iff_left fun h => h.2 h.1

/-- A car without a record of its own stays one that has never been heard. -/
theorem silenced_start_tracking (s : State) (slot : Nat) (row : CarRow) :
    (s.silencedRec slot row CarRec.start).tracking = .unknown := rfl

theorem evaluateSilence_no_row {s : State} {slot : Nat} (hrow : s.loader.copy.cars[slot]? = none) :
    s.evaluateSilence slot = s := by
  have hcar : s.carRow slot = none := hrow
  simp only [State.evaluateSilence, hcar]

theorem raiseIf_kept (b : Bool) (i : ExcItem) (s : State) : (s.raiseIf b i).cars = s.cars ∧
    (s.raiseIf b i).stops = s.stops ∧ (s.raiseIf b i).prompts = s.prompts ∧ (s.raiseIf b i).loader = s.loader ∧
    (s.raiseIf b i).cycle = s.cycle ∧ (s.raiseIf b i).status.counters = s.status.counters := by
  cases b <;> exact ⟨rfl, rfl, rfl, rfl, rfl, rfl⟩

theorem evaluateSilence_silenceBase (slot : Nat) (s : State) : (s.evaluateSilence slot).silenceBase = s.silenceBase := by
  have hframe := eq_of_forTracker (evaluateSilence_forTracker slot s)
  have hdecks : (s.evaluateSilence slot).stops.decks = s.stops.decks := by
    cases hrow : s.loader.copy.cars[slot]? with
    | none => rw [evaluateSilence_no_row hrow]
    | some row =>
      obtain ⟨hm, hl, hd, hu, -⟩ := silencedRec_kept s slot row (s.carRec slot)
      rw [((evaluateSilence_taken hrow).still hm hl hd hu).1, (raiseIf_kept _ _ s).2.1]
  have hloader : (s.evaluateSilence slot).loader = s.loader := by rw [hframe]; rfl
  have hcycle : (s.evaluateSilence slot).cycle = s.cycle := by rw [hframe]; rfl
  simp only [State.silenceBase, hloader, hcycle, hdecks]

theorem evaluateSilence_cars {s : State} {slot : Nat} {row : CarRow} (hrow : s.loader.copy.cars[slot]? = some row) :
    (s.evaluateSilence slot).cars = s.cars.set slot (s.silencedRec slot row (s.carRec slot)) := by
  rw [(evaluateSilence_taken hrow).cars, (raiseIf_kept _ _ s).1]

theorem evaluateSilence_cars_ne {slot k : Nat} (h : slot ≠ k) (s : State) :
    (s.evaluateSilence slot).cars[k]? = s.cars[k]? := by
  cases hrow : s.loader.copy.cars[slot]? with
  | none => rw [evaluateSilence_no_row hrow]
  | some row =>
    rw [evaluateSilence_cars hrow]
    exact List.getElem?_set_ne h

theorem carRec_congr {s t : State} {slot : Nat} (h : t.cars[slot]? = s.cars[slot]?) : t.carRec slot = s.carRec slot := by
  simp only [State.carRec, h]

theorem poolWithLost_of_none {s t : State} (h : ∀ p ∈ s.prompts.pool,
    ¬ ((s.carRec p.slot).tracking ≠ .lost ∧ (t.carRec p.slot).tracking = .lost)) : s.poolWithLost t = s.prompts.pool := by
  refine (List.map_congr_left fun p hp => if_neg ?_).trans (List.map_id _)
  exact fun ⟨hs, ht, _⟩ => h p hp ⟨hs, ht⟩

theorem held_congr {s t : State} (hl : t.loader = s.loader) (hc : t.cycle.clock = s.cycle.clock) (st : PromptState) (p : Prompt) :
    t.held st p = s.held st p := by
  simp only [State.held, State.holdOf, State.now, State.row, State.timing, hl, hc]

theorem poolWithLost_eq (s t : State) : s.poolWithLost t = s.prompts.pool.map (fun p =>
    if (s.carRec p.slot).tracking ≠ .lost ∧ (t.carRec p.slot).tracking = .lost ∧ p.state ≠ .reassign then
      s.held .reassign p else p) := rfl

/-- The silence evaluation of a car converts its entries when it becomes LOST (R111). -/
theorem evaluateSilence_pool (slot : Nat) (s : State) :
    (s.evaluateSilence slot).prompts.pool = s.poolWithLost (s.evaluateSilence slot) := by
  cases hrow : s.loader.copy.cars[slot]? with
  | none =>
    rw [evaluateSilence_no_row hrow]
    exact (poolWithLost_of_none fun p _ h => h.1 h.2).symm
  | some row =>
    obtain ⟨hm, hl, hd, hu, -⟩ := silencedRec_kept s slot row (s.carRec slot)
    obtain ⟨-, -, hprompts, hloader, hcycle, -⟩ := raiseIf_kept ((s.carRec slot).tracking != .lost &&
      (s.silencedRec slot row (s.carRec slot)).tracking == .lost) (.carLost slot) s
    rw [((evaluateSilence_taken hrow).still hm hl hd hu).2, hprompts, poolWithLost_eq]
    refine List.map_congr_left fun p _ => ?_
    rw [held_congr hloader (by rw [hcycle])]
    refine if_congr ?_ rfl rfl
    by_cases hslot : p.slot = slot
    · subst hslot
      rw [and_iff_right rfl, reassigns_silenced]
      by_cases hin : p.slot < s.cars.length
      · have hnew : (s.evaluateSilence p.slot).carRec p.slot = s.silencedRec p.slot row (s.carRec p.slot) := by
          unfold State.carRec
          rw [evaluateSilence_cars hrow, List.getElem?_set_self hin]
          rfl
        rw [hnew, and_assoc]
      · have hnone : s.cars[p.slot]? = none := List.getElem?_eq_none (Nat.not_lt.mp hin)
        have hstart : s.carRec p.slot = CarRec.start := by rw [State.carRec, hnone]; rfl
        have hsame : (s.evaluateSilence p.slot).carRec p.slot = CarRec.start := by
          have hlen : (s.evaluateSilence p.slot).cars[p.slot]? = none := by
            rw [evaluateSilence_cars hrow]
            exact List.getElem?_eq_none (by rw [List.length_set]; exact Nat.not_lt.mp hin)
          rw [State.carRec, hlen]
          rfl
        rw [hsame, hstart, silenced_start_tracking]
        simp [CarRec.start]
    · have hsame := carRec_congr (evaluateSilence_cars_ne (Ne.symm hslot) s)
      rw [hsame]
      exact iff_of_false (fun h => hslot h.1) (fun h => h.1 h.2.1)

theorem evaluateSilence_lost {s : State} {slot : Nat} {row : CarRow} (hrow : s.loader.copy.cars[slot]? = some row)
    (h16 : slot < 16) (h : (s.carRec slot).tracking ≠ .lost)
    (hlost : (s.silencedRec slot row (s.carRec slot)).tracking = .lost) :
    (s.evaluateSilence slot).status.exceptions.carLost.getLsbD slot = true := by
  have hframe := (evaluateSilence_taken hrow).frame
  have hb : ((s.carRec slot).tracking != .lost && (s.silencedRec slot row (s.carRec slot)).tracking == .lost) = true := by
    rw [Bool.and_eq_true, bne_iff_ne, beq_iff_eq]
    exact ⟨h, hlost⟩
  rw [hb] at hframe
  rw [hframe]
  show (s.status.exceptions.carLost ||| maskBit 16 slot).getLsbD slot = true
  rw [BitVec.getLsbD_or, getLsbD_maskBit]
  simp [h16]

theorem evaluateSilence_carLost_mono {k : Nat} (slot : Nat) (s : State) (h : s.status.exceptions.carLost.getLsbD k = true) :
    (s.evaluateSilence slot).status.exceptions.carLost.getLsbD k = true := by
  cases hrow : s.loader.copy.cars[slot]? with
  | none => rwa [evaluateSilence_no_row hrow]
  | some row =>
    rw [(evaluateSilence_taken hrow).frame]
    generalize ((s.carRec slot).tracking != .lost && (s.silencedRec slot row (s.carRec slot)).tracking == .lost) = b
    cases b
    · exact h
    · show (s.status.exceptions.carLost ||| maskBit 16 slot).getLsbD k = true
      rw [BitVec.getLsbD_or, h, Bool.true_or]

theorem evaluateSilence_skippedMarks (slot : Nat) (s : State) :
    (s.evaluateSilence slot).status.counters.skippedMarks = s.status.counters.skippedMarks := by
  rw [eq_of_forTracker (evaluateSilence_forTracker slot s)]
  rfl

/-! ### Every car (R59) -/

theorem evaluateSilences_car {s : State} {slot : Nat} {row : CarRow} {r : CarRec} (hr : s.cars[slot]? = some r)
    (hrow : s.loader.copy.cars[slot]? = some row) :
    s.evaluateSilences.cars[slot]? = some (s.silencedRec slot row r) := by
  obtain ⟨u, hbase, hplace, hafter⟩ := forEach_part_of_mem (P := fun t k => t.cars[k]?) (F := State.silenceBase)
    (f := fun slot s => s.evaluateSilence slot) (fun m t => evaluateSilence_silenceBase m t)
    (fun m k h t => evaluateSilence_cars_ne h t) List.nodup_range
    (List.mem_range.mpr (List.getElem?_eq_some_iff.mp hrow).1) s
  have hurow : u.loader.copy.cars[slot]? = some row := (congrArg (fun b => b.1.copy.cars[slot]?) hbase).trans hrow
  have hur : u.cars[slot]? = some r := hplace.trans hr
  have hrec : u.carRec slot = r := by rw [State.carRec, hur, Option.getD_some]
  refine hafter.trans ?_
  rw [evaluateSilence_cars hurow, hrec, silencedRec_congr hbase]
  exact List.getElem?_set_self (List.getElem?_eq_some_iff.mp hur).1

theorem evaluateSilences_car_no_row {s : State} {slot : Nat} (hrow : s.loader.copy.cars[slot]? = none) :
    s.evaluateSilences.cars[slot]? = s.cars[slot]? := by
  have hnot : slot ∉ List.range s.loader.copy.cars.length := fun h =>
    Nat.not_le.mpr (List.mem_range.mp h) (List.getElem?_eq_none_iff.mp hrow)
  exact forEach_part_of_notMem (P := fun t k => t.cars[k]?) (f := fun slot s => s.evaluateSilence slot)
    (fun m k h t => evaluateSilence_cars_ne h t) hnot s

theorem evaluateSilences_silenceBase (s : State) : s.evaluateSilences.silenceBase = s.silenceBase :=
  forEach_keeps State.silenceBase _ (fun m t => evaluateSilence_silenceBase m t) _ s

theorem evaluateSilences_skippedMarks (s : State) :
    s.evaluateSilences.status.counters.skippedMarks = s.status.counters.skippedMarks :=
  forEach_keeps (fun t => t.status.counters.skippedMarks) _ (fun m t => evaluateSilence_skippedMarks m t) _ s

/-- CAR_LOST holds the slot of every car that the evaluation took to LOST. -/
theorem evaluateSilences_lost {s : State} {slot : Nat} {row : CarRow} (hrow : s.loader.copy.cars[slot]? = some row)
    (h16 : slot < 16) (h : (s.carRec slot).tracking ≠ .lost)
    (hlost : (s.silencedRec slot row (s.carRec slot)).tracking = .lost) :
    s.evaluateSilences.status.exceptions.carLost.getLsbD slot = true := by
  obtain ⟨before, rest, hsplit⟩ := List.append_of_mem (List.mem_range.mpr (List.getElem?_eq_some_iff.mp hrow).1)
  have hbefore : slot ∉ before := by
    have hnodup : (before ++ slot :: rest).Nodup := hsplit ▸ List.nodup_range
    exact fun hmem => (List.nodup_append.mp hnodup).2.2 slot hmem slot List.mem_cons_self rfl
  have hbase := forEach_keeps State.silenceBase (fun slot s => s.evaluateSilence slot)
    (fun m t => evaluateSilence_silenceBase m t) before s
  have hcar := forEach_part_of_notMem (P := fun t k => t.cars[k]?) (f := fun slot s => s.evaluateSilence slot)
    (fun m k h t => evaluateSilence_cars_ne h t) hbefore s
  have hsteps : s.evaluateSilences = forEach rest (fun slot s => s.evaluateSilence slot)
      ((forEach before (fun slot s => s.evaluateSilence slot) s).evaluateSilence slot) := by
    unfold State.evaluateSilences
    rw [hsplit]
    exact List.foldl_append
  rw [hsteps]
  refine forEach_preserves (fun t => t.status.exceptions.carLost.getLsbD slot = true) _
    (fun m t ht => evaluateSilence_carLost_mono m t ht) rest _ ?_
  refine evaluateSilence_lost (row := row) ((congrArg (fun b => b.1.copy.cars[slot]?) hbase).trans hrow) h16 ?_ ?_
  · rw [carRec_congr hcar]
    exact h
  · rw [carRec_congr hcar, silencedRec_congr hbase]
    exact hlost

/-- Conversions of a pool one car after another are those of all of them. -/
theorem poolWithLost_trans {s u t : State} {slot : Nat} (hl : u.loader = s.loader) (hc : u.cycle.clock = s.cycle.clock)
    (hpool : u.prompts.pool = s.poolWithLost u) (hothers : ∀ k, k ≠ slot → u.carRec k = s.carRec k)
    (hslot : t.carRec slot = u.carRec slot) : u.poolWithLost t = s.poolWithLost t := by
  rw [poolWithLost_eq, hpool, poolWithLost_eq, poolWithLost_eq, List.map_map]
  refine List.map_congr_left fun p _ => ?_
  simp only [Function.comp_apply, held_congr hl hc]
  by_cases hp : p.slot = slot
  · by_cases hnow : (s.carRec p.slot).tracking ≠ .lost ∧ (u.carRec p.slot).tracking = .lost ∧ p.state ≠ .reassign
    · have hlost : (t.carRec p.slot).tracking = .lost := by rw [hp, hslot, ← hp]; exact hnow.2.1
      rw [if_pos hnow, if_neg fun h => h.2.2 rfl, if_pos ⟨hnow.1, hlost, hnow.2.2⟩]
    · have hsame : t.carRec p.slot = u.carRec p.slot := by rw [hp, hslot]
      rw [if_neg hnow, hsame, if_neg fun h => h.1 h.2.1, if_neg hnow]
  · have hsame := hothers _ hp
    have hnot : ¬ ((s.carRec p.slot).tracking ≠ .lost ∧ (u.carRec p.slot).tracking = .lost ∧ p.state ≠ .reassign) := by
      rw [hsame]
      exact fun h => h.1 h.2.1
    rw [if_neg hnot, hsame]

theorem forEach_evaluateSilence_pool {l : List Nat} (hl : l.Nodup) (s : State) :
    (forEach l (fun slot s => s.evaluateSilence slot) s).prompts.pool =
      s.poolWithLost (forEach l (fun slot s => s.evaluateSilence slot) s) := by
  induction l generalizing s with
  | nil => exact (poolWithLost_of_none fun p _ h => h.1 h.2).symm
  | cons slot l ih =>
    obtain ⟨hnotMem, hl⟩ := List.nodup_cons.mp hl
    have hbase := evaluateSilence_silenceBase slot s
    simp only [State.silenceBase, Prod.mk.injEq] at hbase
    refine (ih hl (s.evaluateSilence slot)).trans ?_
    exact poolWithLost_trans hbase.1 hbase.2.1 (evaluateSilence_pool slot s)
      (fun k hk => carRec_congr (evaluateSilence_cars_ne (Ne.symm hk) s))
      (carRec_congr (forEach_part_of_notMem (P := fun t k => t.cars[k]?) (f := fun slot s => s.evaluateSilence slot)
        (fun m k h t => evaluateSilence_cars_ne h t) hnotMem _))

theorem evaluateSilences_pool (s : State) : s.evaluateSilences.prompts.pool = s.poolWithLost s.evaluateSilences :=
  forEach_evaluateSilence_pool List.nodup_range s

/-! ### Skipped marks, panel by panel (R137) -/

theorem schedCycleStart_skippedMarks {e : CycleStart} (he : e.cause ≠ .start) (old : BitVec 6) (n : Nat) (s : State) :
    (s.schedCycleStart e old n).status.counters.skippedMarks =
      counted s.status.counters.skippedMarks (s.skippedOf n old) := by
  have hshow := schedCycleStart_forShow e old n s
  rw [if_neg he] at hshow
  exact (congrArg (fun u => u.status.counters.skippedMarks) hshow :)

theorem skippedOf_congr {s t : State} (h : t.forCount = s.forCount) {n : Nat} (hs : t.schedules[n]? = s.schedules[n]?)
    (old : BitVec 6) : t.skippedOf n old = s.skippedOf n old := by
  have hloader : t.loader = s.loader := (congrArg State.loader h :)
  have hlevel : t.mode.level = s.mode.level := (congrArg (fun u => u.mode.level) h :)
  simp only [State.skippedOf, State.row, State.schedule, State.suspended, hloader, hlevel, hs] <;> rfl

/-- The cycle start of one panel leaves the schedule of every other. -/
theorem schedCycleStart_schedule_ne {m n : Nat} (h : m ≠ n) (e : CycleStart) (old : BitVec 6) (s : State) :
    (s.schedCycleStart e old m).schedules[n]? = s.schedules[n]? :=
  schedCycleStart_at (P := fun t => t.schedules[n]? = s.schedules[n]?)
    { sched := fun f t ht => (List.getElem?_modify_ne _ _ h).trans ht
      hand := fun w t ht => ht
      cancel := fun w t ht => ht } (fun _ _ ht => ht) e old s rfl

theorem counted_counted (x a b : Nat) : counted (counted x a) b = counted x (a + b) := by
  unfold counted
  omega

theorem forEach_schedCycleStart_skippedMarks {e : CycleStart} (he : e.cause ≠ .start) (old : BitVec 6) {l : List Nat}
    (hl : l.Nodup) (s : State) (hmax : s.status.counters.skippedMarks ≤ 65535) :
    (forEach l (fun n t => t.schedCycleStart e old n) s).status.counters.skippedMarks =
      counted s.status.counters.skippedMarks (l.map (fun n => s.skippedOf n old)).sum := by
  induction l generalizing s with
  | nil => exact (counted_zero_of_le hmax).symm
  | cons m l ih =>
    obtain ⟨hnotMem, hl⟩ := List.nodup_cons.mp hl
    have hstep := schedCycleStart_skippedMarks he old m s
    have hrest : l.map (fun n => (s.schedCycleStart e old m).skippedOf n old) = l.map (fun n => s.skippedOf n old) :=
      List.map_congr_left fun n hn => skippedOf_congr (schedCycleStart_forCount e old m s)
        (schedCycleStart_schedule_ne (fun h : m = n => hnotMem (h ▸ hn)) e old s) old
    refine (ih hl (s.schedCycleStart e old m) ?_).trans ?_
    · rw [hstep]
      exact Nat.min_le_left _ _
    · rw [hstep, hrest, counted_counted, List.map_cons, List.sum_cons]

end Sys2Proof.Machine
end

section
/-! PROOFS. Tempos and local restarts (R10, R13, R34, R38 to R42, R46, R47): the state a cycle start begins from, and what
it leaves. -/

namespace Sys2Proof.Machine

/-! ### What every cycle start leaves -/

section start
variable (s : State) {cause : CycleCause} (hcause : cause ≠ .start) (base : Clock) (count : BitVec 6)

theorem cycleStart_moved (cause : CycleCause) : s.cycleStart cause base count =
    ({ s with cycle := { s.cycle with base := base, count := count, crossed := false,
                                      event := some (s.cycleEvent cause base count) } } : State).cycleMoved
      (s.cycleStart cause base count) := eq_of_forCycle (cycleStart_forCycle cause base count s)

theorem cycleStart_cycle (cause : CycleCause) : (s.cycleStart cause base count).cycle =
    { s.cycle with base := base, count := count, crossed := false, event := some (s.cycleEvent cause base count) } := by
  rw [cycleStart_moved]
  rfl

theorem cycleStart_timedFrames (cause : CycleCause) :
    timedFrames (s.cycleStart cause base count).bus.queue = timedFrames s.bus.queue :=
  cycleStart_preserves (timedFrames_tracker _) cause base count s rfl

/-- The state in which every panel has taken the event, and no car yet. -/
def State.cyclePanels (s : State) (cause : CycleCause) (base : Clock) (count : BitVec 6) : State :=
  forEach s.panelIds (fun n t => t.schedCycleStart (s.cycleEvent cause base count) s.cycle.count n)
    { s with cycle := { s.cycle with base := base, count := count, crossed := false,
                                     event := some (s.cycleEvent cause base count) } }

theorem cyclePanels_forCount (cause : CycleCause) : (s.cyclePanels cause base count).forCount =
    ({ s with cycle := { s.cycle with base := base, count := count, crossed := false,
                                      event := some (s.cycleEvent cause base count) } } : State).forCount :=
  forEach_keeps State.forCount _ (fun n t => schedCycleStart_forCount _ _ n t) _ _

theorem poolWithLost_congr {s u t : State} (hl : u.loader = s.loader) (hc : u.cycle.clock = s.cycle.clock)
    (hcars : u.cars = s.cars) (hp : u.prompts.pool = s.prompts.pool) : u.poolWithLost t = s.poolWithLost t := by
  rw [poolWithLost_eq, poolWithLost_eq, hp]
  refine List.map_congr_left fun p _ => ?_
  rw [held_congr hl hc, carRec_congr (s := s) (t := u) (by rw [hcars])]

include hcause in
theorem cycleStart_evaluated : s.cycleStart cause base count = (s.cyclePanels cause base count).evaluateSilences :=
  if_neg hcause

include hcause in
/-- A HEARD or LOCAL cycle start evaluates the silence of every car and counts what it skips. -/
theorem cycleStart_taken : s.cycleTaken (s.cycleStart cause base count) := by
  have hcount := cyclePanels_forCount s base count cause
  have hcars : (s.cyclePanels cause base count).cars = s.cars := (congrArg State.cars hcount :)
  have hloader : (s.cyclePanels cause base count).loader = s.loader := (congrArg State.loader hcount :)
  have hstops : (s.cyclePanels cause base count).stops = s.stops := (congrArg State.stops hcount :)
  have hprompts : (s.cyclePanels cause base count).prompts = s.prompts := (congrArg State.prompts hcount :)
  have hclock : (s.cyclePanels cause base count).cycle.clock = s.cycle.clock := (congrArg (fun u => u.cycle.clock) hcount :)
  have hbase : (s.cyclePanels cause base count).silenceBase = s.silenceBase := by
    simp only [State.silenceBase, hloader, hclock, hstops]
  rw [cycleStart_evaluated s hcause]
  refine ⟨fun slot r row hr hrow => ?_, fun slot r r' hr hr' h16 hnot hlost => ?_, ?_, ?_, fun hmax => ?_⟩
  · rw [← silencedRec_congr hbase]
    exact evaluateSilences_car (hcars ▸ hr) (hloader ▸ hrow)
  · cases hrow : s.loader.copy.cars[slot]? with
    | none =>
      have hsame := evaluateSilences_car_no_row (s := s.cyclePanels cause base count) (slot := slot) (hloader ▸ hrow)
      rw [hcars, hr, hr'] at hsame
      cases hsame
      exact absurd hlost hnot
    | some row =>
      have hur : (s.cyclePanels cause base count).cars[slot]? = some r := hcars ▸ hr
      have hurow : (s.cyclePanels cause base count).loader.copy.cars[slot]? = some row := hloader ▸ hrow
      have hrec : (s.cyclePanels cause base count).carRec slot = r := by rw [State.carRec, hur, Option.getD_some]
      have hnew := (evaluateSilences_car hur hurow).symm.trans hr'
      refine evaluateSilences_lost hurow h16 (hrec ▸ hnot) ?_
      rw [hrec, Option.some.inj hnew]
      exact hlost
  · rw [evaluateSilences_pool]
    exact poolWithLost_congr hloader hclock hcars (congrArg PromptUnit.pool hprompts)
  · have hdecks : (s.cyclePanels cause base count).evaluateSilences.stops.decks =
        (s.cyclePanels cause base count).stops.decks := by
      have h := evaluateSilences_silenceBase (s.cyclePanels cause base count)
      simp only [State.silenceBase, Prod.mk.injEq] at h
      exact h.2.2
    rw [hdecks, hstops]
  · rw [evaluateSilences_skippedMarks]
    exact forEach_schedCycleStart_skippedMarks hcause s.cycle.count List.nodup_range _ hmax

end start

/-! ### The pending TEMPO (R10, R38) -/

/-- The queue once the part's pending TEMPO has been withdrawn. -/
def State.tempoGone (s : State) : List TxFrame :=
  if s.cycle.pendingTempo then
    (s.bus.queue.filter (fun g => !(g.isTempo && g.state == AttemptState.queued))).map
      (fun g => if g.isTempo then { g with withdrawn := true } else g)
  else s.bus.queue

/-- The pending-tempo flag once the part's pending TEMPO has been withdrawn. -/
def State.tempoPending (s : State) : Bool :=
  s.cycle.pendingTempo && !s.bus.queue.any (fun g => g.isTempo && g.state == AttemptState.queued)

theorem tellWithdrawns_eq (l : List TxFrame) (s : State) : l.foldl (fun (s : State) f => s.tellWithdrawn f) s =
    { s with cycle := { s.cycle with pendingTempo := s.cycle.pendingTempo && !l.any TxFrame.isTempo } } := by
  induction l generalizing s with
  | nil => simp
  | cons f l ih =>
    rw [List.foldl_cons, ih, tellWithdrawn_eq, List.any_cons, Bool.not_or, ← Bool.and_assoc]

theorem withdrawTempo_eq (s : State) : s.withdrawTempo =
    { s with
      cycle := { s.cycle with pendingTempo := s.tempoPending },
      bus := { s.bus with queue := s.tempoGone } } := by
  unfold State.withdrawTempo State.tempoPending State.tempoGone
  cases hp : s.cycle.pendingTempo with
  | false =>
    rw [if_neg Bool.false_ne_true, if_neg Bool.false_ne_true, Bool.false_and, ← hp]
  | true =>
    have hany : (s.bus.queue.filter (fun f => f.isTempo && f.state == AttemptState.queued)).any TxFrame.isTempo =
        s.bus.queue.any (fun g => g.isTempo && g.state == AttemptState.queued) := by
      rw [List.any_filter]
      refine congrArg (fun p => s.bus.queue.any p) (funext fun g => ?_)
      cases g.isTempo <;> cases (g.state == AttemptState.queued) <;> rfl
    rw [if_pos rfl, if_pos rfl, Bool.true_and]
    unfold State.withdrawFrames
    dsimp only
    rw [tellWithdrawns_eq, hany]
    simp only [hp, Bool.true_and]

theorem mem_timedFrames_of_tempo {g : TxFrame} {q : List TxFrame} (h : g.isTempo = true) :
    g ∈ timedFrames q ↔ g ∈ q := by
  unfold timedFrames
  rw [List.mem_filter]
  refine and_iff_left ?_
  rw [Bool.or_eq_true]
  exact .inl h

/-- A state whose TEMPO and SENSE frames are those of the queue without the pending TEMPO. -/
theorem tempoWithdrawn_of_timedFrames {s t : State} (h : timedFrames t.bus.queue = timedFrames s.tempoGone) :
    s.tempoWithdrawn t := by
  refine ⟨fun hp g hg ht => ?_, h⟩
  have hmem : g ∈ s.tempoGone := (mem_timedFrames_of_tempo ht).mp (h ▸ (mem_timedFrames_of_tempo ht).mpr hg)
  unfold State.tempoGone at hmem
  rw [if_pos hp, List.mem_map] at hmem
  obtain ⟨x, hx, rfl⟩ := hmem
  rw [List.mem_filter, Bool.not_eq_true', ← Bool.not_eq_true, Bool.and_eq_true, beq_iff_eq] at hx
  by_cases hxt : x.isTempo = true
  · rw [if_pos hxt]
    exact ⟨fun hq => hx.2 ⟨hxt, hq⟩, rfl⟩
  · rw [if_neg hxt] at ht
    exact absurd ht hxt

/-! ### A tempo heard (R39 to R41) -/

theorem decodeSync_eq (b : Byte) : decodeSync b =
    if b = 0 then .alone else if b = 1 then .joining else if b = 2 then .inStep else .free := by
  have hbyte (n : Nat) (h : n < 256) : b = BitVec.ofNat 8 n ↔ b.toNat = n := by
    rw [← BitVec.toNat_inj, BitVec.toNat_ofNat, Nat.mod_eq_of_lt h]
  have h0 : b = 0 ↔ b.toNat = 0 := hbyte 0 (by omega)
  have h1 : b = 1 ↔ b.toNat = 1 := hbyte 1 (by omega)
  have h2 : b = 2 ↔ b.toNat = 2 := hbyte 2 (by omega)
  unfold decodeSync
  simp only [h0, h1, h2]
  split <;> simp_all

theorem syncHeard_eq (st : SyncState) (follows : Bool) : st.heard follows =
    if st = .alone then .joining else if follows then .inStep else .joining := by
  cases st <;> rfl

/-- The state from which the cycle of a tempo heard starts, with the queue and flag as they are then. -/
def State.tempoTaken (s : State) (pending : Bool) (queue : List TxFrame) (tempo : LastTempo) : State :=
  { s with
    cycle := { s.cycle with
      sync := if s.cycle.sync = .alone then SyncState.joining
        else if tempo.count = s.cycle.count + 1 then .inStep else .joining,
      pendingTempo := pending, lastTempo := some tempo },
    bus := { s.bus with queue := queue },
    status := { s.status with counters := { s.status.counters with
      countDisagree := if s.cycle.sync = SyncState.inStep ∧ tempo.count ≠ s.cycle.count + 1
        then counted s.status.counters.countDisagree 1 else s.status.counters.countDisagree } } }

theorem moveSync_eq (count : BitVec 6) (s : State) : s.moveSync count =
    { s with
      cycle := { s.cycle with
        sync := if s.cycle.sync = .alone then SyncState.joining
          else if count = s.cycle.count + 1 then .inStep else .joining },
      status := { s.status with counters := { s.status.counters with
        countDisagree := if s.cycle.sync = SyncState.inStep ∧ count ≠ s.cycle.count + 1
          then counted s.status.counters.countDisagree 1 else s.status.counters.countDisagree } } } := by
  unfold State.moveSync
  dsimp only
  rw [syncHeard_eq]
  by_cases hcount : count = s.cycle.count + 1
  · subst hcount
    simp [State.setSync]
  · have hne : (count == s.cycle.count + 1) = false := beq_eq_false_iff_ne.mpr hcount
    rw [hne]
    by_cases hsync : s.cycle.sync = .inStep
    · simp only [hsync, hcount, and_self, ne_eq, not_false_eq_true, if_true, reduceCtorEq, if_false]
      rfl
    · simp only [hsync, hcount, false_and, if_false]
      rfl

end Sys2Proof.Machine
end

section
/-! PROOFS. The three ways into a cycle (R39, R41, R42): a tempo of another station, the part's own, and the local restart. -/

namespace Sys2Proof.Machine

/-- A tempo of another station starts a cycle with the part's own TEMPO withdrawn (R39). -/
theorem tempoHeard_other (source : Byte) (mark : Clock) (count : BitVec 6) (sync : SyncState) (s : State) :
    s.tempoHeard false source mark count sync =
      (s.tempoTaken s.tempoPending s.tempoGone { source := source, count := count, sync := sync }).cycleStart
        .heard mark count := by
  have hmoved := moveSync_eq count s
  unfold State.tempoHeard
  rw [hmoved]
  simp only [Bool.false_eq_true, if_false, withdrawTempo_eq]
  rfl

/-- The part's own tempo starts a cycle with the queue as it is (R41). -/
theorem tempoHeard_own (source : Byte) (mark : Clock) (count : BitVec 6) (sync : SyncState) (s : State) :
    s.tempoHeard true source mark count sync =
      (s.tempoTaken s.cycle.pendingTempo s.bus.queue { source := source, count := count, sync := sync }).cycleStart
        .heard mark count := by
  unfold State.tempoHeard
  rw [moveSync_eq]
  rfl

/-- The failure count and station state after a good TEMPO of another station (R13, R15). -/
theorem tempoLowers_eq (s : State) : s.tempoLowers = { s with
    bus := { s.bus with
      failCount := if s.bus.state = .listenOnly ∧ s.validStation = true then s.bus.failCount - 1 else s.bus.failCount,
      state := if (s.bus.state = .listenOnly ∧ s.validStation = true) ∧ s.bus.failCount - 1 = 0 then .active
        else s.bus.state } } := by
  unfold State.tempoLowers
  by_cases h : s.bus.state = .listenOnly ∧ s.validStation = true
  · simp only [h, and_self, true_and, if_true]
  · simp only [h, false_and, if_false]

/-- The state from which the cycle of another station's tempo starts. -/
def State.tempoBegun (s : State) (fails : Nat) (station : StationState) (tempo : LastTempo) : State :=
  ({ s with bus := { s.bus with
      busFree := false, firstBit := none, failCount := fails, state := station } } : State).tempoTaken
    s.tempoPending s.tempoGone tempo

/-- The state from which the cycle of the part's own tempo starts. -/
def State.ownTempoBegun (s : State) (tempo : LastTempo) : State :=
  ({ s with bus := { s.bus with failCount := s.bus.failCount - 1, firstBit := none } } : State).tempoTaken
    false (s.bus.queue.filter (fun g => g.state != AttemptState.sending)) tempo

/-- The state from which the cycle of a local restart starts. -/
def State.restartBegun (s : State) : State :=
  { s with
    cycle := { s.cycle with
      sync := if s.cycle.sync = .alone then .alone else .free, pendingTempo := s.tempoPending },
    bus := { s.bus with queue := s.tempoGone } }

theorem syncRestarted_eq (st : SyncState) : st.restarted = if st = .alone then .alone else .free := by
  cases st <;> rfl

/-- The local restart (R42). -/
theorem localRestart_eq (s : State) : s.localRestart =
    s.restartBegun.cycleStart .localStart s.cycle.clock (s.cycle.count + 1) := by
  unfold State.localRestart
  rw [syncRestarted_eq, withdrawTempo_eq]
  rfl

/-- A state whose TEMPO is gone once the frame SENDING has left: the slot holds one. -/
theorem noTempo_of_completed {q : List TxFrame} {f : TxFrame} (hf : f ∈ q) (hs : f.state = .sending) (ht : f.isTempo = true)
    (h : frameCount TxFrame.isTempo q = 1) :
    ∀ g ∈ q.filter (fun g => g.state != AttemptState.sending), g.isTempo = false := by
  intro g hg
  obtain ⟨hgq, hgs⟩ := List.mem_filter.mp hg
  by_contra hgt
  obtain ⟨x, hx⟩ := List.length_eq_one_iff.mp (show (q.filter TxFrame.isTempo).length = 1 from h)
  have hmem (y : TxFrame) (hy : y ∈ q) (hyt : y.isTempo = true) : y = x :=
    List.mem_singleton.mp (hx ▸ List.mem_filter.mpr ⟨hy, hyt⟩)
  have hsame : g = f := (hmem g hgq (Bool.not_eq_false _ ▸ hgt)).trans (hmem f hf ht).symm
  rw [hsame, hs] at hgs
  exact absurd hgs (by decide)

end Sys2Proof.Machine

open Sys2Proof Sys2Proof.Machine

/-- Settles O36: the tempo is routed with the failure count lowered; the state it leaves is that of a cycle start from the
synchronised state. -/
theorem tempoHeardStartsACycle : Obligations.TempoHeardStartsACycle := by
  intro s rx count sync heardSilent fails station own mark
  have hlowers : s.busy.tempoLowers = { s with
      bus := { s.bus with busFree := false, firstBit := none, failCount := fails, state := station } } :=
    tempoLowers_eq s.busy
  refine ⟨fun hh hfault => ?_, fun hh => ?_⟩
  · rw [exec_tempo_fault hh hfault, hlowers]
  · have hexec := exec_tempo hh count sync
    rw [hlowers, tempoHeard_other, decodeSync_eq] at hexec
    have hcycle (tempo : LastTempo) := cycleStart_cycle (s.tempoBegun fails station tempo) mark (count.setWidth 6) .heard
    have htaken (tempo : LastTempo) : s.cycleTaken
        ((s.tempoBegun fails station tempo).cycleStart .heard mark (count.setWidth 6)) :=
      have h := cycleStart_taken (s.tempoBegun fails station tempo) CycleCause.noConfusion mark (count.setWidth 6)
      ⟨h.silences, h.lost, h.pool, h.decks, h.skipped⟩
    refine ⟨(s.tempoBegun fails station _).cycleStart .heard mark (count.setWidth 6), hexec, ?_, hcycle _, ?_,
      tempoWithdrawn_of_timedFrames (cycleStart_timedFrames _ _ _ _), htaken _⟩
    · rw [hcycle]
      rfl
    · rw [hcycle]
      exact cycleStart_moved _ _ _ _

/-- Settles O37: the completed TEMPO leaves the queue, and the part hears it. -/
theorem ownTempoIsHeard : Obligations.OwnTempoIsHeard := by
  intro s f count sync hl hf hp own mark
  obtain ⟨hmem, hsending⟩ : f ∈ s.bus.queue ∧ f.state = .sending :=
    ⟨List.mem_of_find?_eq_some hf, by simpa using List.find?_some hf⟩
  have htempo : f.isTempo = true := by
    unfold TxFrame.isTempo
    rw [hp]
    rfl
  have hcompleted : s.attemptCompleted =
      (s.ownTempoBegun { source := s.bus.station, count := count, sync := sync }).cycleStart .heard mark count := by
    simp only [State.attemptCompleted, hf, State.tellCompleted, hp]
    refine (if_pos (running_of hl)).trans ?_
    exact tempoHeard_own s.bus.station mark count sync _
  have hexec : exec .attemptCompleted s = .next s.attemptCompleted := rfl
  rw [hcompleted] at hexec
  have hcycle := cycleStart_cycle (s.ownTempoBegun { source := s.bus.station, count := count, sync := sync }) mark count
    .heard
  have hframes := cycleStart_timedFrames (s.ownTempoBegun { source := s.bus.station, count := count, sync := sync }) mark
    count .heard
  have htaken := cycleStart_taken (s.ownTempoBegun { source := s.bus.station, count := count, sync := sync })
    (cause := .heard) CycleCause.noConfusion mark count
  refine ⟨_, hexec, ?_, hcycle, ?_, ?_, fun hone g hg => ?_, hframes,
    ⟨htaken.silences, htaken.lost, htaken.pool, htaken.decks, htaken.skipped⟩⟩
  · rw [hcycle]
    rfl
  · rw [hcycle]
    exact cycleStart_moved _ _ _ _
  · refine cycleStart_preserves noneSending_tracker .heard mark count _ fun g hg => ?_
    exact bne_iff_ne.mp (List.mem_filter.mp hg).2
  · by_contra ht
    have hg' := (mem_timedFrames_of_tempo (Bool.not_eq_false _ ▸ ht)).mpr hg
    rw [hframes] at hg'
    have hkept := (mem_timedFrames_of_tempo (Bool.not_eq_false _ ▸ ht)).mp hg'
    exact ht (noTempo_of_completed hmem hsending htempo hone g hkept)

/-- Settles O39: the watch threshold starts a cycle of the part's own. -/
theorem localRestartEvaluatesSilence : Obligations.LocalRestartEvaluatesSilence := by
  intro s hl hwatch withdrawn
  have hatWatch : s.atWatch = true := by
    unfold State.atWatch
    rw [running_of hl, Bool.true_and]
    exact decide_eq_true hwatch
  have hexec : exec .localRestart s = .next (s.restartBegun.cycleStart .localStart s.cycle.clock (s.cycle.count + 1)) := by
    rw [← localRestart_eq]
    exact congrArg Host.Outcome.next (if_pos hatWatch)
  have hcycle := cycleStart_cycle s.restartBegun s.cycle.clock (s.cycle.count + 1) .localStart
  have htaken := cycleStart_taken s.restartBegun (cause := .localStart) CycleCause.noConfusion s.cycle.clock
    (s.cycle.count + 1)
  refine ⟨_, hexec, ?_, hcycle, ?_, tempoWithdrawn_of_timedFrames (cycleStart_timedFrames _ _ _ _),
    ⟨htaken.silences, htaken.lost, htaken.pool, htaken.decks, htaken.skipped⟩⟩
  · rw [hcycle]
    rfl
  · rw [hcycle]
    exact cycleStart_moved _ _ _ _

end

section
/-! PROOFS. A START (R35, R114, R116, R123, R135, R136): the schedules it leaves and the load reports it requests. -/

namespace Sys2Proof.Machine

/-! ### A panel that nothing reaches and that has no items -/

/-- A panel at a START: no work reaches its module, its lists hold nothing, and the cycle stands at CT 0 of count 0. -/
structure State.idleAt (s : State) (n : Nat) (row : PanelRow) : Prop where
  hasRow : s.row n = some row
  dark : s.reachable n = false
  empty : ∀ page, s.itemCount n row page = 0
  ct : s.ct = 0
  count : s.cycle.count = 0

theorem idleAt_withSched {s : State} {n : Nat} {row : PanelRow} (h : s.idleAt n row) (sc : Schedule) :
    (s.withSched n sc).idleAt n row := ⟨h.hasRow, h.dark, h.empty, h.ct, h.count⟩

section idle
variable {s : State} {n : Nat} {row : PanelRow} (h : s.idleAt n row) {sc : Schedule} (hs : s.schedules[n]? = some sc)
include h

theorem settledSched_idle (sc : Schedule) : s.settledSched n row sc = { sc with index := 0, scroll := none } := by
  unfold State.settledSched
  simp only [h.empty, Nat.not_lt_zero, and_false, false_and, if_false]

theorem mayPreload_idle : s.mayPreload n = false := by
  unfold State.mayPreload
  rw [h.dark, Bool.false_and]

/-- No instant of an idle panel begins a preload. -/
theorem instantReached_idle (i : Nat) (e : ShowEntry) : s.instantReached n i e = s := by
  unfold State.instantReached
  rw [mayPreload_idle h]
  split <;> rfl

theorem walkInstants_idle (rest : List ShowEntry) (i : Nat) :
    ∃ k, walkInstants n rest i s = s.setSched n (fun sc => { sc with instants := k }) := by
  induction rest generalizing i with
  | nil => exact ⟨i, rfl⟩
  | cons e rest ih =>
    unfold walkInstants
    rw [instantReached_idle h, ite_self]
    split
    · exact ⟨i, rfl⟩
    · exact ih (i + 1)

include hs

theorem takeInstants_idle : ∃ k, s.takeInstants n = s.withSched n { sc with instants := k } := by
  obtain ⟨k, hk⟩ := walkInstants_idle h ((s.showList n).drop sc.instants) sc.instants
  refine ⟨k, ?_⟩
  simp only [State.takeInstants, State.schedule, hs, hk]
  exact setSched_of_some hs _

theorem contentChange_idle : s.contentChange n = s.withSched n { sc with index := 0, scroll := none } := by
  rw [contentChange_of_unreachable h.hasRow hs h.dark, settledSched_idle h]

end idle

/-! ### Marks at 0 (R136, R138) -/

/-- A schedule once an entry has acted on a panel that nothing reaches. -/
def Schedule.actedAtStart (suspended pin : Bool) (sc : Schedule) (e : ShowEntry) : Schedule :=
  if suspended then sc
  else match e.action with
    | .language l => if pin then sc else { sc with lang := l }
    | .page p => { sc with page := p }

section act
variable {s : State} {n : Nat} {row : PanelRow} (h : s.idleAt n row) {sc : Schedule} (hs : s.schedules[n]? = some sc)
  (hindex : sc.index = 0) (hscroll : sc.scroll = none) (hpre : sc.preload = none)

theorem schedule_settled {sc : Schedule} (hindex : sc.index = 0) (hscroll : sc.scroll = none) :
    { sc with index := 0, scroll := none } = sc := by rw [← hindex, ← hscroll]

include h hs hindex hscroll

theorem actLanguage_idle (l : Lang) : s.actLanguage n l = s.withSched n (if s.pin n then sc else { sc with lang := l }) := by
  unfold State.actLanguage
  cases hp : s.pin n with
  | true => exact (withSched_self hs).symm
  | false =>
    rw [langInUse_of_unpinned hs hp]
    simp only [Bool.false_eq_true, if_false]
    split
    · next hsame =>
      rw [← hsame]
      exact (withSched_self hs).symm
    · rw [setSched_of_some hs, contentChange_idle (idleAt_withSched h _) (withSched_schedule hs _), withSched_withSched]
      exact congrArg (s.withSched n) (schedule_settled (sc := { sc with lang := l }) hindex hscroll)

include hpre

theorem actPage_idle (i : Nat) (p : Page) : s.actPage n i p = s.withSched n { sc with page := p } := by
  rw [actPage_of_other hs (fun pre hp => nomatch hpre.symm.trans hp)]
  split
  · next hsame =>
    rw [hsame]
    exact (withSched_self hs).symm
  · rw [setPage_eq h.hasRow hs, settledSched_idle h, contentChange_idle (idleAt_withSched h _) (withSched_schedule hs _),
      withSched_withSched]
    exact congrArg (s.withSched n) (schedule_settled (sc := { sc with page := p }) hindex hscroll)

theorem act_idle (i : Nat) (e : ShowEntry) :
    s.act n i e = s.withSched n (sc.actedAtStart (s.suspended row) (s.pin n) e) := by
  unfold Schedule.actedAtStart
  cases hsus : s.suspended row with
  | true => exact (act_of_suspended h.hasRow hsus).trans (withSched_self hs).symm
  | false =>
    cases ha : e.action with
    | language l => exact (act_of_language h.hasRow hsus ha).trans (actLanguage_idle h hs hindex hscroll l)
    | page p => exact (act_of_page h.hasRow hsus ha).trans (actPage_idle h hs hindex hscroll hpre i p)

end act

theorem actedAtStart_kept (suspended pin : Bool) (sc : Schedule) (e : ShowEntry) :
    (sc.actedAtStart suspended pin e).index = sc.index ∧ (sc.actedAtStart suspended pin e).scroll = sc.scroll ∧
      (sc.actedAtStart suspended pin e).preload = sc.preload := by
  unfold Schedule.actedAtStart
  repeat' split
  all_goals exact ⟨rfl, rfl, rfl⟩

theorem actedAtStart_pointer (suspended pin : Bool) (sc : Schedule) (p : Option Nat) (e : ShowEntry) :
    ({ sc with pointer := p } : Schedule).actedAtStart suspended pin e =
      { sc.actedAtStart suspended pin e with pointer := p } := by
  unfold Schedule.actedAtStart
  repeat' split
  all_goals rfl

theorem actedAtStart_foldl_pointer (suspended pin : Bool) (l : List ShowEntry) (p : Option Nat) (sc : Schedule) :
    l.foldl (Schedule.actedAtStart suspended pin) { sc with pointer := p } =
      { l.foldl (Schedule.actedAtStart suspended pin) sc with pointer := p } := by
  induction l generalizing sc with
  | nil => rfl
  | cons e l ih => rw [List.foldl_cons, List.foldl_cons, actedAtStart_pointer, ih]

/-- The entries of a list that act at a START: those of count 0 before the first with a mark above 0. -/
def actingAtStart (list : List ShowEntry) : List ShowEntry :=
  (list.filter (fun e => e.phase == 0)).takeWhile (fun e => e.mark == 0)

theorem matchesCount_zero (e : ShowEntry) : e.matchesCount 0 = (e.phase == 0) := by
  unfold ShowEntry.matchesCount
  rw [show (0 : BitVec 6).toNat % e.period = 0 from Nat.zero_mod _]
  exact Bool.eq_iff_iff.mpr (by rw [beq_iff_eq, beq_iff_eq]; exact eq_comm)

theorem findPlace_cons {α : Type} (p : α → Bool) (a : α) (l : List α) :
    findPlace p (a :: l) = if p a then some 0 else (findPlace p l).map (· + 1) := rfl

/-- The walk over marks at CT 0 of count 0, on a panel that nothing reaches. -/
theorem walkMarks_idle {n : Nat} {row : PanelRow} (list : List ShowEntry) (i : Nat) {s : State} (h : s.idleAt n row)
    {sc : Schedule} (hs : s.schedules[n]? = some sc) (hindex : sc.index = 0) (hscroll : sc.scroll = none)
    (hpre : sc.preload = none) : walkMarks n list i s = s.withSched n
      { (actingAtStart list).foldl (Schedule.actedAtStart (s.suspended row) (s.pin n)) sc with
        pointer := (findPlace (fun e => e.phase == 0 && e.mark != 0) list).map (· + i) } := by
  induction list generalizing i s sc with
  | nil => exact setSched_of_some hs _
  | cons e rest ih =>
    have hshift (o : Option Nat) : (o.map (· + 1)).map (· + i) = o.map (· + (i + 1)) := by
      rw [Option.map_map]
      refine congrArg (fun f => Option.map f o) (funext fun k => ?_)
      simp only [Function.comp_apply]
      omega
    unfold walkMarks
    rw [h.count, h.ct, matchesCount_zero]
    cases hphase : (e.phase == 0) with
    | false =>
      have hacting : actingAtStart (e :: rest) = actingAtStart rest := by
        unfold actingAtStart
        rw [List.filter_cons_of_neg (by simp [hphase])]
      rw [if_neg Bool.false_ne_true, ih (i + 1) h hs hindex hscroll hpre, hacting, findPlace_cons, hphase]
      simp only [Bool.false_and, Bool.false_eq_true, if_false, hshift]
    | true =>
      rw [if_pos rfl]
      by_cases hmark : e.mark = 0
      · have hacting : actingAtStart (e :: rest) = e :: actingAtStart rest := by
          unfold actingAtStart
          rw [List.filter_cons_of_pos (p := fun e : ShowEntry => e.phase == 0) hphase, List.takeWhile_cons_of_pos (by simp [hmark])]
        have hset : s.setPointer n (nextMatch 0 rest (i + 1)) =
            s.withSched n { sc with pointer := nextMatch 0 rest (i + 1) } := setSched_of_some hs _
        have hact := act_idle (idleAt_withSched h { sc with pointer := nextMatch 0 rest (i + 1) })
          (withSched_schedule hs _) hindex hscroll hpre i e
        obtain ⟨hindex', hscroll', hpre'⟩ := actedAtStart_kept (s.suspended row) (s.pin n)
          { sc with pointer := nextMatch 0 rest (i + 1) } e
        rw [if_pos (Nat.le_of_eq hmark), hset, hact, withSched_withSched]
        refine (ih (i + 1) (idleAt_withSched h _) (withSched_schedule hs _) (hindex'.trans hindex)
          (hscroll'.trans hscroll) (hpre'.trans hpre)).trans ?_
        have hstart : (actingAtStart rest).foldl (Schedule.actedAtStart (s.suspended row) (s.pin n))
            (({ sc with pointer := nextMatch 0 rest (i + 1) } : Schedule).actedAtStart (s.suspended row) (s.pin n) e) =
              { (actingAtStart rest).foldl (Schedule.actedAtStart (s.suspended row) (s.pin n))
                  (sc.actedAtStart (s.suspended row) (s.pin n) e) with pointer := nextMatch 0 rest (i + 1) } := by
          rw [actedAtStart_pointer, actedAtStart_foldl_pointer]
        have hzero : (e.phase == 0 && e.mark != 0) = false := by simp [hmark]
        rw [hacting, List.foldl_cons, findPlace_cons, hzero, ← hshift, withSched_withSched]
        exact (congrArg (fun x : Schedule => s.withSched n { x with
          pointer := ((findPlace (fun e => e.phase == 0 && e.mark != 0) rest).map (· + 1)).map (· + i) }) hstart :)
      · have hacting : actingAtStart (e :: rest) = [] := by
          unfold actingAtStart
          rw [List.filter_cons_of_pos (p := fun e : ShowEntry => e.phase == 0) hphase, List.takeWhile_cons_of_neg (by simp [hmark])]
        rw [if_neg (by omega), hacting, findPlace_cons, hphase]
        have hne : (e.mark != 0) = true := bne_iff_ne.mpr hmark
        rw [hne]
        refine (setSched_of_some hs _).trans ?_
        simp

/-- The entries before the first that matches are walked over. -/
theorem walkMarks_of_nextMatch {n : Nat} (list : List ShowEntry) (i : Nat) (s : State) :
    (∀ p, nextMatch s.cycle.count list i = some p → i ≤ p ∧ walkMarks n list i s = walkMarks n (list.drop (p - i)) p s) ∧
      (nextMatch s.cycle.count list i = none → walkMarks n list i s = s.setPointer n none) := by
  induction list generalizing i with
  | nil => exact ⟨fun p hp => (nomatch hp), fun _ => rfl⟩
  | cons e rest ih =>
    obtain ⟨hsome, hnone⟩ := ih (i + 1)
    by_cases hm : e.matchesCount s.cycle.count = true
    · have hnext : nextMatch s.cycle.count (e :: rest) i = some i := if_pos hm
      rw [hnext]
      refine ⟨fun p hp => ?_, fun hn => (nomatch hn)⟩
      cases hp
      exact ⟨Nat.le_refl i, by rw [Nat.sub_self, List.drop_zero]⟩
    · have hnext : nextMatch s.cycle.count (e :: rest) i = nextMatch s.cycle.count rest (i + 1) := if_neg hm
      have hwalk : walkMarks n (e :: rest) i s = walkMarks n rest (i + 1) s := if_neg hm
      rw [hnext, hwalk]
      refine ⟨fun p hp => ?_, hnone⟩
      obtain ⟨hle, hstep⟩ := hsome p hp
      have hdrop : (e :: rest).drop (p - i) = rest.drop (p - (i + 1)) := by
        rw [show p - i = (p - (i + 1)) + 1 by omega, List.drop_succ_cons]
      exact ⟨by omega, by rw [hstep, hdrop]⟩

theorem takeMarks_idle {s : State} {n : Nat} {row : PanelRow} (h : s.idleAt n row) {sc : Schedule}
    (hs : s.schedules[n]? = some sc) (hindex : sc.index = 0) (hscroll : sc.scroll = none) (hpre : sc.preload = none)
    (hp : sc.pointer = nextMatch 0 row.list 0) : s.takeMarks n = s.withSched n
      { (actingAtStart row.list).foldl (Schedule.actedAtStart (s.suspended row) (s.pin n)) sc with
        pointer := findPlace (fun e => e.phase == 0 && e.mark != 0) row.list } := by
  have hwalk := walkMarks_idle row.list 0 h hs hindex hscroll hpre
  simp only [Nat.add_zero, Option.map_id'] at hwalk
  obtain ⟨hsome, hnone⟩ := walkMarks_of_nextMatch (n := n) row.list 0 s
  rw [h.count] at hsome hnone
  refine Eq.trans ?_ hwalk
  simp only [State.takeMarks, State.schedule, hs, hp, showList_of_row h.hasRow]
  cases hnext : nextMatch 0 row.list 0 with
  | none =>
    have hself : s.setPointer n none = s := by
      refine (setSched_of_some hs _).trans ?_
      rw [show { sc with pointer := none } = sc by rw [← hnext, ← hp]]
      exact withSched_self hs
    exact ((hnone hnext).trans hself).symm
  | some p => exact ((hsome p hnext).2.trans (by rw [Nat.sub_zero])).symm

/-! ### The schedule of a panel at a START (R135, R136) -/

theorem getLast?_cons_getD {α : Type} (a b : α) (l : List α) : ((a :: l).getLast?).getD b = (l.getLast?).getD a := by
  rw [List.getLast?_cons, Option.getD_some]

/-- What the acting entries leave of page and language. -/
theorem actedAtStart_foldl (suspended pin : Bool) (l : List ShowEntry) (sc : Schedule) :
    l.foldl (Schedule.actedAtStart suspended pin) sc = { sc with
      page := if suspended then sc.page else ((l.filterMap ShowEntry.page?).getLast?).getD sc.page,
      lang := if suspended || pin then sc.lang else ((l.filterMap ShowEntry.lang?).getLast?).getD sc.lang } := by
  induction l generalizing sc with
  | nil => simp
  | cons e l ih =>
    rw [List.foldl_cons, ih]
    cases suspended with
    | true => rfl
    | false =>
      cases ha : e.action with
      | language lang =>
        have hpage : e.page? = none := by simp only [ShowEntry.page?, ha]
        have hlang : e.lang? = some lang := by simp only [ShowEntry.lang?, ha]
        rw [List.filterMap_cons_none hpage, List.filterMap_cons_some hlang, getLast?_cons_getD]
        cases pin <;> simp [Schedule.actedAtStart, ha]
      | page p =>
        have hpage : e.page? = some p := by simp only [ShowEntry.page?, ha]
        have hlang : e.lang? = none := by simp only [ShowEntry.lang?, ha]
        rw [List.filterMap_cons_some hpage, List.filterMap_cons_none hlang, getLast?_cons_getD]
        simp [Schedule.actedAtStart, ha]

theorem scheduleAtStart_eq (row : PanelRow) (suspended pin : Bool) (k : Nat) (pointer : Option Nat) :
    { (actingAtStart row.list).foldl (Schedule.actedAtStart suspended pin)
        { Schedule.start row.kind with pointer := pointer, instants := k } with
      pointer := findPlace (fun e => e.phase == 0 && e.mark != 0) row.list } = scheduleAtStart row suspended pin k := by
  rw [actedAtStart_foldl]
  unfold scheduleAtStart actingAtStart
  cases suspended <;> cases pin <;> rfl

/-- The schedule of a panel that nothing reaches, after the event of a START. -/
theorem schedCycleStart_idle {s : State} {n : Nat} {row : PanelRow} (h : s.idleAt n row)
    (hs : s.schedules[n]? = some (Schedule.start row.kind)) {e : CycleStart} (he : e.cause = .start) (old : BitVec 6) :
    ∃ k, (s.schedCycleStart e old n).schedules[n]? = some (scheduleAtStart row (s.suspended row) (s.pin n) k) := by
  have hstart := schedCycleStart_start h.hasRow hs he old
  rw [h.count, ← nextMatch_zero] at hstart
  obtain ⟨k, hk⟩ := takeInstants_idle (idleAt_withSched h { Schedule.start row.kind with
    waiting := [], instants := 0, pointer := nextMatch 0 row.list 0 }) (withSched_schedule hs _)
  rw [hk, withSched_withSched, takeMarks_idle (idleAt_withSched h _) (withSched_schedule hs _) rfl rfl rfl rfl,
    withSched_withSched] at hstart
  refine ⟨k, ?_⟩
  rw [hstart, withSched_schedule hs]
  exact congrArg some (scheduleAtStart_eq row (s.suspended row) (s.pin n) k _)

end Sys2Proof.Machine
end

section
/-! PROOFS. The load reports of a START (R114, R116) and the records it leaves. -/

namespace Sys2Proof.Machine

/-! ### Load reports (R7, R8, R114) -/

/-- The frame of a load report of a START. -/
def startFrame (n : Nat) : TxFrame := { payload := .panelLoad n .open_ 0, state := .queued, withdrawn := false, held := 0 }

theorem takes_startFrame (m n : Nat) : (startFrame m).takes (.panelLoad n .open_ 0) = (n == m) := by
  unfold TxFrame.takes startFrame
  exact Bool.and_true _

theorem insertFrame_startFrame (n : Nat) (l : List Nat) :
    insertFrame (startFrame n) (l.map startFrame) = (l ++ [n]).map startFrame := by
  induction l with
  | nil => rfl
  | cons m l ih => exact congrArg (startFrame m :: ·) ih

/-- The state after load reports, of which `dropped` were dropped, with the frames of `sent` in the queue. -/
def State.loadsSent (s : State) (sent : List Nat) (dropped : Nat) : State :=
  { s with
    bus := { s.bus with queue := sent.map startFrame },
    status := { s.status with
      counters := { s.status.counters with
        framesDropped := if dropped = 0 then s.status.counters.framesDropped
          else counted s.status.counters.framesDropped dropped },
      exceptions := { s.status.exceptions with
        queueOverflow := s.status.exceptions.queueOverflow ||
          decide (s.bus.state = .active ∧ 0 < dropped) } } }

theorem loadsSent_none {s : State} (h : s.bus.queue = []) : s.loadsSent [] 0 = s := by
  unfold State.loadsSent
  simp only [List.map_nil, ← h, if_true, Nat.lt_irrefl, and_false, decide_false, Bool.or_false]

section request
variable {s : State} {sent : List Nat} {dropped n : Nat}

/-- One more report dropped. -/
theorem loadsSent_drop : (if dropped + 1 = 0 then s.status.counters.framesDropped
    else counted s.status.counters.framesDropped (dropped + 1)) =
      counted (s.loadsSent sent dropped).status.counters.framesDropped 1 := by
  show _ = counted (if dropped = 0 then _ else _) 1
  rw [if_neg (Nat.succ_ne_zero dropped)]
  split
  · next h => rw [h]
  · exact (counted_counted ..).symm

theorem request_load_listenOnly (ha : s.bus.state = .listenOnly) :
    ((s.loadsSent sent dropped).request (.panelLoad n .open_ 0)).2 = s.loadsSent sent (dropped + 1) := by
  rw [request_of_listenOnly (s := s.loadsSent sent dropped) ha]
  unfold State.loadsSent
  rw [loadsSent_drop (sent := sent), ha]
  simp only [reduceCtorEq, false_and, decide_false]
  rfl

variable (hl : s.loader.state ≠ .imageFault) (ha : s.bus.state = .active) (hn : n ∉ sent)

theorem loadsSent_takes (hn : n ∉ sent) :
    ∀ g ∈ (s.loadsSent sent dropped).bus.queue, g.takes (.panelLoad n .open_ 0) = false := by
  intro g hg
  obtain ⟨m, hm, rfl⟩ := List.mem_map.mp hg
  rw [takes_startFrame]
  exact beq_eq_false_iff_ne.mpr fun e => hn (e ▸ hm)

theorem loadsSent_shared : frameCount TxFrame.shared (s.loadsSent sent dropped).bus.queue = sent.length := by
  have hall : (sent.map startFrame).filter TxFrame.shared = sent.map startFrame :=
    List.filter_eq_self.mpr fun g hg => by
      obtain ⟨m, -, rfl⟩ := List.mem_map.mp hg
      rfl
  show ((sent.map startFrame).filter TxFrame.shared).length = _
  rw [hall, List.length_map]

include hl ha hn

theorem request_load_room (hroom : sent.length < 7) :
    ((s.loadsSent sent dropped).request (.panelLoad n .open_ 0)).2 = s.loadsSent (sent ++ [n]) dropped := by
  rw [request_of_room (s := s.loadsSent sent dropped) (p := .panelLoad n .open_ 0) ha (.inl hl) (show (219 : Nat) ≠ 72 by decide) (loadsSent_takes hn)
    (by rw [loadsSent_shared]; exact hroom)]
  exact congrArg (fun q => ({ s.loadsSent sent dropped with
    bus := { s.bus with queue := q } } : State)) (insertFrame_startFrame n sent)

theorem request_load_full (hfull : sent.length = 7) :
    ((s.loadsSent sent dropped).request (.panelLoad n .open_ 0)).2 = s.loadsSent sent (dropped + 1) := by
  have hkept : (sent.map startFrame).map (TxFrame.dropItem .queueOverflow) = sent.map startFrame := by
    rw [List.map_map]
    rfl
  rw [request_of_full (s := s.loadsSent sent dropped) (p := .panelLoad n .open_ 0) ha (.inl hl) (show (219 : Nat) ≠ 72 by decide) (loadsSent_takes hn)
    (by rw [loadsSent_shared, hfull])]
  unfold State.loadsSent
  rw [loadsSent_drop (sent := sent), ha]
  simp only [true_and, Nat.succ_pos, decide_true, Bool.or_true]
  exact congrArg (fun q => ({ s with
    bus := { s.bus with queue := q },
    status := { s.status with
      counters := { s.status.counters with
        framesDropped := counted (s.loadsSent sent dropped).status.counters.framesDropped 1 },
      exceptions := { s.status.exceptions with queueOverflow := true } } } : State)) hkept

end request

theorem forEach_load_listenOnly {s : State} (ha : s.bus.state = .listenOnly) (l : List Nat) (dropped : Nat) :
    forEach l (fun n s => (s.request (.panelLoad n .open_ 0)).2) (s.loadsSent [] dropped) =
      s.loadsSent [] (dropped + l.length) := by
  induction l generalizing dropped with
  | nil => rfl
  | cons n l ih =>
    refine (congrArg (forEach l _) (request_load_listenOnly ha)).trans ((ih (dropped + 1)).trans ?_)
    rw [List.length_cons, Nat.add_assoc, Nat.add_comm 1]

section active
variable {s : State} (hl : s.loader.state ≠ .imageFault) (ha : s.bus.state = .active)
include hl ha

theorem forEach_load_full {sent : List Nat} (hfull : sent.length = 7) (l : List Nat) (hnodup : (sent ++ l).Nodup)
    (dropped : Nat) : forEach l (fun n s => (s.request (.panelLoad n .open_ 0)).2) (s.loadsSent sent dropped) =
      s.loadsSent sent (dropped + l.length) := by
  induction l generalizing dropped with
  | nil => rfl
  | cons n l ih =>
    obtain ⟨hnot, hrest⟩ := List.nodup_cons.mp (List.nodup_middle.mp hnodup)
    refine (congrArg (forEach l _) (request_load_full hl ha (fun h => hnot (List.mem_append_left l h)) hfull)).trans
      ((ih hrest (dropped + 1)).trans ?_)
    rw [List.length_cons, Nat.add_assoc, Nat.add_comm 1]

theorem forEach_load_active (l : List Nat) {sent : List Nat} (hsent : sent.length ≤ 7) (hnodup : (sent ++ l).Nodup) :
    forEach l (fun n s => (s.request (.panelLoad n .open_ 0)).2) (s.loadsSent sent 0) =
      s.loadsSent ((sent ++ l).take 7) ((sent ++ l).length - 7) := by
  induction l generalizing sent with
  | nil =>
    rw [List.append_nil, List.take_of_length_le hsent, Nat.sub_eq_zero_of_le hsent]
    rfl
  | cons n l ih =>
    rcases Nat.lt_or_eq_of_le hsent with hroom | hfull
    · have hnot := (List.nodup_cons.mp (List.nodup_middle.mp hnodup)).1
      have hshift : sent ++ n :: l = (sent ++ [n]) ++ l := by rw [List.append_assoc, List.singleton_append]
      refine (congrArg (forEach l _) (request_load_room hl ha (fun h => hnot (List.mem_append_left l h)) hroom)).trans ?_
      rw [hshift]
      refine ih ?_ (hshift ▸ hnodup)
      rw [List.length_append]
      exact hroom
    · rw [forEach_load_full hl ha hfull (n :: l) hnodup 0, List.take_left' hfull, List.length_append, hfull]
      congr 1
      omega

end active

/-- The reports of a START: the first seven go into the queue and the others are dropped, all of them in LISTEN_ONLY. -/
theorem startReports_eq {s : State} (hl : s.loader.state ≠ .imageFault) (hq : s.bus.queue = []) : s.startReports =
    s.loadsSent (if s.bus.state = .active then s.destinations.take 7 else [])
      (if s.bus.state = .active then s.destinations.length - 7 else s.destinations.length) := by
  have hnodup : s.destinations.Nodup := (panelsWhere_sorted s _).imp Nat.ne_of_lt
  cases hb : s.bus.state with
  | active =>
    have h := forEach_load_active hl hb s.destinations (sent := []) (Nat.zero_le 7) hnodup
    rw [loadsSent_none hq] at h
    exact h
  | listenOnly =>
    have h := forEach_load_listenOnly hb s.destinations 0
    rw [loadsSent_none hq, Nat.zero_add] at h
    exact h

/-! ### The records of a START (R51, R86, R92, R116, R123, R131, R132, R135, R136) -/

theorem lanternRecords_eq (n : Nat) (l : List PanelRow) :
    lanternRecords n l = (l.zipIdx n).flatMap (fun p => lanternsOf p.2 p.1) := by
  induction l generalizing n with
  | nil => rfl
  | cons row l ih =>
    unfold lanternRecords
    rw [ih, List.zipIdx_cons, List.flatMap_cons]

theorem orderStops_nil (dir : Dir) (current : Option Nat) : orderStops dir current [] = [] := by
  unfold orderStops
  split <;> rfl

theorem schedCycleStart_link_ne {m n : Nat} (h : m ≠ n) (e : CycleStart) (old : BitVec 6) (s : State) :
    (s.schedCycleStart e old m).links[n]? = s.links[n]? :=
  schedCycleStart_at (link_elsewhere h.symm s.links[n]?).toShowAt (fun _ _ ht => ht) e old s rfl

section started
variable {s : State} (pins : List Bool)

theorem decksOf_startRecords (slot : Nat) : (s.startRecords pins).decksOf slot = CarDecks.start := by
  show ((s.loader.copy.cars.map (fun _ => CarDecks.start))[slot]?).getD CarDecks.start = CarDecks.start
  rw [List.getElem?_map]
  cases s.loader.copy.cars[slot]? <;> rfl

theorem itemCount_startRecords {u : State} (hp : u.prompts = (s.startRecords pins).prompts)
    (hd : u.stops = (s.startRecords pins).stops) (n : Nat) (row : PanelRow) (page : Page) : u.itemCount n row page = 0 := by
  have hdecks : u.decksOf row.slot = CarDecks.start := by
    rw [← decksOf_startRecords pins (s := s) row.slot]
    simp only [State.decksOf, hd]
  have hstops : u.panelStops row = [] := by
    unfold State.panelStops
    cases u.carRow row.slot with
    | none => rfl
    | some car =>
      show orderStops _ _ ((u.decksOf row.slot).get row.deck).stops = []
      rw [hdecks]
      cases row.deck <;> exact orderStops_nil _ _
  have hpool : u.promptList n = [] := by
    unfold State.promptList
    rw [hp]
    rfl
  cases page with
  | prompts => exact congrArg List.length hpool
  | stops => exact congrArg List.length hstops
  | floor => rfl
  | text _ => rfl
  | notice => rfl
  | blank => rfl
  | lantern => rfl

/-- A panel at a START whose link is not UP. -/
theorem idleAt_of_start {u : State} (hu : u.forShow = (s.startRecords pins).atStart.forShow)
    {n : Nat} {row : PanelRow} (hrow : s.row n = some row) (hlink : ∀ l, u.links[n]? = some l → l.state ≠ .up) :
    u.idleAt n row := by
  have hloader : u.loader = s.loader := (congrArg State.loader hu :)
  have hcycle : u.cycle = (s.startRecords pins).atStart.cycle := (congrArg State.cycle hu :)
  have hdown : u.linkUp n = false := by
    unfold State.linkUp State.link
    cases hl : u.links[n]? with
    | none => rfl
    | some l => exact beq_eq_false_iff_ne.mpr (hlink l hl)
  refine ⟨?_, ?_, fun page => itemCount_startRecords pins (congrArg State.prompts hu :) (congrArg State.stops hu :) n row page,
    ?_, ?_⟩
  · simp only [State.row, hloader]
    exact hrow
  · unfold State.reachable
    rw [hdown, Bool.and_false]
  · have hzero : elapsed s.cycle.clock s.cycle.clock = 0 := by
      unfold elapsed
      rw [BitVec.sub_self]
      rfl
    have hct : u.ct = (s.startRecords pins).atStart.ct := by simp only [State.ct, hloader, hcycle] <;> rfl
    rw [hct]
    unfold State.ct
    split
    · rfl
    · exact hzero
    · exact hzero
  · rw [hcycle]
    rfl

/-- The schedules of a START. -/
theorem startCycle_schedule (hlinks : ∀ n row, s.row n = some row → ∀ l, s.links[n]? = some l → l.state ≠ .up)
    {n : Nat} {row : PanelRow} (hrow : s.row n = some row) : ∃ k, (s.startRecords pins).startCycle.schedules[n]? =
      some (scheduleAtStart row ((s.startRecords pins).suspended row) ((s.startRecords pins).pin n) k) := by
  have hmem : n ∈ (s.startRecords pins).panelIds := mem_panelIds.mpr ⟨row, hrow⟩
  have hstep (m : Nat) (t : State) :
      (t.schedCycleStart (startEvent (s.startRecords pins).cycle.clock) (s.startRecords pins).cycle.count m).forShow =
        t.forShow := schedCycleStart_forShow _ _ m t
  obtain ⟨u, hu, hpart, hafter⟩ := forEach_part_of_mem (P := fun t k => (t.schedules[k]?, t.links[k]?)) (F := State.forShow)
    (f := fun n t => t.schedCycleStart (startEvent (s.startRecords pins).cycle.clock) (s.startRecords pins).cycle.count n)
    hstep (fun m k h t => Prod.ext (schedCycleStart_schedule_ne h _ _ t) (schedCycleStart_link_ne h _ _ t))
    (panelIds_nodup _) hmem (s.startRecords pins).atStart
  have hidle : u.idleAt n row := by
    refine idleAt_of_start pins hu hrow fun l hl => ?_
    have hsame : s.links[n]? = some l := (congrArg Prod.snd hpart).symm.trans hl
    exact hlinks n row hrow l hsame
  have hsched : u.schedules[n]? = some (Schedule.start row.kind) := by
    refine (congrArg Prod.fst hpart).trans ?_
    show (s.loader.copy.panels.map (fun row => Schedule.start row.kind))[n]? = _
    rw [List.getElem?_map, show s.loader.copy.panels[n]? = some row from hrow]
    rfl
  obtain ⟨k, hk⟩ := schedCycleStart_idle hidle hsched (e := startEvent (s.startRecords pins).cycle.clock) rfl
    (s.startRecords pins).cycle.count
  refine ⟨k, (congrArg Prod.fst hafter).trans (hk.trans ?_)⟩
  have hmode : u.mode = (s.startRecords pins).mode := (congrArg State.mode hu :)
  simp only [State.suspended, State.pin, hmode]

end started

end Sys2Proof.Machine
end

section
/-! PROOFS. The end of LOADING and RESTART (R15, R17, R26, R28, R29, R155, R162, R165). -/

namespace Sys2Proof.Machine

/-! ### Links that stay FAULTED (R165) -/

theorem faultedLinks_getLsbD (l : List LinkRec) (k : Nat) {n : Nat} (hn : n < 8) : (faultedLinks l k).getLsbD n =
    (decide (k ≤ n) && decide ((l[n - k]?).map (·.state) = some .faulted)) := by
  induction l generalizing k with
  | nil => simp [faultedLinks]
  | cons r l ih =>
    unfold faultedLinks
    rw [BitVec.getLsbD_or, ih (k + 1)]
    rcases Nat.lt_trichotomy n k with hlt | rfl | hgt
    · have hbit : (if r.state = .faulted then maskBit 8 k else 0).getLsbD n = false := by
        split
        · rw [maskBit8_getLsbD k n hn, decide_eq_false (Nat.ne_of_lt hlt)]
        · exact BitVec.getLsbD_zero
      rw [hbit, decide_eq_false (Nat.not_le.mpr hlt), decide_eq_false (Nat.not_le.mpr (Nat.lt_succ_of_lt hlt))]
      rfl
    · have hbit : (if r.state = .faulted then maskBit 8 n else 0).getLsbD n = decide (r.state = .faulted) := by
        split
        · next h => rw [maskBit8_getLsbD n n hn, decide_eq_true rfl, decide_eq_true h]
        · next h => rw [decide_eq_false h]; exact BitVec.getLsbD_zero
      rw [hbit, decide_eq_false (Nat.not_le.mpr (Nat.lt_succ_self n)), Nat.sub_self]
      simp
    · have hbit : (if r.state = .faulted then maskBit 8 k else 0).getLsbD n = false := by
        split
        · rw [maskBit8_getLsbD k n hn, decide_eq_false (Nat.ne_of_gt hgt)]
        · exact BitVec.getLsbD_zero
      rw [hbit, decide_eq_true (Nat.le_of_lt hgt), decide_eq_true (show k + 1 ≤ n from hgt),
        show n - k = n - (k + 1) + 1 by omega, List.getElem?_cons_succ]
      rfl

/-- A link that has just begun probing is not FAULTED. -/
theorem probed_state (s : State) (n : Nat) (r : LinkRec) : (LinkRec.probed s n r).state = .probing := rfl

theorem probed_of_row {s : State} {n : Nat} {row : PanelRow} (h : s.row n = some row) (l : LinkRec) :
    LinkRec.probed s n l = probingFrom l row.width row.lines s.cycle.clock := by
  unfold LinkRec.probed State.probeMsg
  rw [h]
  rfl

theorem probed_of_noRow {s : State} {n : Nat} (h : s.row n = none) (l : LinkRec) :
    LinkRec.probed s n l = probingFrom l 8 1 s.cycle.clock := by
  unfold LinkRec.probed State.probeMsg
  rw [h]
  rfl

theorem probeAll_frame (s : State) : s.probeAll = { s with links := s.probeAll.links } := probing_frame (List.range 8) s

/-- With an empty copy all eight links probe with width 8 and line count 1 (R26). -/
theorem probeAll_link {s : State} (hcopy : s.loader.copy = Image.empty) {n : Nat} (hn : n < 8) {l : LinkRec}
    (hl : s.links[n]? = some l) : s.probeAll.links[n]? = some (probingFrom l 8 1 s.cycle.clock) := by
  have hrow : s.row n = none := by
    unfold State.row
    rw [hcopy]
    rfl
  unfold State.probeAll
  rw [probing_links _ s List.nodup_range, if_pos (List.mem_range.mpr hn), hl, Option.map_some, probed_of_noRow hrow]

theorem probeAll_faultedLinks (s : State) : faultedLinks s.probeAll.links 0 = 0 := by
  refine BitVec.eq_of_getLsbD_eq fun n hn => ?_
  unfold State.probeAll
  rw [faultedLinks_getLsbD _ 0 hn, probing_links _ s List.nodup_range, Nat.sub_zero, if_pos (List.mem_range.mpr hn)]
  cases s.links[n]? with
  | none => simp
  | some l => simp [probed_state]

/-! ### Items raised at the end of LOADING (R15, R29) -/

/-- The strap case and the item of the reset, with nothing queued. -/
theorem loadReset_frame {s : State} (hq : s.bus.queue = []) : s.strapCase.raiseReset = { s with
    bus := { s.bus with
      state := if s.validStation then s.bus.state else .listenOnly,
      failCount := if s.validStation then s.bus.failCount else 96 },
    status := { s.status with exceptions := { s.status.exceptions with
      powerUp := s.status.exceptions.powerUp || decide (s.status.cause = .power),
      pinReset := s.status.exceptions.pinReset || decide (s.status.cause = .pin),
      listenOnly := s.status.exceptions.listenOnly || !s.validStation } } } := by
  have hstrap : s.strapCase.bus.queue = s.bus.queue := by
    unfold State.strapCase
    split
    · rfl
    · exact (congrArg BusUnit.queue (raise_bus_empty (s := { s with
        bus := { s.bus with state := .listenOnly, failCount := Config.listenOnlyAt } }) hq) :)
  have hreset : s.strapCase.raiseReset.bus.queue = s.strapCase.bus.queue := by
    unfold State.raiseReset
    split
    · exact congrArg BusUnit.queue (raise_bus_empty (hstrap.trans hq))
    · exact congrArg BusUnit.queue (raise_bus_empty (hstrap.trans hq))
    · rfl
  rw [raiseReset_frame, hreset, hstrap]
  rw [strapCase_frame, hstrap]

theorem raiseImageFault_frame {s : State} (hq : s.bus.queue = []) : s.raise .imageFault = { s with
    status := { s.status with exceptions := { s.status.exceptions with imageFault := true } } } :=
  congrArg (fun b => ({ s with
    bus := b, status := { s.status with exceptions := { s.status.exceptions with imageFault := true } } } : State))
    (raise_bus_empty hq)

theorem exec_endOfLoading {s : State} (h : s.loader.state = .loading) (memory : List Word16) :
    exec (.endOfLoading memory) s = .next (s.loadEnded (load memory)) :=
  congrArg Host.Outcome.next (if_pos h)

/-- The record after a RESTART raised RESTARTED with nothing queued. -/
theorem restartStatus_frame {s : State} (hq : s.bus.queue = []) : s.restartStatus = { s with
    status := { s.status with
      exceptions := { s.status.exceptions.meet s.heldItems with restarted := true },
      cause := .restart, restarts := min 255 (s.status.restarts + 1), query := none } } :=
  congrArg (fun b => ({ s with
    bus := b,
    status := { s.status with
      exceptions := { s.status.exceptions.meet s.heldItems with restarted := true },
      cause := .restart, restarts := min 255 (s.status.restarts + 1), query := none } } : State))
    (raise_bus_empty (i := .restarted) (s := { s with
      status := { s.status with
        exceptions := s.status.exceptions.meet s.heldItems, cause := .restart,
        restarts := min 255 (s.status.restarts + 1), query := none } }) hq)

theorem meet_heldItems (s : State) : s.status.exceptions.meet s.heldItems = { Exceptions.empty with
    imageFault := s.status.exceptions.imageFault && decide (s.loader.state = .imageFault),
    listenOnly := s.status.exceptions.listenOnly && decide (s.bus.state = .listenOnly),
    linkFault := s.status.exceptions.linkFault &&& faultedLinks s.links 0 } := by
  simp [Exceptions.meet, State.heldItems, Exceptions.empty]

end Sys2Proof.Machine

open Sys2Proof Sys2Proof.Machine

/-- Settles O8: with an empty copy no link has a panel row. -/
theorem refusedImageEndsInImageFault : Obligations.RefusedImageEndsInImageFault := by
  unfold Obligations.RefusedImageEndsInImageFault
  intro memory s reason row rate hloading hq hload
  rw [exec_endOfLoading hloading, hload]
  refine ⟨_, rfl, ?_⟩
  have hreset := loadReset_frame (s := { s with
    loader := { state := .imageFault, fault := some (reason, row), copy := Image.empty, bitRate := rate } }) hq
  unfold State.loadEnded
  dsimp only
  rw [hreset, raiseImageFault_frame (by exact hq), probeAll_frame]
  exact ⟨rfl, rfl, rfl, fun n l hn hl => probeAll_link rfl hn hl, rfl, rfl, rfl, rfl, rfl, rfl⟩

/-- Settles O11: the links probe before the held items are judged, so no LINK_FAULT is held. -/
theorem restartInImageFault : Obligations.RestartInImageFault := by
  unfold Obligations.RestartInImageFault
  intro s rx target hrx hstate hcopy haddr
  rw [exec_restart hrx haddr]
  refine ⟨_, rfl, ?_⟩
  have htaken : s.busy.restartTaken = s.busy.restartBus.resetCycle.probeAll.restartStatus := by
    unfold State.restartTaken
    rw [show s.busy.loader.state = .imageFault from hstate]
  have hqueue : s.busy.restartBus.resetCycle.probeAll.bus.queue = [] := by
    rw [probeAll_frame]
    rfl
  rw [htaken, restartStatus_frame hqueue, meet_heldItems, probeAll_faultedLinks, probeAll_frame]
  refine ⟨rfl, rfl, rfl, rfl, rfl, rfl, rfl, ?_, fun n l hn hl => probeAll_link (s := s.busy.restartBus.resetCycle) hcopy hn hl,
    rfl, rfl, rfl, rfl, rfl⟩
  have hfault : (s.status.exceptions.imageFault && decide (s.loader.state = .imageFault)) = s.status.exceptions.imageFault := by
    rw [decide_eq_true hstate, Bool.and_true]
  exact congrArg₂ (fun fault links => ({ Exceptions.empty with
    restarted := true, imageFault := fault, linkFault := links,
    listenOnly := s.status.exceptions.listenOnly && decide (s.busy.restartBus.bus.state = .listenOnly) } : Exceptions))
    hfault BitVec.and_zero

end

section
/-! PROOFS. What a START leaves (R35, R114, R116, R123, R135, R136), at the end of LOADING and at a RESTART. -/

namespace Sys2Proof.Machine

/-! ### The START and its reports -/

section started
variable {s : State} (pins : List Bool) (hl : s.loader.state ≠ .imageFault) (hq : s.bus.queue = [])

include hl hq in
/-- A START requests one load report for each DESTINATION panel. -/
theorem started_loads : (s.startRecords pins).startCycle.startReports = (s.startRecords pins).startCycle.loadsSent
    (if s.bus.state = .active then s.destinations.take 7 else []) s.startDrops := by
  have hloader : (s.startRecords pins).startCycle.loader = s.loader :=
    (congrArg State.loader (startCycle_forShow (s.startRecords pins)) :)
  have hbus : (s.startRecords pins).startCycle.bus = s.bus :=
    (congrArg State.bus (startCycle_forShow (s.startRecords pins)) :)
  have hdestinations : (s.startRecords pins).startCycle.destinations = s.destinations := by
    simp only [State.destinations, State.panelsWhere, State.panelIds, State.row, hloader]
  have h := startReports_eq (s := (s.startRecords pins).startCycle) (by rw [hloader]; exact hl) (by rw [hbus]; exact hq)
  rw [hbus, hdestinations] at h
  exact h

include hl hq in
/-- The queue and the record that a START leaves. -/
theorem started_bus : (s.startRecords pins).startCycle.startReports.bus = { s.bus with
    queue := if s.bus.state = .active then (s.destinations.take 7).map startFrame else [] } := by
  have hbus : (s.startRecords pins).startCycle.bus = s.bus :=
    (congrArg State.bus (startCycle_forShow (s.startRecords pins)) :)
  rw [started_loads pins hl hq]
  unfold State.loadsSent
  rw [hbus]
  split <;> rfl

include hl hq in
theorem started_status : (s.startRecords pins).startCycle.startReports.status = { s.status with
    counters := { s.status.counters with
      framesDropped := if s.startDrops = 0 then s.status.counters.framesDropped
        else counted s.status.counters.framesDropped s.startDrops },
    exceptions := { s.status.exceptions with
      queueOverflow := s.status.exceptions.queueOverflow ||
        decide (s.bus.state = .active ∧ 7 < s.destinations.length) } } := by
  have hbus : (s.startRecords pins).startCycle.bus = s.bus :=
    (congrArg State.bus (startCycle_forShow (s.startRecords pins)) :)
  have hstatus : (s.startRecords pins).startCycle.status = s.status :=
    (congrArg State.status (startCycle_forShow (s.startRecords pins)) :)
  have hfull : (s.bus.state = .active ∧ 0 < s.startDrops) = (s.bus.state = .active ∧ 7 < s.destinations.length) :=
    propext (and_congr_right fun ha => by
      unfold State.startDrops
      rw [if_pos ha]
      omega)
  rw [started_loads pins hl hq]
  unfold State.loadsSent
  rw [hbus, hstatus]
  simp only [hfull]

theorem started_loader : (s.startRecords pins).startCycle.startReports.loader = s.loader :=
  (congrArg State.loader (starts_frame (s.startRecords pins)) :)

theorem started_destinations : (s.startRecords pins).startCycle.startReports.destinations = s.destinations := by
  simp only [State.destinations, State.panelsWhere, State.panelIds, State.row, started_loader]

theorem started_stationState : (s.startRecords pins).startCycle.startReports.bus.state = s.bus.state :=
  (congrArg (fun t : State => t.bus.state) (starts_frame (s.startRecords pins)) :)

theorem started_drops : (s.startRecords pins).startCycle.startReports.startDrops = s.startDrops := by
  simp only [State.startDrops, started_destinations, started_stationState]

theorem started_mode : (s.startRecords pins).startCycle.startReports.mode = (s.startRecords pins).mode :=
  (congrArg State.mode (starts_frame (s.startRecords pins)) :)

end started

theorem startReports_schedules (s : State) : s.startReports.schedules = s.schedules :=
  (congrArg State.schedules (startReports_forRequest s) :)

/-- Every record of a copy's row stands at its starting values after a START. -/
theorem started_fresh {s : State} (pins : List Bool) (hl : s.loader.state ≠ .imageFault) (hq : s.bus.queue = [])
    (hlinks : ∀ n row, s.row n = some row → ∀ l, s.links[n]? = some l → l.state ≠ .up) :
    (s.startRecords pins).startCycle.startReports.fresh := by
  have hqueue := congrArg BusUnit.queue (started_bus pins hl hq)
  have hlength := starts_schedules (s.startRecords pins)
  have hsched : (s.startRecords pins).startCycle.startReports.schedules = (s.startRecords pins).startCycle.schedules :=
    startReports_schedules _
  rw [starts_frame] at hqueue hlength hsched ⊢
  exact
    { cars := rfl
      decks := rfl
      lanterns := lanternRecords_eq 0 _
      dark := lanternRecords_dark 0 _
      pool := rfl
      levels := rfl
      quiet := rfl
      lamps := rfl
      captures := rfl
      schedules := by
        refine ⟨hlength.trans (List.length_map ..), fun n row hrow => ?_⟩
        obtain ⟨k, hk⟩ := startCycle_schedule pins hlinks hrow
        exact ⟨k, (congrArg (·[n]?) hsched).trans hk⟩
      queue := hqueue }

/-! ### The end of LOADING with a good image -/

theorem raiseImageItems_queue {s : State} (hq : s.bus.queue = []) : s.raiseImageItems.bus.queue = [] := by
  unfold State.raiseImageItems
  refine forEach_preserves (fun t => t.bus.queue = []) _ (fun n t ht => ?_) _ _ ?_
  · exact (congrArg BusUnit.queue (raise_bus_empty ht)).trans ht
  · unfold State.raiseIf
    split
    · exact (congrArg BusUnit.queue (raise_bus_empty hq)).trans hq
    · exact hq

/-- The items of the copy, raised with nothing queued: SHOW_LIST_FAULT takes the panels whose list is faulted. -/
theorem raiseImageItems_eq {s : State} (hq : s.bus.queue = []) : ∃ lists : BitVec 8,
    s.raiseImageItems = { s with
      status := { s.status with exceptions := { s.status.exceptions with
        imageClamped := s.status.exceptions.imageClamped || s.loader.copy.clamped, showListFault := lists } } } ∧
    ∀ (n : Nat) (row : PanelRow), n < 8 → s.row n = some row →
      lists.getLsbD n = (s.status.exceptions.showListFault.getLsbD n || row.listFaulted) := by
  obtain ⟨hitems, hlists⟩ := raiseImageItems_frame s
  refine ⟨s.raiseImageItems.status.exceptions.showListFault, ?_, hlists⟩
  rw [raiseImageItems_queue hq, ← hq] at hitems
  exact hitems

/-- The links with a panel row, probing. -/
def State.probedLinks (s : State) : List LinkRec := (forEach s.panelIds (fun n s => s.startProbing n) s).links

theorem probedLinks_of_row {s : State} {n : Nat} {row : PanelRow} (hrow : s.row n = some row) :
    s.probedLinks[n]? = (s.links[n]?).map (fun l => probingFrom l row.width row.lines s.cycle.clock) := by
  unfold State.probedLinks
  rw [probing_links _ s (panelIds_nodup s), if_pos (mem_panelIds.mpr ⟨row, hrow⟩)]
  exact congrArg (fun f => (s.links[n]?).map f) (funext (probed_of_row hrow))

theorem probedLinks_of_noRow {s : State} {n : Nat} (hrow : s.row n = none) : s.probedLinks[n]? = s.links[n]? := by
  unfold State.probedLinks
  rw [probing_links _ s (panelIds_nodup s), if_neg]
  intro h
  obtain ⟨row, hsome⟩ := mem_panelIds.mp h
  exact nomatch hrow.symm.trans hsome

theorem row_of_length_le {s : State} {n : Nat} (h : s.loader.copy.panels.length ≤ n) : s.row n = none :=
  List.getElem?_eq_none h

/-- No link of a panel row is UP while it probes. -/
theorem probedLinks_not_up {s : State} {n : Nat} {row : PanelRow} (hrow : s.row n = some row) {l : LinkRec}
    (h : s.probedLinks[n]? = some l) : l.state ≠ .up := by
  rw [probedLinks_of_row hrow] at h
  obtain ⟨r, -, rfl⟩ := Option.map_eq_some_iff.mp h
  exact nofun

/-- The blocks start with their links already probing. -/
theorem startBlocks_eq (s : State) (pins : List Bool) : s.startBlocks pins =
    ((({ s with links := (s.startRecords pins).probedLinks } : State).startRecords pins).startCycle).startReports :=
  congrArg (fun t : State => t.startCycle.startReports) (probing_frame s.panelIds (s.startRecords pins))

/-- The state in which a START finds a link of a panel row. -/
theorem started_link {s : State} (pins : List Bool) {n : Nat} {row : PanelRow} {l : LinkRec} {clock : Clock}
    (h : s.links[n]? = some (probingFrom l row.width row.lines clock)) :
    (s.startRecords pins).startCycle.startReports.links[n]? = some (probingFrom l row.width row.lines clock) :=
  starts_idle (s := s.startRecords pins) h nofun rfl

/-! ### RESTART in RUNNING -/

/-- The state from which a RESTART in RUNNING makes its START: the links probe, the record keeps what is held, the image
items are raised and the claims are removed. -/
def State.restartReady (s : State) : State :=
  (forEach s.panelIds (fun n s => s.startProbing n) s.restartBus).restartStatus.raiseImageItems.restartMode

theorem restartTaken_of_running {s : State} (h : s.loader.state = .running) : s.restartTaken =
    (s.restartReady.startRecords s.restartReady.mode.pins).startCycle.startReports := by
  unfold State.restartTaken
  rw [h]
  rfl

theorem restartReady_eq (s : State) : ∃ lists : BitVec 8,
    s.restartReady = { s with
      bus := s.restartBus.bus
      links := s.restartBus.probedLinks
      mode := s.restartMode.mode
      status := { s.status with
        cause := .restart, restarts := min 255 (s.status.restarts + 1), query := none,
        exceptions := { Exceptions.empty with
          restarted := true, imageClamped := s.loader.copy.clamped, showListFault := lists,
          imageFault := s.status.exceptions.imageFault && decide (s.loader.state = .imageFault),
          listenOnly := s.status.exceptions.listenOnly && decide (s.restartBus.bus.state = .listenOnly),
          linkFault := s.status.exceptions.linkFault &&& faultedLinks s.restartBus.probedLinks 0 } } } ∧
    ∀ (n : Nat) (row : PanelRow), n < 8 → s.row n = some row → lists.getLsbD n = row.listFaulted := by
  have hprobing : forEach s.panelIds (fun n s => s.startProbing n) s.restartBus =
      { s.restartBus with links := s.restartBus.probedLinks } := probing_frame _ _
  have hstatus := restartStatus_frame (s := ({ s.restartBus with links := s.restartBus.probedLinks } : State)) rfl
  rw [meet_heldItems] at hstatus
  unfold State.restartReady
  rw [hprobing, hstatus]
  obtain ⟨lists, hitems, hlists⟩ := raiseImageItems_eq (s := { s.restartBus with
    links := s.restartBus.probedLinks
    status := { s.status with
      exceptions := { Exceptions.empty with
        restarted := true,
        imageFault := s.status.exceptions.imageFault && decide (s.loader.state = .imageFault),
        listenOnly := s.status.exceptions.listenOnly && decide (s.restartBus.bus.state = .listenOnly),
        linkFault := s.status.exceptions.linkFault &&& faultedLinks s.restartBus.probedLinks 0 },
      cause := .restart, restarts := min 255 (s.status.restarts + 1), query := none } }) rfl
  refine ⟨lists, (congrArg State.restartMode hitems).trans rfl, fun n row hn hrow => (hlists n row hn hrow).trans ?_⟩
  show ((0 : BitVec 8).getLsbD n || row.listFaulted) = _
  rw [show (0 : BitVec 8).getLsbD n = false from BitVec.getLsbD_zero, Bool.false_or]

/-- Only a link without a panel row stays FAULTED over a RESTART in RUNNING. -/
theorem faultedLinks_probedLinks (s : State) {n : Nat} (hn : n < 8) : (faultedLinks s.probedLinks 0).getLsbD n =
    ((s.row n).isNone && decide ((s.links[n]?).map (·.state) = some .faulted)) := by
  rw [faultedLinks_getLsbD _ 0 hn, Nat.sub_zero, decide_eq_true (Nat.zero_le n), Bool.true_and]
  cases hrow : s.row n with
  | none => rw [probedLinks_of_noRow hrow, Option.isNone_none, Bool.true_and]
  | some row =>
    rw [probedLinks_of_row hrow, Option.map_map, Option.isNone_some, Bool.false_and]
    cases s.links[n]? with
    | none => exact decide_eq_false nofun
    | some l => exact decide_eq_false nofun

end Sys2Proof.Machine

open Sys2Proof Sys2Proof.Machine

/-- Settles O9: the items of the reset and of the copy are raised, then the records start, the links probe and the cycle
unit makes its START. -/
theorem goodImageStartsEveryBlock : Obligations.GoodImageStartsEveryBlock := by
  unfold Obligations.GoodImageStartsEveryBlock
  intro memory s copy rate hloading hq hload
  rw [exec_endOfLoading hloading, hload]
  refine ⟨_, rfl, ?_⟩
  let pins := copy.panels.map (fun _ => false)
  let loaded : State := { s with loader := { state := .running, fault := none, copy := copy, bitRate := rate } }
  have hended : s.loadEnded (.good copy rate) = loaded.strapCase.raiseReset.raiseImageItems.startBlocks pins := rfl
  rw [hended, loadReset_frame (s := loaded) hq]
  generalize hr : ({ loaded with
    bus := _, status := _ } : State) = reset
  obtain ⟨lists, hitems, hlists⟩ := raiseImageItems_eq (s := reset) (by rw [← hr]; exact hq)
  rw [hitems, startBlocks_eq]
  generalize hp : (State.startRecords _ _).probedLinks = probed
  have hlinks (n : Nat) (row : PanelRow) (hrow : copy.panels[n]? = some row) : probed[n]? =
      (s.links[n]?).map (fun l => probingFrom l row.width row.lines s.cycle.clock) := by
    subst hp hr
    exact probedLinks_of_row hrow
  have hothers (n : Nat) (hn : copy.panels.length ≤ n) : probed[n]? = s.links[n]? := by
    subst hp hr
    exact probedLinks_of_noRow (row_of_length_le hn)
  generalize hu : ({ reset with status := _, links := probed } : State) = ready
  subst hr
  have hfresh := started_fresh (s := ready) pins (by subst hu; exact nofun) (by subst hu; exact hq) (by
    subst hu
    intro n row hrow l hl
    rw [hlinks n row hrow] at hl
    obtain ⟨r, -, rfl⟩ := Option.map_eq_some_iff.mp hl
    exact nofun)
  have hbus := started_bus (s := ready) pins (by subst hu; exact nofun) (by subst hu; exact hq)
  have hstatus := started_status (s := ready) pins (by subst hu; exact nofun) (by subst hu; exact hq)
  have hframe := starts_frame (ready.startRecords pins)
  refine ⟨hfresh, (started_loader pins).trans (by subst hu; rfl), (congrArg State.cycle hframe).trans (by subst hu; rfl),
    ?_, ?_, ?_, ?_, ?_, ?_⟩
  · refine (congrArg State.bus hframe).trans ?_
    subst hu
    rfl
  · rw [started_mode]
    subst hu
    rfl
  · rw [started_drops, started_destinations, started_stationState, hstatus]
    subst hu
    rfl
  · intro n row hn hrow
    rw [hstatus]
    subst hu
    exact hlists n row hn hrow
  · intro n l row hrow hl
    refine started_link pins ?_
    subst hu
    exact (hlinks n row hrow).trans (congrArg (Option.map _) hl)
  · intro n hn
    subst hu
    exact (starts_elsewhere hn).trans (hothers n hn)

/-- Settles O10: the links probe before the held items are judged, and the record is cleared before the START requests its
reports. -/
theorem restartInRunning : Obligations.RestartInRunning := by
  unfold Obligations.RestartInRunning
  intro s rx target hhears haddr
  have hrunning : s.busy.loader.state = .running := hhears.1
  have hlevel (m : ModeUnit) : ({ m with claims := [] } : ModeUnit).derived =
      if m.evacuation then .evacuate else if m.night then .night else .normal := by
    unfold ModeUnit.derived
    rw [if_neg (fun h : ([] : List Claim) ≠ [] => h rfl)]
  rw [exec_restart ⟨by rw [hhears.1]; exact nofun, hhears.2⟩ haddr, restartTaken_of_running hrunning]
  refine ⟨_, rfl, ?_⟩
  obtain ⟨lists, hready, hlists⟩ := restartReady_eq s.busy
  have hlinks (n : Nat) (row : PanelRow) (hrow : s.row n = some row) : s.busy.restartReady.links[n]? =
      (s.links[n]?).map (fun l => probingFrom l row.width row.lines s.cycle.clock) := by
    rw [hready]
    exact probedLinks_of_row (s := s.busy.restartBus) hrow
  generalize s.busy.restartReady = ready at hready hlinks
  have hloader : ready.loader = s.loader := (congrArg State.loader hready :)
  have hstate : ready.loader.state ≠ .imageFault := by
    rw [hloader, hhears.1]
    exact nofun
  have hqueue : ready.bus.queue = [] := (congrArg (fun t : State => t.bus.queue) hready :)
  have hfresh := started_fresh ready.mode.pins hstate hqueue (by
    intro n row hrow l hl
    have hrow' : s.row n = some row := by
      simp only [State.row, hloader] at hrow
      exact hrow
    rw [hlinks n row hrow'] at hl
    obtain ⟨r, -, rfl⟩ := Option.map_eq_some_iff.mp hl
    exact nofun)
  have hstatus := started_status ready.mode.pins hstate hqueue
  have hframe := starts_frame (ready.startRecords ready.mode.pins)
  have hlift : (ready.startRecords ready.mode.pins).startCycle.startReports.faultPin = true := by
    have hrestarted : (ready.startRecords ready.mode.pins).startCycle.startReports.status.exceptions.restarted = true := by
      rw [hstatus, hready]
    unfold State.faultPin
    rw [decide_eq_true (p := _ ≠ _) (fun h =>
      Bool.false_ne_true ((congrArg Exceptions.restarted h).symm.trans hrestarted)), Bool.or_true]
  rw [started_drops, started_destinations, started_stationState, started_mode, hstatus]
  refine ⟨hfresh, (started_loader _).trans hloader, (congrArg State.cycle hframe).trans (by subst hready; rfl), ?_,
    (congrArg State.bus hframe).trans (by subst hready; rfl), ?_⟩
  · subst hready
    exact congrArg (fun level => ({ s.mode with
      claims := [], level := level,
      quiet := _, lamps := _, captures := _ } : ModeUnit)) (hlevel s.mode)
  subst hready
  refine ⟨rfl, rfl, rfl, rfl, rfl, rfl, rfl, rfl, ?_, rfl, ?_, Bool.false_or _, rfl, rfl, rfl, rfl, hlift, hlists, ?_⟩
  · show (s.status.exceptions.imageFault && decide (s.loader.state = .imageFault)) = false
    rw [hhears.1]
    exact Bool.and_false _
  · intro n hn
    show (s.status.exceptions.linkFault &&& faultedLinks s.busy.restartBus.probedLinks 0).getLsbD n = _
    rw [BitVec.getLsbD_and, faultedLinks_probedLinks _ hn, Bool.and_left_comm, ← Bool.and_assoc]
    rfl
  · intro n l row hrow hl
    exact started_link _ ((hlinks n row hrow).trans (congrArg (Option.map _) hl))

end

section
/-! PROOFS. The structural checks of a load (R19, R20, R172). -/

namespace Sys2Proof.Machine

/-! ### First offending rows -/

section firstBelow
variable {limit i : Nat} {p : Nat → Bool} {P : Nat → Prop} (h : ∀ i, p i = true ↔ P i)
include h

theorem firstBelow_of_isFirst (hi : isFirst limit P i) : firstBelow limit p = some i := by
  obtain ⟨hlt, hP, hbefore⟩ := hi
  refine List.find?_range_eq_some.mpr ⟨(h i).mpr hP, List.mem_range.mpr hlt, fun j hj => ?_⟩
  rw [Bool.not_eq_true', Bool.eq_false_iff]
  exact fun hp => hbefore j hj ((h j).mp hp)

theorem firstBelow_of_none (hnone : ∀ i, i < limit → ¬ P i) : firstBelow limit p = none := by
  refine List.find?_range_eq_none.mpr fun j hj => ?_
  rw [Bool.not_eq_true', Bool.eq_false_iff]
  exact fun hp => hnone j hj ((h j).mp hp)

end firstBelow

/-! ### The walk over the show lists (12.4) -/

section walk
variable {ws : Words} {length : Nat}

/-- A show list within the image and of no more than 16 entries. -/
def Words.listPasses (ws : Words) (length k : Nat) : Prop := ws.listPos k + 1 < length ∧ ws.at (ws.listPos k) ≤ 16

theorem walkLists_step {n k : Nat} (h : ws.listPasses length k) : walkLists ws length (n + 1) k (ws.listPos k) =
    match walkLists ws length n (k + 1) (ws.listPos (k + 1)) with
    | .ended starts next => .ended (ws.listPos k :: starts) next
    | .tooMany j => .tooMany j
    | .beyond => .beyond := by
  rw [walkLists, if_neg (Nat.not_le.mpr h.1), if_neg (Nat.not_lt.mpr h.2)] <;> rfl

theorem walkLists_ended (n k : Nat) (h : ∀ j, k ≤ j → j < k + n → ws.listPasses length j) :
    walkLists ws length n k (ws.listPos k) = .ended ((List.range' k n).map ws.listPos) (ws.listPos (k + n)) := by
  induction n generalizing k with
  | zero => rfl
  | succ n ih =>
    have hrest := ih (k + 1) (fun j hj hlt => h j (Nat.le_of_succ_le hj) (by omega))
    rw [walkLists_step (h k (Nat.le_refl k) (by omega)), hrest, List.range'_succ, List.map_cons, Nat.add_right_comm,
      Nat.add_assoc k n 1]

/-- The walk ends at the first list that does not pass. -/
theorem walkLists_fails {n k j : Nat} (hk : k ≤ j) (hj : j < k + n) (hbefore : ∀ i, k ≤ i → i < j → ws.listPasses length i)
    (hfails : ¬ ws.listPasses length j) :
    walkLists ws length n k (ws.listPos k) = if length ≤ ws.listPos j + 1 then .beyond else .tooMany j := by
  induction n generalizing k with
  | zero => omega
  | succ n ih =>
    rcases Nat.eq_or_lt_of_le hk with rfl | hlt
    · rw [walkLists]
      split
      · rfl
      · next hinside => rw [if_pos (Nat.lt_of_not_le fun hfew => hfails ⟨Nat.lt_of_not_le hinside, hfew⟩)]
    · rw [walkLists_step (hbefore k (Nat.le_refl k) hlt),
        ih hlt (by omega) (fun i hi hij => hbefore i (Nat.le_of_succ_le hi) hij)]
      split
      · next hmatch => split at hmatch <;> exact nomatch hmatch
      · next hmatch => split at hmatch <;> simp_all
      · next hmatch => split at hmatch <;> simp_all

end walk

section lists
variable {ws : Words}

theorem lists_ended (h : ∀ k, k < ws.at 8 → ws.listPasses (ws.at 0) k) :
    ws.lists = .ended ((List.range' 0 (ws.at 8)).map ws.listPos) (ws.listPos (ws.at 8)) := by
  have hwalk := walkLists_ended (ws := ws) (length := ws.at 0) (ws.at 8) 0 (fun j _ hj => h j (by omega))
  rw [Nat.zero_add] at hwalk
  exact hwalk

theorem sensesAt_eq (h : ∀ k, k < ws.at 8 → ws.listPasses (ws.at 0) k) : ws.sensesAt = ws.listPos (ws.at 8) := by
  unfold Words.sensesAt
  rw [lists_ended h]

theorem listStarts_eq (h : ∀ k, k < ws.at 8 → ws.listPasses (ws.at 0) k) :
    ws.listStarts = (List.range (ws.at 8)).map ws.listPos := by
  unfold Words.listStarts
  rw [lists_ended h, List.range_eq_range']

theorem calledFor_eq (h : ∀ k, k < ws.at 8 → ws.listPasses (ws.at 0) k) :
    ws.calledFor = ws.listPos (ws.at 8) + 4 + 25 * ws.at 9 + 1 := by
  unfold Words.calledFor Words.textAt
  rw [sensesAt_eq h]
  rfl

/-! ### The checks of R20, each as a condition -/

/-- A count that is beyond its limit. -/
def Words.overLimits (ws : Words) : Prop := ws.at 5 < 2 ∨ 160 < ws.at 5 ∨ 16 < ws.at 6 ∨ 8 < ws.at 7 ∨ 8 < ws.at 8

theorem badCount_of_overLimits (h : ws.overLimits) : ws.badCount = some 255 := if_pos h

theorem badCount_of_list (hlimits : ¬ ws.overLimits) {k : Nat}
    (hk : isFirst (ws.at 8) (fun k => ws.at 0 ≤ ws.listPos k + 1 ∨ 16 < ws.at (ws.listPos k)) k) :
    ws.badCount = some (if ws.at 0 ≤ ws.listPos k + 1 then 255 else k) := by
  obtain ⟨hlt, hbad, hbefore⟩ := hk
  have hlists : ws.lists = if ws.at 0 ≤ ws.listPos k + 1 then .beyond else .tooMany k := by
    refine walkLists_fails (Nat.zero_le k) (by rw [Nat.zero_add]; exact hlt) (fun i _ hi => ?_) (fun hpass => ?_)
    · obtain ⟨hinside, hfew⟩ := not_or.mp (hbefore i hi)
      exact ⟨Nat.lt_of_not_le hinside, Nat.le_of_not_lt hfew⟩
    · exact hbad.elim (fun h => Nat.not_le.mpr hpass.1 h) (fun h => Nat.not_lt.mpr hpass.2 h)
  refine (if_neg hlimits).trans ?_
  rw [hlists]
  split
  · next hmatch => split at hmatch <;> simp_all
  · next hmatch => split at hmatch <;> simp_all
  · next hmatch => split at hmatch <;> exact nomatch hmatch

theorem badCount_of_lists (hlimits : ¬ ws.overLimits) (h : ∀ k, k < ws.at 8 → ws.listPasses (ws.at 0) k) : ws.badCount =
    if 96 < ws.at 9 ∨ ws.at 0 < ws.listPos (ws.at 8) + 4 + 25 * ws.at 9 + 1 then some 255 else none := by
  refine (if_neg hlimits).trans ?_
  rw [lists_ended h, calledFor_eq h]
  rfl

theorem badCount_of_countsPass (h : ws.countsPass) : ws.badCount = none := by
  obtain ⟨hlandings, hcars, hpanels, hlists, hfits, htexts, hroom⟩ := h
  have hlimits : ¬ ws.overLimits := by
    unfold Words.overLimits
    omega
  rw [badCount_of_lists hlimits hfits, if_neg (by omega)]

theorem badHeader_iff : ws.badHeader = true ↔ 1 < ws.at 1 ∨ 7 < ws.at 4 := by
  unfold Words.badHeader
  rw [Bool.or_eq_true, decide_eq_true_iff, decide_eq_true_iff]

theorem badKeypad_iff (n : Nat) : ws.badKeypad n = true ↔ ws.panelKind n = 1 ∧ ∃ k ∈ ws.keypads n,
    k = 0 ∨ k = 255 ∨ ∃ m, m < n ∧ ws.panelKind m = 1 ∧ k ∈ ws.keypads m := by
  simp only [Words.badKeypad, Bool.and_eq_true, beq_iff_eq, List.any_eq_true, Bool.or_eq_true, List.mem_range,
    List.contains_iff_mem, or_assoc]

theorem badPanel_iff (n : Nat) : ws.badPanel n = true ↔
    (ws.panelKind n = 2 ∧
      (ws.at 6 ≤ ws.panelSlot n ∨ (ws.panelUpper n = true ∧ ws.carStep (ws.panelSlot n) = 0))) ∨
    (ws.panelKind n ≠ 2 ∧ ws.at 5 ≤ ws.panelLanding n) ∨
    (∃ slot ∈ ws.carList n, ws.at 6 ≤ slot) ∨
    (ws.panelKind n = 1 ∧ ∃ k ∈ ws.keypads n,
      k = 0 ∨ k = 255 ∨ ∃ m, m < n ∧ ws.panelKind m = 1 ∧ k ∈ ws.keypads m) := by
  unfold Words.badPanel
  rw [Bool.or_eq_true, Bool.or_eq_true, badKeypad_iff, List.any_eq_true, or_assoc, ← or_assoc (a := _ ∧ _)]
  refine or_congr ?_ (or_congr ?_ Iff.rfl)
  · split
    · next hcar =>
      simp only [hcar, Bool.or_eq_true, Bool.and_eq_true, decide_eq_true_iff, beq_iff_eq, ne_eq, not_true, true_and,
        false_and, or_false]
      rfl
    · next hcar =>
      simp only [hcar, decide_eq_true_iff, ne_eq, not_false_eq_true, true_and, false_and, false_or]
      rfl
  · simp only [decide_eq_true_iff]
    rfl

/-! ### The order of the checks -/

theorem structureFault_of_header (h : ws.badHeader = true) : ws.structureFault = some (.header, 255) := if_pos h

section passed
variable (hheader : ws.badHeader = false)
include hheader

theorem structureFault_of_count {r : Nat} (h : ws.badCount = some r) : ws.structureFault = some (.count, r) := by
  unfold Words.structureFault
  rw [hheader, h]
  rfl

variable (hcount : ws.badCount = none)
include hcount

theorem structureFault_of_height {r : Nat} (h : ws.badHeight = some r) : ws.structureFault = some (.heights, r) := by
  unfold Words.structureFault
  rw [hheader, hcount, h]
  rfl

variable (hheight : ws.badHeight = none)
include hheight

theorem structureFault_of_range {r : Nat} (h : ws.badRange = some r) : ws.structureFault = some (.range, r) := by
  unfold Words.structureFault
  rw [hheader, hcount, hheight, h]
  rfl

variable (hrange : ws.badRange = none)
include hrange

theorem structureFault_of_carNumber {r : Nat} (h : ws.badCarNumber = some r) :
    ws.structureFault = some (.carNumber, r) := by
  unfold Words.structureFault
  rw [hheader, hcount, hheight, hrange, h]
  rfl

variable (hnumber : ws.badCarNumber = none)
include hnumber

theorem structureFault_of_kind {r : Nat} (h : ws.badKind = some r) : ws.structureFault = some (.panelKind, r) := by
  unfold Words.structureFault
  rw [hheader, hcount, hheight, hrange, hnumber, h]
  rfl

variable (hkind : ws.badKind = none)
include hkind

theorem structureFault_of_reference : ws.structureFault = ws.badReference.map (fun r => (.reference, r)) := by
  unfold Words.structureFault
  rw [hheader, hcount, hheight, hrange, hnumber, hkind]
  rfl

end passed
end lists

/-! ### The words of an image -/

theorem readWords_at (memory : List Word16) (length i : Nat) :
    (readWords memory length).at i = (((memory.take length)[i]?).map (·.toNat)).getD 65535 := by
  unfold Words.at readWords
  rw [List.getD_eq_getElem?_getD, List.getElem?_append, List.length_map]
  split
  · rw [List.getElem?_map]
  · next hout =>
    rw [List.getElem?_eq_none (Nat.le_of_not_lt hout), List.getElem?_replicate]
    split <;> rfl

/-- A load with a good length. -/
theorem load_of_length {memory : List Word16} (hleast : 15 ≤ imageLength memory) (hmost : imageLength memory ≤ 8192) :
    load memory = if (readWords memory (imageLength memory)).sum % 65536 ≠ 0 then
        .refused .check 255 (rateOf ((readWords memory (imageLength memory)).at 1))
      else match (readWords memory (imageLength memory)).structureFault with
        | some (reason, row) => .refused reason row (rateOf ((readWords memory (imageLength memory)).at 1))
        | none => .good (readWords memory (imageLength memory)).image
            (rateOf ((readWords memory (imageLength memory)).at 1)) := by
  have hlength : ¬ (imageLength memory < 15 ∨ 8192 < imageLength memory) := by omega
  exact if_neg hlength

end Sys2Proof.Machine

open Sys2Proof Sys2Proof.Machine

/-- Settles O6: each check of the table is the search for its first offending row, and the checks are tried in order. -/
theorem structureIsCheckedInOrder : Obligations.StructureIsCheckedInOrder := by
  unfold Obligations.StructureIsCheckedInOrder
  refine ⟨?_, readWords_at, ?_, ?_⟩
  · intro memory hleast hmost ws hsum
    have hload := load_of_length hleast hmost
    rw [if_neg (not_not_intro hsum)] at hload
    constructor
    · intro reason row hfault
      rw [hload, show (readWords memory (imageLength memory)).structureFault = _ from hfault]
      rfl
    · intro hnone
      rw [hload, show (readWords memory (imageLength memory)).structureFault = _ from hnone]
      rfl
  · intro ws i
    refine ⟨⟨rfl, rfl⟩, fun k => rfl, ⟨rfl, rfl⟩, ⟨rfl, rfl, rfl, rfl, rfl⟩, ⟨rfl, rfl, rfl, rfl, ?_, rfl, rfl, rfl⟩, rfl, rfl⟩
    exact beq_iff_eq
  · intro ws limits height range number kind names function none'
    refine ⟨fun h => structureFault_of_header (badHeader_iff.mpr h), fun hrate hzone => ?_⟩
    have hheader : ws.badHeader = false := Bool.eq_false_iff.mpr fun h => by
      have := badHeader_iff.mp h
      omega
    refine ⟨fun h => structureFault_of_count hheader (badCount_of_overLimits h), fun k hlimits hk =>
      structureFault_of_count hheader (badCount_of_list hlimits hk), fun hlimits hlists hroom =>
      structureFault_of_count hheader ((badCount_of_lists hlimits hlists).trans (if_pos hroom)), fun hcounts => ?_⟩
    have hcount := badCount_of_countsPass hcounts
    have hheights (i : Nat) : (i != 0 && decide (ws.height i ≤ ws.height (i - 1))) = true ↔
        i ≠ 0 ∧ ws.height i ≤ ws.height (i - 1) := by
      rw [Bool.and_eq_true, bne_iff_ne, decide_eq_true_iff]
    refine ⟨fun i hi => structureFault_of_height hheader hcount (firstBelow_of_isFirst hheights hi), fun hnone => ?_⟩
    have hheight : ws.badHeight = none := firstBelow_of_none hheights hnone
    have hranges (k : Nat) : (decide (ws.carHi k ≤ ws.carLo k) || decide (ws.at 5 ≤ ws.carHi k) || decide (2 < ws.carStep k)
        || decide (ws.at 5 ≤ ws.carHi k + ws.carStep k)) = true ↔
        ws.carHi k ≤ ws.carLo k ∨ ws.at 5 ≤ ws.carHi k ∨ 2 < ws.carStep k ∨ ws.at 5 ≤ ws.carHi k + ws.carStep k := by
      simp only [Bool.or_eq_true, decide_eq_true_iff, or_assoc]
    refine ⟨fun k hk => structureFault_of_range hheader hcount hheight (firstBelow_of_isFirst hranges hk), fun hnone => ?_⟩
    have hrange : ws.badRange = none := firstBelow_of_none hranges hnone
    have hnumbers (k : Nat) : (decide (ws.carNumber k < 1) || decide (32 < ws.carNumber k)
        || (List.range k).any (fun t => ws.carNumber t == ws.carNumber k)) = true ↔
        ws.carNumber k < 1 ∨ 32 < ws.carNumber k ∨ ∃ j, j < k ∧ ws.carNumber j = ws.carNumber k := by
      simp only [Bool.or_eq_true, decide_eq_true_iff, List.any_eq_true, List.mem_range, beq_iff_eq, or_assoc]
    refine ⟨fun k hk => structureFault_of_carNumber hheader hcount hheight hrange (firstBelow_of_isFirst hnumbers hk),
      fun hnone => ?_⟩
    have hnumber : ws.badCarNumber = none := firstBelow_of_none hnumbers hnone
    have hkinds (n : Nat) : decide (3 < ws.panelKind n) = true ↔ 3 < ws.panelKind n := decide_eq_true_iff
    refine ⟨fun n hn => structureFault_of_kind hheader hcount hheight hrange hnumber (firstBelow_of_isFirst hkinds hn),
      fun hnone => ?_⟩
    have hkind : ws.badKind = none := firstBelow_of_none hkinds hnone
    rw [structureFault_of_reference hheader hcount hheight hrange hnumber hkind]
    unfold Words.badReference
    refine ⟨fun n hn => ?_, fun hnone => ?_⟩
    · rw [firstBelow_of_isFirst (limit := ws.panelCount) badPanel_iff hn]
      rfl
    · rw [firstBelow_of_none (limit := ws.panelCount) badPanel_iff hnone]
      have hfunctions (k : Nat) : decide (3 < ws.hi (ws.sensesAt + k)) = true ↔ 3 < ws.hi (ws.listPos (ws.at 8) + k) := by
        rw [decide_eq_true_iff, sensesAt_eq hcounts.fits]
      refine ⟨fun k hk => ?_, fun hnone => ?_⟩
      · rw [firstBelow_of_isFirst hfunctions hk, Nat.add_comm 128]
        rfl
      · rw [firstBelow_of_none hfunctions hnone]
        rfl

end

section
/-! PROOFS. The show lists of a load (R22, R23, R172). -/

namespace Sys2Proof.Machine

/-! ### Entries -/

/-- An entry of a stored list whose own fields pass R22. -/
structure StoredEntry.passes (kind : PanelKind) (lc textCount : Nat) (e : StoredEntry) : Prop where
  mark : e.mark < lc
  period : e.period ∈ [1, 2, 4, 8, 16, 32, 64]
  phase : e.phase < e.period
  action : permitted kind textCount e.action = true

theorem entriesPass_cons (kind : PanelKind) (lc textCount previous : Nat) (e : StoredEntry) (rest : List StoredEntry) :
    entriesPass kind lc textCount previous (e :: rest) = true ↔
      (e.passes kind lc textCount ∧ previous ≤ e.mark) ∧ entriesPass kind lc textCount e.mark rest = true := by
  rw [entriesPass]
  simp only [Bool.and_eq_true, decide_eq_true_iff, List.contains_iff_mem]
  exact ⟨fun ⟨⟨⟨⟨⟨hmark, hprevious⟩, hperiod⟩, hphase⟩, haction⟩, hrest⟩ =>
      ⟨⟨⟨hmark, hperiod, hphase, haction⟩, hprevious⟩, hrest⟩,
    fun ⟨⟨⟨hmark, hperiod, hphase, haction⟩, hprevious⟩, hrest⟩ =>
      ⟨⟨⟨⟨⟨hmark, hprevious⟩, hperiod⟩, hphase⟩, haction⟩, hrest⟩⟩

/-- The entries pass one by one, no mark below the one before it. -/
theorem entriesPass_range' (kind : PanelKind) (lc textCount : Nat) (f : Nat → StoredEntry) (previous k n : Nat) :
    entriesPass kind lc textCount previous ((List.range' k n).map f) = true ↔
      ∀ i, k ≤ i → i < k + n →
        (f i).passes kind lc textCount ∧ (if i = k then previous else (f (i - 1)).mark) ≤ (f i).mark := by
  induction n generalizing previous k with
  | zero => exact ⟨fun _ i hk hi => absurd hi (Nat.not_lt.mpr hk), fun _ => rfl⟩
  | succ n ih =>
    rw [List.range'_succ, List.map_cons, entriesPass_cons, ih]
    constructor
    · rintro ⟨hfirst, hrest⟩ i hk hi
      rcases Nat.eq_or_lt_of_le hk with rfl | hlt
      · rw [if_pos rfl]
        exact hfirst
      · obtain ⟨hpass, hle⟩ := hrest i hlt (by omega)
        refine ⟨hpass, ?_⟩
        rw [if_neg (Nat.ne_of_gt hlt)]
        split at hle
        · next heq =>
          rw [heq] at hle ⊢
          exact hle
        · exact hle
    · intro h
      refine ⟨?_, fun i hk hi => ?_⟩
      · have hfirst := h k (Nat.le_refl k) (by omega)
        rw [if_pos rfl] at hfirst
        exact hfirst
      · obtain ⟨hpass, hle⟩ := h i (Nat.le_of_succ_le hk) (by omega)
        rw [if_neg (by omega)] at hle
        refine ⟨hpass, ?_⟩
        split
        · next heq =>
          rw [heq] at hle ⊢
          exact hle
        · exact hle

/-! ### Actions (12.4, R22) -/

/-- The action of a code up to 6. -/
def actionGiven (code argument : Nat) : Action :=
  if code = 0 then .page .floor else if code = 1 then .page .prompts else if code = 2 then .page .stops
  else if code = 3 then .page (.text argument) else if code = 4 then .page .notice
  else if code = 5 then .page .blank else .language (if argument % 2 = 0 then .primary else .secondary)

theorem actionOf_eq (code argument : Nat) :
    actionOf code argument = if 6 < code then none else some (actionGiven code argument) := by
  match code with
  | 0 | 1 | 2 | 3 | 4 | 5 | 6 => rfl
  | n + 7 => rw [if_pos (by omega)] <;> rfl

theorem permitted_iff (kind : PanelKind) (textCount code argument : Nat) :
    permitted kind textCount (actionOf code argument) = true ↔
      ¬ (6 < code ∨ (code = 1 ∧ kind ≠ .destination) ∨ (code = 2 ∧ kind ≠ .car) ∨ (code = 3 ∧ textCount ≤ argument)) := by
  match code with
  | 0 | 4 | 5 | 6 => simp [permitted, actionOf]
  | 1 | 2 | 3 => simp [permitted, actionOf]
  | n + 7 =>
    rw [actionOf_eq, if_pos (by omega)]
    exact ⟨nofun, fun h => absurd (.inl (by omega)) h⟩

/-! ### The list that a panel runs -/

theorem ownList_lantern (lc textCount : Nat) (named : Option (Option (List StoredEntry))) :
    ownList .lantern lc textCount named = if named = none ∨ named = some (some []) then some [] else none := by
  unfold ownList
  match named with
  | none => rfl
  | some none => rfl
  | some (some []) => rfl
  | some (some (e :: rest)) => rfl

section other
variable {kind : PanelKind} (hk : kind ≠ .lantern) (lc textCount : Nat)
include hk

theorem ownList_none : ownList kind lc textCount none = none := by
  cases kind with
  | lantern => exact absurd rfl hk
  | lobby | destination | car => rfl

theorem ownList_beyond : ownList kind lc textCount (some none) = none := by
  cases kind with
  | lantern => exact absurd rfl hk
  | lobby | destination | car => rfl

theorem ownList_stored (l : List StoredEntry) : ownList kind lc textCount (some (some l)) =
    if l ≠ [] ∧ entriesPass kind lc textCount 0 l = true then some (l.map StoredEntry.toShow) else none := by
  cases l with
  | nil =>
    cases kind with
    | lantern => exact absurd rfl hk
    | lobby | destination | car => rfl
  | cons e rest =>
    simp only [ne_eq, reduceCtorEq, not_false_eq_true, true_and]
    cases kind with
    | lantern => exact absurd rfl hk
    | lobby | destination | car => rfl

end other

section named
variable {ws : Words} (hcounts : ws.countsPass) (n : Nat)
include hcounts

theorem namedList_eq : ws.namedList n = if ws.panelList n = 255 then none
    else some (if ws.panelList n < ws.at 8 then some (ws.storedList (ws.listPos (ws.panelList n))) else none) := by
  unfold Words.namedList
  rw [listStarts_eq hcounts.fits, List.getElem?_map]
  split
  · rfl
  · split
    · next hlt => rw [List.getElem?_range hlt] <;> rfl
    · next hge => rw [List.getElem?_eq_none (by rw [List.length_range]; exact Nat.le_of_not_lt hge)] <;> rfl

end named

/-- The entry `i` of the stored list whose count word stands at `pos`. -/
def Words.stored (ws : Words) (pos i : Nat) : StoredEntry :=
  { mark := ws.at (pos + 1 + 3 * i), period := ws.hi (pos + 2 + 3 * i), phase := ws.lo (pos + 2 + 3 * i),
    action := actionOf (ws.hi (pos + 3 + 3 * i)) (ws.lo (pos + 3 + 3 * i)) }

theorem storedList_eq (ws : Words) (pos : Nat) : ws.storedList pos = (List.range (ws.at pos)).map (ws.stored pos) := by
  refine List.map_congr_left fun i _ => ?_
  unfold Words.stored
  rw [show pos + 2 + 3 * i = pos + 1 + 3 * i + 1 by omega, show pos + 3 + 3 * i = pos + 1 + 3 * i + 2 by omega]

/-- An entry that fails R22. -/
def Words.entryFaulted (ws : Words) (kind : PanelKind) (pos i : Nat) : Prop :=
  correctLc (ws.at 3) ≤ ws.at (pos + 1 + 3 * i) ∨
  (i ≠ 0 ∧ ws.at (pos + 1 + 3 * i) < ws.at (pos + 1 + 3 * (i - 1))) ∨
  ws.hi (pos + 2 + 3 * i) ∉ [1, 2, 4, 8, 16, 32, 64] ∨ ws.hi (pos + 2 + 3 * i) ≤ ws.lo (pos + 2 + 3 * i) ∨
  6 < ws.hi (pos + 3 + 3 * i) ∨ (ws.hi (pos + 3 + 3 * i) = 1 ∧ kind ≠ .destination) ∨
  (ws.hi (pos + 3 + 3 * i) = 2 ∧ kind ≠ .car) ∨ (ws.hi (pos + 3 + 3 * i) = 3 ∧ ws.at 9 ≤ ws.lo (pos + 3 + 3 * i))

/-- The entries of a stored list pass exactly when none of them fails. -/
theorem storedList_passes (ws : Words) (kind : PanelKind) (pos : Nat) :
    entriesPass kind (correctLc (ws.at 3)) (ws.at 9) 0 (ws.storedList pos) = true ↔
      ∀ i, i < ws.at pos → ¬ ws.entryFaulted kind pos i := by
  rw [storedList_eq, List.range_eq_range', entriesPass_range']
  refine forall_congr' fun i => ?_
  rw [Nat.zero_add]
  refine ⟨fun h hi hfault => ?_, fun h _ hi => ?_⟩
  · obtain ⟨⟨hmark, hperiod, hphase, haction⟩, horder⟩ := h (Nat.zero_le i) hi
    have hcode := (permitted_iff ..).mp haction
    rcases hfault with h1 | ⟨hne, h2⟩ | h3 | h4 | h5
    · exact Nat.not_le.mpr hmark h1
    · rw [if_neg hne] at horder
      exact Nat.not_le.mpr h2 horder
    · exact h3 hperiod
    · exact Nat.not_le.mpr hphase h4
    · exact hcode h5
  · obtain ⟨h1, h2, h3, h4, h5⟩ : _ ∧ _ ∧ _ ∧ _ ∧ _ := by
      simpa only [Words.entryFaulted, not_or (p := _ ≤ _), not_or (p := _ ∧ _ < _), not_or (p := _ ∉ _)] using h hi
    refine ⟨⟨Nat.lt_of_not_le h1, Decidable.not_not.mp h3, Nat.lt_of_not_le h4, (permitted_iff ..).mpr h5⟩, ?_⟩
    split
    · exact Nat.zero_le _
    · next hne => exact Nat.le_of_not_lt fun hlt => h2 ⟨hne, hlt⟩

theorem toShow_stored (ws : Words) (pos : Nat) {i : Nat} (h : ¬ 6 < ws.hi (pos + 3 + 3 * i)) : (ws.stored pos i).toShow =
    { mark := ws.at (pos + 1 + 3 * i), period := ws.hi (pos + 2 + 3 * i), phase := ws.lo (pos + 2 + 3 * i),
      action := actionGiven (ws.hi (pos + 3 + 3 * i)) (ws.lo (pos + 3 + 3 * i)) } := by
  unfold StoredEntry.toShow Words.stored
  simp only [actionOf_eq, if_neg h, Option.getD_some]

/-- The show list of a panel row, if it is not faulted. -/
def Words.ownList (ws : Words) (n : Nat) : Option (List ShowEntry) :=
  Sys2Proof.Machine.ownList (kindOf (ws.panelKind n)) (correctLc (ws.at 3)) ws.textCount (ws.namedList n)

theorem panel_listFaulted (ws : Words) (n : Nat) : (ws.panel n).listFaulted = (ws.ownList n).isNone := rfl

theorem panel_list (ws : Words) (n : Nat) :
    (ws.panel n).list = (ws.ownList n).getD (defaultList (kindOf (ws.panelKind n))) := rfl

/-- A panel row whose show list is faulted (R22). -/
def Words.listFaulted (ws : Words) (n : Nat) : Prop :=
  let kind := kindOf (ws.panelKind n)
  let named := ws.panelList n
  let size := ws.at (ws.listPos named)
  if kind = .lantern then named ≠ 255 ∧ (ws.at 8 ≤ named ∨ size ≠ 0)
  else named = 255 ∨ ws.at 8 ≤ named ∨ size = 0 ∨ ∃ i, i < size ∧ ws.entryFaulted kind (ws.listPos named) i

/-- The stored list of a panel row, as the panel runs it. -/
def Words.storedShow (ws : Words) (n : Nat) : List ShowEntry :=
  if kindOf (ws.panelKind n) = .lantern then []
  else (ws.storedList (ws.listPos (ws.panelList n))).map StoredEntry.toShow

theorem storedList_eq_nil_iff (ws : Words) (pos : Nat) : ws.storedList pos = [] ↔ ws.at pos = 0 := by
  rw [storedList_eq, List.map_eq_nil_iff, List.range_eq_nil]

section own
variable {ws : Words} (hcounts : ws.countsPass) {n : Nat}
include hcounts

theorem ownList_of_lantern (hk : kindOf (ws.panelKind n) = .lantern) :
    (ws.listFaulted n → ws.ownList n = none) ∧ (¬ ws.listFaulted n → ws.ownList n = some (ws.storedShow n)) := by
  have hnamed : (ws.namedList n = none ∨ ws.namedList n = some (some [])) ↔ ¬ ws.listFaulted n := by
    unfold Words.listFaulted
    rw [namedList_eq hcounts n, if_pos hk]
    by_cases h255 : ws.panelList n = 255
    · simp [h255]
    · by_cases hlt : ws.panelList n < ws.at 8
      · simp [h255, hlt, storedList_eq_nil_iff, Nat.not_le.mpr hlt]
      · simp [h255, hlt, Nat.le_of_not_lt hlt]
  unfold Words.ownList Words.storedShow
  rw [hk, ownList_lantern, if_pos rfl]
  exact ⟨fun hf => if_neg fun h => hnamed.mp h hf, fun hf => if_pos (hnamed.mpr hf)⟩

theorem ownList_of_other (hk : kindOf (ws.panelKind n) ≠ .lantern) :
    (ws.listFaulted n → ws.ownList n = none) ∧ (¬ ws.listFaulted n → ws.ownList n = some (ws.storedShow n)) := by
  unfold Words.listFaulted Words.ownList Words.storedShow
  rw [namedList_eq hcounts n, if_neg hk, if_neg hk]
  by_cases h255 : ws.panelList n = 255
  · rw [if_pos h255]
    exact ⟨fun _ => ownList_none hk _ _, fun h => absurd (.inl h255) h⟩
  rw [if_neg h255]
  by_cases hlt : ws.panelList n < ws.at 8
  · rw [if_pos hlt, ownList_stored hk]
    have hpasses : (ws.storedList (ws.listPos (ws.panelList n)) ≠ [] ∧ entriesPass (kindOf (ws.panelKind n))
        (correctLc (ws.at 3)) ws.textCount 0 (ws.storedList (ws.listPos (ws.panelList n))) = true) ↔
        ¬ (ws.panelList n = 255 ∨ ws.at 8 ≤ ws.panelList n ∨ ws.at (ws.listPos (ws.panelList n)) = 0 ∨
          ∃ i, i < ws.at (ws.listPos (ws.panelList n)) ∧
            ws.entryFaulted (kindOf (ws.panelKind n)) (ws.listPos (ws.panelList n)) i) := by
      rw [not_or, not_or, not_or, not_exists]
      simp only [h255, not_false_eq_true, Nat.not_le.mpr hlt, true_and, not_and]
      exact and_congr (not_congr (storedList_eq_nil_iff ws _)) (storedList_passes ..)
    exact ⟨fun hf => if_neg fun h => hpasses.mp h hf, fun hf => if_pos (hpasses.mpr hf)⟩
  · rw [if_neg hlt]
    exact ⟨fun _ => ownList_beyond hk _ _, fun h => absurd (.inr (.inl (Nat.le_of_not_lt hlt))) h⟩

theorem ownList_eq : (ws.listFaulted n → ws.ownList n = none) ∧
    (¬ ws.listFaulted n → ws.ownList n = some (ws.storedShow n)) :=
  if hk : kindOf (ws.panelKind n) = .lantern then ownList_of_lantern hcounts hk else ownList_of_other hcounts hk

end own

/-- The entries of a list that is not faulted, with their actions. -/
theorem storedShow_of_passes {ws : Words} {n : Nat} (hf : ¬ ws.listFaulted n)
    (hk : kindOf (ws.panelKind n) ≠ .lantern) : ws.storedShow n =
    (List.range (ws.at (ws.listPos (ws.panelList n)))).map (fun i =>
      { mark := ws.at (ws.listPos (ws.panelList n) + 1 + 3 * i), period := ws.hi (ws.listPos (ws.panelList n) + 2 + 3 * i),
        phase := ws.lo (ws.listPos (ws.panelList n) + 2 + 3 * i),
        action := actionGiven (ws.hi (ws.listPos (ws.panelList n) + 3 + 3 * i))
          (ws.lo (ws.listPos (ws.panelList n) + 3 + 3 * i)) }) := by
  unfold Words.storedShow
  rw [if_neg hk, storedList_eq, List.map_map]
  refine List.map_congr_left fun i hi => toShow_stored ws _ fun hcode => hf ?_
  unfold Words.listFaulted
  rw [if_neg hk]
  exact .inr (.inr (.inr ⟨i, List.mem_range.mp hi, .inr (.inr (.inr (.inr (.inl hcode))))⟩))

end Sys2Proof.Machine

open Sys2Proof Sys2Proof.Machine

/-- Settles O7: the stored list that a panel names is examined entry by entry, and none of the row when it fails. -/
theorem showListsAreChecked : Obligations.ShowListsAreChecked := by
  unfold Obligations.ShowListsAreChecked
  intro ws n hcounts kind named pos size mark period phase code argument entryFaulted action faulted only
  obtain ⟨hfaulted, hpasses⟩ := ownList_eq hcounts (n := n)
  have hiff : faulted ↔ ws.listFaulted n := Iff.rfl
  rw [panel_listFaulted, panel_list, hiff]
  refine ⟨⟨fun h => ?_, fun h => ?_⟩, fun h => ?_, fun h => ?_⟩
  · by_contra hnot
    rw [hpasses hnot] at h
    exact nomatch h
  · rw [hfaulted h]
    rfl
  · rw [hfaulted h]
    exact (rfl : defaultList kind = _)
  · rw [hpasses h, Option.getD_some]
    split
    · next hk => exact if_pos hk
    · next hk => exact storedShow_of_passes h hk

end

section
/-! PROOFS. The load's refusals and the corrected copy (R19 to R21, R172). -/

namespace Sys2Proof.Machine

/-! ### What a structure that passes holds -/

theorem of_firstBelow_none {limit : Nat} {p : Nat → Bool} (h : firstBelow limit p = none) {i : Nat} (hi : i < limit) :
    p i = false := by
  have hnot := List.find?_range_eq_none.mp h i hi
  rwa [Bool.not_eq_true'] at hnot

section passed
variable {ws : Words} (h : ws.structureFault = none)
include h

theorem badHeader_of_passes : ws.badHeader = false := by
  refine Bool.eq_false_iff.mpr fun hbad => ?_
  exact nomatch (structureFault_of_header hbad).symm.trans h

theorem badCount_of_passes : ws.badCount = none := by
  cases hbad : ws.badCount with
  | none => rfl
  | some r => exact nomatch (structureFault_of_count (badHeader_of_passes h) hbad).symm.trans h

theorem badHeight_of_passes : ws.badHeight = none := by
  cases hbad : ws.badHeight with
  | none => rfl
  | some r => exact nomatch (structureFault_of_height (badHeader_of_passes h) (badCount_of_passes h) hbad).symm.trans h

theorem badRange_of_passes : ws.badRange = none := by
  cases hbad : ws.badRange with
  | none => rfl
  | some r =>
    exact nomatch (structureFault_of_range (badHeader_of_passes h) (badCount_of_passes h) (badHeight_of_passes h)
      hbad).symm.trans h

theorem badCarNumber_of_passes : ws.badCarNumber = none := by
  cases hbad : ws.badCarNumber with
  | none => rfl
  | some r =>
    exact nomatch (structureFault_of_carNumber (badHeader_of_passes h) (badCount_of_passes h) (badHeight_of_passes h)
      (badRange_of_passes h) hbad).symm.trans h

/-- The counts of a structure that passes. -/
theorem countsPass_of_passes : ws.countsPass := by
  have hcount := badCount_of_passes h
  have hlimits : ¬ ws.overLimits := fun hover => nomatch (badCount_of_overLimits hover).symm.trans hcount
  have hlists : ∀ k, k < ws.at 8 → ws.listPasses (ws.at 0) k := by
    by_contra hnot
    have hex : ∃ k, k < ws.at 8 ∧ ¬ ws.listPasses (ws.at 0) k := by
      simpa only [not_forall, exists_prop] using hnot
    classical
    obtain ⟨k, ⟨hlt, hfails⟩, hbefore⟩ : ∃ k, (k < ws.at 8 ∧ ¬ ws.listPasses (ws.at 0) k) ∧
        ∀ j, j < k → ¬ (j < ws.at 8 ∧ ¬ ws.listPasses (ws.at 0) j) :=
      ⟨Nat.find hex, Nat.find_spec hex, fun j => Nat.find_min hex⟩
    have hfirst : isFirst (ws.at 8) (fun k => ws.at 0 ≤ ws.listPos k + 1 ∨ 16 < ws.at (ws.listPos k)) k := by
      refine ⟨hlt, ?_, fun j hj => ?_⟩
      · unfold Words.listPasses at hfails
        omega
      · have hpass := hbefore j hj
        unfold Words.listPasses at hpass
        omega
    exact nomatch (badCount_of_list hlimits hfirst).symm.trans hcount
  have hroom : ¬ (96 < ws.at 9 ∨ ws.at 0 < ws.listPos (ws.at 8) + 4 + 25 * ws.at 9 + 1) := fun hover =>
    nomatch ((badCount_of_lists hlimits hlists).trans (if_pos hover)).symm.trans hcount
  unfold Words.overLimits at hlimits
  exact ⟨by omega, by omega, by omega, by omega, hlists, by omega, by omega⟩

theorem zone_of_passes : ws.at 4 ≤ 7 := by
  have hheader := badHeader_of_passes h
  by_contra hover
  exact nomatch (badHeader_iff.mpr (.inr (Nat.lt_of_not_le hover))).symm.trans hheader

theorem car_of_passes {k : Nat} (hk : k < ws.at 6) : 1 ≤ ws.carNumber k ∧ ws.carNumber k ≤ 32 ∧
    ws.carLo k < ws.carHi k ∧ ws.carStep k ≤ 2 ∧ ws.carHi k + ws.carStep k < ws.at 5 := by
  have hrange := of_firstBelow_none (badRange_of_passes h) hk
  have hnumber := of_firstBelow_none (badCarNumber_of_passes h) hk
  simp only [Bool.or_eq_false_iff, decide_eq_false_iff_not] at hrange hnumber
  have hlandings : ws.landingCount = ws.at 5 := rfl
  omega

end passed

/-! ### Refusals -/

/-- The structure gives reasons of its own. -/
theorem structureFault_reason {ws : Words} {reason : FaultReason} {row : Nat}
    (h : ws.structureFault = some (reason, row)) : reason ≠ .length ∧ reason ≠ .check := by
  unfold Words.structureFault at h
  repeat' split at h
  · cases h; exact ⟨nofun, nofun⟩
  · cases h; exact ⟨nofun, nofun⟩
  · cases h; exact ⟨nofun, nofun⟩
  · cases h; exact ⟨nofun, nofun⟩
  · cases h; exact ⟨nofun, nofun⟩
  · cases h; exact ⟨nofun, nofun⟩
  · obtain ⟨r, -, hr⟩ := Option.map_eq_some_iff.mp h
    cases hr
    exact ⟨nofun, nofun⟩

theorem readWords_sum (memory : List Word16) (length : Nat) : (readWords memory length).sum =
    ((memory.take length).map (·.toNat)).sum + 65535 * (length - memory.length) := by
  unfold readWords
  rw [List.sum_append, List.sum_replicate, smul_eq_mul, Nat.mul_comm]

/-- A good load has a good length, and its structure passes. -/
theorem of_load_good {memory : List Word16} {copy : Image} {rate : BitRate} (h : load memory = .good copy rate) :
    (readWords memory (imageLength memory)).structureFault = none ∧
      copy = (readWords memory (imageLength memory)).image := by
  by_cases hlength : imageLength memory < 15 ∨ 8192 < imageLength memory
  · exact nomatch (if_pos hlength : load memory = .refused .length 255 .kbit125).symm.trans h
  · obtain ⟨hleast, hmost⟩ := not_or.mp hlength
    rw [load_of_length (Nat.le_of_not_lt hleast) (Nat.le_of_not_lt hmost)] at h
    split at h
    · exact nomatch h
    · split at h
      · exact nomatch h
      · next hnone =>
        cases h
        exact ⟨hnone, rfl⟩

/-! ### Characters and lists of the copy -/

theorem untilZero_eq (l : List Byte) : untilZero l = l.takeWhile (fun c => c ≠ 0) := by
  induction l with
  | nil => rfl
  | cons c l ih =>
    rw [untilZero, ih]
    by_cases hc : c = 0
    · rw [if_pos hc, List.takeWhile_cons_of_neg (by simpa using hc)]
    · rw [if_neg hc, List.takeWhile_cons_of_pos (by simpa using hc)]

theorem firstAppearances_cons (x : Nat) (rest : List Nat) :
    firstAppearances (x :: rest) = x :: (firstAppearances rest).filter (fun y => y != x) := rfl

theorem firstAppearances_filter (p : Nat → Bool) (l : List Nat) :
    firstAppearances (l.filter p) = (firstAppearances l).filter p := by
  induction l with
  | nil => rfl
  | cons x l ih =>
    rw [firstAppearances_cons]
    cases hp : p x with
    | true =>
      rw [List.filter_cons_of_pos hp, List.filter_cons_of_pos hp, firstAppearances_cons, ih, List.filter_filter,
        List.filter_filter]
      simp only [Bool.and_comm]
    | false =>
      rw [List.filter_cons_of_neg (by rw [hp]; exact Bool.false_ne_true),
        List.filter_cons_of_neg (by rw [hp]; exact Bool.false_ne_true), ih, List.filter_filter]
      refine List.filter_congr fun y _ => ?_
      cases hy : p y with
      | false => rfl
      | true =>
        have hne : y ≠ x := fun e => Bool.false_ne_true (hp.symm.trans (e ▸ hy))
        rw [Bool.true_and, bne_iff_ne.mpr hne]

theorem firstAppearances_eq (l : List Nat) : firstAppearances l = l.eraseDups := by
  match l with
  | [] => rfl
  | x :: rest =>
    have hrest := firstAppearances_eq (rest.filter (fun y => !y == x))
    rw [List.eraseDups_cons, ← hrest, firstAppearances_filter]
    rfl
termination_by l.length
decreasing_by exact Nat.lt_succ_of_le (List.length_filter_le ..)

theorem bitOf_eq (n k : Nat) : bitOf n k = n.testBit k := by
  unfold bitOf
  rw [Nat.testBit_eq_decide_div_mod_eq]
  rfl

end Sys2Proof.Machine
end

section
/-! PROOFS. The corrected copy, row by row, and when it is clamped (R20, R21, R172). -/

namespace Sys2Proof.Machine

/-! ### Rows of the copy -/

/-- The characters of a label before its first 0 character. -/
theorem untilZero_chars (ws : Words) (base count : Nat) : untilZero (ws.chars base count) =
    ((List.range count).map (fun k => BitVec.ofNat 8 (ws.byteFrom base k % 128))).takeWhile (fun c => c ≠ 0) :=
  untilZero_eq _

theorem carLabel_eq (ws : Words) (k : Nat) : ws.carLabel k =
    if untilZero (ws.chars (ws.carAt k + 1) 2) = [] then [0x20, 0x20] else untilZero (ws.chars (ws.carAt k + 1) 2) := by
  unfold Words.carLabel
  cases untilZero (ws.chars (ws.carAt k + 1) 2) <;> rfl

theorem kindOf_eq (n : Nat) : kindOf n = [PanelKind.lobby, .destination, .car].getD n .lantern := by
  match n with
  | 0 | 1 | 2 => rfl
  | n + 3 => rfl

theorem functionOf_eq (n : Nat) : functionOf n = [SenseFunction.wake, .test, .language].getD n .report := by
  match n with
  | 0 | 1 | 2 => rfl
  | n + 3 => rfl

theorem clampNat_zero (most x : Nat) : clampNat 0 most x = min most x := Nat.zero_max _

theorem correctAmax_eq (x : Nat) : correctAmax x = if x = 65535 then 1000 else min 2000 x := by
  unfold correctAmax
  rw [clampNat_zero]

theorem landing_eq (ws : Words) (i : Nat) : ws.landing i =
    { height := ws.height i,
      label := ((List.range 4).map (fun k => BitVec.ofNat 8 (ws.byteFrom (ws.landingAt i + 2) k % 128))).takeWhile
        (fun c => c ≠ 0),
      express := (ws.at (ws.landingAt i)).testBit 15, skyLobby := (ws.at (ws.landingAt i)).testBit 14,
      hidden := (ws.at (ws.landingAt i)).testBit 13 } := by
  unfold Words.landing
  simp only [untilZero_chars, bitOf_eq]

theorem car_eq (ws : Words) (k : Nat) :
    let label := ((List.range 2).map (fun j => BitVec.ofNat 8 (ws.byteFrom (ws.carAt k + 1) j % 128))).takeWhile
      (fun c => c ≠ 0)
    ws.car k = { number := ws.carNumber k, lo := ws.carLo k, hi := ws.carHi k, step := ws.carStep k,
                 label := if label = [] then [0x20, 0x20] else label } := by
  unfold Words.car
  rw [carLabel_eq, untilZero_chars]

theorem panel_eq (ws : Words) (n : Nat) : ws.panel n =
    { kind := [PanelKind.lobby, .destination, .car].getD (ws.panelKind n) .lantern,
      width := clampNat 8 24 (ws.hi (ws.panelAt n + 1)), lines := clampNat 1 4 (ws.lo (ws.panelAt n + 1)),
      landing := ws.panelLanding n, slot := ws.panelSlot n,
      deck := if ws.panelUpper n = true then .upper else .lower,
      cars := (ws.carList n).eraseDups,
      keypads := (List.range (min 4 (ws.lo (ws.panelAt n + 6)))).map
        (fun k => BitVec.ofNat 8 (ws.byteFrom (ws.panelAt n + 11) k)),
      timing := min 3 (ws.lo (ws.panelAt n)), list := (ws.panel n).list, listFaulted := (ws.panel n).listFaulted,
      warn := correctWarn (ws.hi (ws.panelAt n + 4)), awake := min 15 (ws.hi (ws.panelAt n + 5)),
      dim := min 15 (ws.lo (ws.panelAt n + 5)), mayDark := decide (ws.lo (ws.panelAt n + 4) % 2 = 1) } := by
  unfold Words.panel
  simp only [kindOf_eq, firstAppearances_eq, clampNat_zero, Words.keypads, List.map_map] <;> rfl

theorem sense_eq (ws : Words) (k : Nat) : ws.sense k =
    { function := [SenseFunction.wake, .test, .language].getD (ws.hi (ws.sensesAt + k)) .report,
      mask := BitVec.ofNat 8 (ws.lo (ws.sensesAt + k)) } := by
  unfold Words.sense
  rw [functionOf_eq] <;> rfl

/-! ### The ranges of 02 section 2.2 -/

theorem clampNat_bounds {least most : Nat} (h : least ≤ most) (x : Nat) :
    least ≤ clampNat least most x ∧ clampNat least most x ≤ most := by
  unfold clampNat
  omega

theorem timingRanges_ordered (k : Nat) : (timingRanges.getD k (0, 65535)).1 ≤ (timingRanges.getD k (0, 65535)).2 := by
  match k with
  | 0 | 1 | 2 | 3 | 4 | 5 | 6 => decide
  | k + 7 => exact Nat.zero_le _

theorem correctLc_bounds (x : Nat) : 1000 ≤ correctLc x ∧ correctLc x ≤ 4000 ∧ correctLc x % 250 = 0 := by
  have := clampNat_bounds (show 1000 ≤ 4000 by decide) x
  unfold correctLc
  omega

theorem correctAmax_le (x : Nat) : correctAmax x ≤ 2000 := by
  rw [correctAmax_eq]
  split <;> omega

theorem correctWarn_bounds (x : Nat) : 4 ≤ correctWarn x ∧ correctWarn x ≤ 12 := by
  unfold correctWarn
  split
  · decide
  · exact clampNat_bounds (by decide) x

theorem timing_bounds (ws : Words) (i : Nat) :
    250 ≤ (ws.timing i).scroll ∧ (ws.timing i).scroll ≤ 3000 ∧
    3000 ≤ (ws.timing i).promptHold ∧ (ws.timing i).promptHold ≤ 30000 ∧
    2000 ≤ (ws.timing i).boardingHold ∧ (ws.timing i).boardingHold ≤ 20000 ∧
    3000 ≤ (ws.timing i).reassignHold ∧ (ws.timing i).reassignHold ≤ 10000 ∧
    (ws.timing i).linger ≤ 5000 ∧ 30 ≤ (ws.timing i).quiet ∧ (ws.timing i).quiet ≤ 900 ∧
    50 ≤ (ws.timing i).lead ∧ (ws.timing i).lead ≤ 400 := by
  have hword (k : Nat) := clampNat_bounds (timingRanges_ordered k) (ws.at (15 + 7 * i + k))
  exact ⟨(hword 0).1, (hword 0).2, (hword 1).1, (hword 1).2, (hword 2).1, (hword 2).2, (hword 3).1, (hword 3).2,
    (hword 4).2, (hword 5).1, (hword 5).2, (hword 6).1, (hword 6).2⟩

theorem panel_bounds (ws : Words) (n : Nat) :
    8 ≤ (ws.panel n).width ∧ (ws.panel n).width ≤ 24 ∧ 1 ≤ (ws.panel n).lines ∧ (ws.panel n).lines ≤ 4 ∧
    (ws.panel n).timing ≤ 3 ∧ 4 ≤ (ws.panel n).warn ∧ (ws.panel n).warn ≤ 12 ∧ (ws.panel n).awake ≤ 15 ∧
    (ws.panel n).dim ≤ 15 := by
  have hwidth := clampNat_bounds (show 8 ≤ 24 by decide) (ws.hi (ws.panelAt n + 1))
  have hlines := clampNat_bounds (show 1 ≤ 4 by decide) (ws.lo (ws.panelAt n + 1))
  have hwarn := correctWarn_bounds (ws.hi (ws.panelAt n + 4))
  have hmost (most x : Nat) : clampNat 0 most x ≤ most := (clampNat_bounds (Nat.zero_le most) x).2
  exact ⟨hwidth.1, hwidth.2, hlines.1, hlines.2, hmost .., hwarn.1, hwarn.2, hmost .., hmost ..⟩

/-! ### Values that a correction changes -/

theorem corrected_clampNat {least most : Nat} (h : least ≤ most) (x : Nat) :
    corrected (x, clampNat least most x) = true ↔ x < least ∨ most < x := by
  unfold corrected clampNat
  rw [bne_iff_ne]
  omega

theorem corrected_clampNat_zero (most x : Nat) : corrected (x, clampNat 0 most x) = true ↔ most < x := by
  rw [corrected_clampNat (Nat.zero_le most)]
  omega

theorem corrected_min (most x : Nat) : corrected (x, min most x) = true ↔ most < x := by
  unfold corrected
  rw [bne_iff_ne]
  omega

theorem corrected_amax (x : Nat) : corrected (if x = 65535 then 1000 else x, correctAmax x) = true ↔
    x ≠ 65535 ∧ 2000 < x := by
  unfold corrected
  rw [bne_iff_ne, correctAmax_eq]
  split <;> omega

theorem corrected_warn (x : Nat) : corrected (if x = 0 then 10 else x, correctWarn x) = true ↔
    (x ≠ 0 ∧ x < 4) ∨ 12 < x := by
  unfold corrected correctWarn clampNat
  rw [bne_iff_ne]
  split <;> omega

theorem corrected_lc (x : Nat) : corrected (x, correctLc x) = true ↔ correctLc x ≠ x := by
  unfold corrected
  rw [bne_iff_ne]
  exact ne_comm

section clamped
variable (ws : Words)

theorem headerPairs_any : ws.headerPairs.any corrected = true ↔
    correctLc (ws.at 3) ≠ ws.at 3 ∨ (ws.at 10 ≠ 65535 ∧ 2000 < ws.at 10) ∨ 1500 < ws.at 11 ∨ 3000 < ws.at 12 ∨
      1000 < ws.at 13 ∨ 10000 < ws.at 14 := by
  simp only [Words.headerPairs, List.any_cons, List.any_nil, Bool.or_false, Bool.or_eq_true, corrected_lc, corrected_amax,
    corrected_clampNat_zero]

theorem timingRanges_getD {k : Nat} (hk : k < 7) (d : Nat × Nat) : timingRanges.getD k (0, 65535) = timingRanges.getD k d := by
  rw [List.getD_eq_getElem _ _ (by exact hk), List.getD_eq_getElem _ _ (by exact hk)]

theorem timings_any : (List.range 4).any (fun i => (List.range 7).any (fun k => corrected (ws.timingField i k))) = true ↔
    ∃ i k, i < 4 ∧ k < 7 ∧ (ws.at (15 + 7 * i + k) < (timingRanges.getD k (0, 0)).1 ∨
      (timingRanges.getD k (0, 0)).2 < ws.at (15 + 7 * i + k)) := by
  simp only [List.any_eq_true, List.mem_range]
  refine exists_congr fun i => ?_
  rw [← exists_and_left]
  refine exists_congr fun k => and_congr_right fun _ => and_congr_right fun hk => ?_
  rw [← timingRanges_getD hk]
  exact corrected_clampNat (timingRanges_ordered k) _

theorem panelPairs_any (n : Nat) : (ws.panelPairs n).any corrected = true ↔
    3 < ws.lo (ws.panelAt n) ∨ ws.hi (ws.panelAt n + 1) < 8 ∨ 24 < ws.hi (ws.panelAt n + 1) ∨
      ws.lo (ws.panelAt n + 1) < 1 ∨ 4 < ws.lo (ws.panelAt n + 1) ∨
      (ws.hi (ws.panelAt n + 4) ≠ 0 ∧ ws.hi (ws.panelAt n + 4) < 4) ∨ 12 < ws.hi (ws.panelAt n + 4) ∨
      15 < ws.hi (ws.panelAt n + 5) ∨ 15 < ws.lo (ws.panelAt n + 5) ∨
      ws.carListLimit n < ws.hi (ws.panelAt n + 6) ∨ 4 < ws.lo (ws.panelAt n + 6) := by
  simp only [Words.panelPairs, List.any_cons, List.any_nil, Bool.or_false, Bool.or_eq_true, corrected_clampNat_zero,
    corrected_clampNat (show 8 ≤ 24 by decide), corrected_clampNat (show 1 ≤ 4 by decide), corrected_warn, corrected_min,
    or_assoc]

theorem textPairs_any (k : Nat) : (ws.textPairs k).any corrected = true ↔
    24 < ws.hi (ws.textAt k) ∨ 24 < ws.lo (ws.textAt k) := by
  simp only [Words.textPairs, List.any_cons, List.any_nil, Bool.or_false, Bool.or_eq_true, corrected_min]

end clamped

end Sys2Proof.Machine

open Sys2Proof Sys2Proof.Machine

/-- Settles O5: a load that passes gives the image of its words, whose rows are corrected one by one. -/
theorem loadChecksThenCorrects : Obligations.LoadChecksThenCorrects := by
  unfold Obligations.LoadChecksThenCorrects
  refine ⟨⟨rfl, fun _ _ => rfl⟩, fun memory hlength => if_pos hlength, rfl, ?_, ?_, ?_, ?_⟩
  · intro memory hleast hmost hsum
    rw [← readWords_sum] at hsum
    exact ⟨_, (load_of_length hleast hmost).trans (if_pos hsum)⟩
  · intro memory hleast hmost hsum reason row rate hload
    rw [← readWords_sum] at hsum
    rw [load_of_length hleast hmost, if_neg (not_not_intro hsum)] at hload
    split at hload
    · next hfault =>
      cases hload
      exact structureFault_reason hfault
    · exact nomatch hload
  · intro memory copy rate hload
    obtain ⟨hpasses, rfl⟩ := of_load_good hload
    have hcounts := countsPass_of_passes hpasses
    have hlc := correctLc_bounds ((readWords memory (imageLength memory)).at 3)
    have hmost (most x : Nat) : clampNat 0 most x ≤ most := (clampNat_bounds (Nat.zero_le most) x).2
    have hrows {α : Type} (n : Nat) (f : Nat → α) : ((List.range n).map f).length = n :=
      (List.length_map f).trans List.length_range
    have hlandings : (readWords memory (imageLength memory)).image.landings.length =
      (readWords memory (imageLength memory)).at 5 := hrows ..
    refine ⟨hlc.1, hlc.2.1, hlc.2.2, correctAmax_le _, hmost .., hmost .., hmost .., hmost .., zone_of_passes hpasses,
      hrows .., hrows .., (hrows ..).trans_le hcounts.panels, (hrows ..).trans_le hcounts.cars,
      hlandings ▸ hcounts.landings.1, hlandings ▸ hcounts.landings.2, (hrows ..).trans_le hcounts.texts, ?_, ?_, ?_⟩
    · intro t ht
      obtain ⟨i, -, rfl⟩ := List.mem_map.mp ht
      exact timing_bounds _ i
    · intro p hp
      obtain ⟨n, -, rfl⟩ := List.mem_map.mp hp
      exact panel_bounds _ n
    · intro c hc
      obtain ⟨k, hk, rfl⟩ := List.mem_map.mp hc
      rw [hlandings]
      exact car_of_passes hpasses (List.mem_range.mp hk)
  · intro memory copy rate hload ws clamp chars label spans raw span timing most warn senses text
    obtain ⟨hpasses, rfl⟩ := of_load_good hload
    have hsenses : ws.sensesAt = senses := sensesAt_eq (countsPass_of_passes hpasses).fits
    have htext (k : Nat) : ws.textAt k = text k := congrArg (· + 4 + 25 * k) hsenses
    refine ⟨?_, ?_⟩
    · have hsense : (List.range 4).map ws.sense = (List.range 4).map (fun k => {
          function := [SenseFunction.wake, .test, .language].getD (ws.hi (senses + k)) .report,
          mask := BitVec.ofNat 8 (ws.lo (senses + k)) }) :=
        List.map_congr_left fun k _ => (sense_eq ws k).trans (by rw [hsenses])
      have htexts : (List.range (ws.at 9)).map ws.text = (List.range (ws.at 9)).map (fun k => {
          primary := chars (text k + 1) (min 24 (ws.hi (text k))),
          secondary := chars (text k + 13) (min 24 (ws.lo (text k))) }) :=
        List.map_congr_left fun k _ => by
          unfold Words.text
          rw [htext]
          rfl
      refine (Image.mk.injEq ..).mpr ⟨beq_eq_decide _ _, rfl, rfl, correctAmax_eq _, clampNat_zero .., clampNat_zero ..,
        clampNat_zero .., clampNat_zero .., rfl, List.map_congr_left fun i _ => landing_eq ws i,
        List.map_congr_left fun k _ => car_eq ws k, List.map_congr_left fun n _ => panel_eq ws n, hsense, htexts, rfl⟩
    · show ws.anyCorrected = true ↔ _
      unfold Words.anyCorrected
      rw [Bool.or_eq_true, Bool.or_eq_true, Bool.or_eq_true, headerPairs_any, timings_any, List.any_eq_true,
        List.any_eq_true]
      simp only [List.mem_range, panelPairs_any, textPairs_any, htext, or_assoc]
      rfl

end

section
/-! PROOFS. Lines, texts and the pages that the service level adds (R140, R144, R146). -/

namespace Sys2Proof.Machine

/-! ### Lines and texts (R140) -/

theorem fitLine_eq (width : Nat) (line : Chars) : fitLine width line = drawnLine width line := rfl

theorem fitLine_length {width : Nat} (h : 1 ≤ width) (line : Chars) : (fitLine width line).length = width := by
  unfold fitLine
  split
  · next hle => rw [List.length_append, List.length_replicate, Nat.add_sub_cancel' hle]
  · rw [List.length_append, List.length_take, List.length_singleton]
    omega

/-- A text on lines: each but the last takes a piece of the panel's width. -/
theorem setText_eq (width lines : Nat) (text : Chars) : setText width lines text = drawnText width lines text := by
  induction lines generalizing text with
  | zero => rfl
  | succ n ih =>
    cases n with
    | zero =>
      unfold drawnText
      rw [setText, List.range_one, List.map_singleton, if_neg (by decide), Nat.zero_mul, List.drop_zero, fitLine_eq]
    | succ n =>
      rw [setText, ih]
      unfold drawnText
      rw [List.range_succ_eq_map (n := n + 1), List.map_cons, List.map_map]
      refine congrArg₂ List.cons ?_ (List.map_congr_left fun i _ => ?_)
      · rw [if_pos (by omega), Nat.zero_mul, List.drop_zero, fitLine_eq]
      · rw [Function.comp_apply, List.drop_drop, Nat.succ_eq_add_one, Nat.succ_mul, Nat.add_comm width]
        refine congrArg (drawnLine width) (if_congr ?_ rfl rfl)
        omega

/-- A page of a panel: exactly its lines, each of exactly its width. -/
structure PageFills (page : Content) (width lines : Nat) : Prop where
  lines : page.length = lines
  width : ∀ line ∈ page, line.length = width

section pages
variable {width lines : Nat}

theorem setText_fills (h : 1 ≤ width) (text : Chars) : PageFills (setText width lines text) width lines := by
  rw [setText_eq]
  unfold drawnText
  refine ⟨by rw [List.length_map, List.length_range], fun line hline => ?_⟩
  obtain ⟨i, -, rfl⟩ := List.mem_map.mp hline
  exact fitLine_length h _

theorem solidLines_fills (b : Byte) : PageFills (solidLines width lines b) width lines := by
  refine ⟨List.length_replicate, fun line hline => ?_⟩
  rw [List.eq_of_mem_replicate hline, List.length_replicate]

theorem replaceLast_fills {page : Content} (h : PageFills page width lines) (hlines : 1 ≤ lines) {line : Chars}
    (hline : line.length = width) : PageFills (replaceLast page line) width lines := by
  unfold replaceLast
  refine ⟨?_, fun x hx => ?_⟩
  · rw [List.length_append, List.length_dropLast, List.length_singleton, h.lines, Nat.sub_add_cancel hlines]
  · rcases List.mem_append.mp hx with hx | hx
    · exact h.width x (List.mem_of_mem_dropLast hx)
    · rw [List.mem_singleton.mp hx, hline]

/-- Lines of the panel's width, filled up with spaces. -/
theorem fillLines_fills {page : Content} (h : ∀ line ∈ page, line.length = width) :
    PageFills (fillLines width lines page) width lines := by
  have hblank := solidLines_fills (width := width) (lines := lines) glyphSpace
  unfold fillLines blankLines
  refine ⟨?_, fun line hline => ?_⟩
  · rw [List.length_take, List.length_append, hblank.lines]
    omega
  · exact (List.mem_append.mp (List.mem_of_mem_take hline)).elim (h line) (hblank.width line)

theorem layCells_fills (h : 1 ≤ width) (k : Nat) (cells : List Chars) : PageFills (layCells width k lines cells) width lines := by
  induction lines generalizing cells with
  | zero => exact ⟨rfl, nofun⟩
  | succ n ih =>
    obtain ⟨hlength, hwidth⟩ := ih (cells.drop k)
    refine ⟨congrArg (· + 1) hlength, fun line hline => ?_⟩
    rcases List.mem_cons.mp hline with rfl | hrest
    · exact fitLine_length h _
    · exact hwidth line hrest

end pages

section compose
variable (s : State) (n : Nat) {row : PanelRow}

theorem floorPage_fills (h : 1 ≤ row.width) : PageFills (s.floorPage row) row.width row.lines := layCells_fills h _ _

theorem promptLine_length (h : 1 ≤ row.width) (p : Prompt) : (s.promptLine row p).length = row.width := by
  unfold State.promptLine
  split
  · exact fitLine_length h _
  · rw [List.length_map]
    exact fitLine_length h _
  · exact fitLine_length h _

theorem itemPage_fills {items : List Chars} (h : ∀ line ∈ items, line.length = row.width) (index : Nat) :
    PageFills (s.itemPage row items index) row.width row.lines :=
  fillLines_fills fun line hline => h line (List.mem_of_mem_drop (List.mem_of_mem_take hline))

theorem lanternPage_fills (h : 1 ≤ row.width) : PageFills (s.lanternPage n row) row.width row.lines := by
  refine fillLines_fills fun line hline => ?_
  rw [List.mem_singleton.mp hline]
  exact fitLine_length h _

theorem basePage_notice {k : Nat} (h : s.mode.noticeText = some k) (index : Nat) :
    s.basePage n row .notice index = setText row.width row.lines (s.textOf k (s.langInUse n)) := by
  simp only [State.basePage, h]

theorem basePage_noNotice (h : s.mode.noticeText = none) (index : Nat) :
    s.basePage n row .notice index = blankLines row.width row.lines := by
  simp only [State.basePage, h]

theorem basePage_fills (h : 1 ≤ row.width) (page : Page) (index : Nat) :
    PageFills (s.basePage n row page index) row.width row.lines := by
  cases page with
  | floor => exact floorPage_fills s h
  | prompts =>
    refine itemPage_fills s (fun line hline => ?_) index
    obtain ⟨p, -, rfl⟩ := List.mem_map.mp hline
    exact promptLine_length s h p
  | stops =>
    refine itemPage_fills s (fun line hline => ?_) index
    obtain ⟨l, -, rfl⟩ := List.mem_map.mp hline
    exact fitLine_length h _
  | text k => exact setText_fills h _
  | notice =>
    cases hn : s.mode.noticeText with
    | some k =>
      rw [basePage_notice s n hn]
      exact setText_fills h _
    | none =>
      rw [basePage_noNotice s n hn]
      exact solidLines_fills _
  | blank => exact solidLines_fills _
  | lantern => exact lanternPage_fills s n h

theorem evacLines_fills {width lines : Nat} (h : 1 ≤ width) : PageFills (s.evacLines n width lines) width lines := by
  unfold State.evacLines
  split
  · exact setText_fills h _
  · exact solidLines_fills _

theorem evacLine_length {width : Nat} (h : 1 ≤ width) : (s.evacLines n width 1).flatten.length = width := by
  obtain ⟨hlines, hwidth⟩ := evacLines_fills s n h (lines := 1)
  obtain ⟨line, hline⟩ := List.length_eq_one_iff.mp hlines
  rw [hline] at hwidth ⊢
  rw [List.flatten_singleton]
  exact hwidth line List.mem_cons_self

theorem noticeOneLine_length {width : Nat} (h : 1 ≤ width) : (s.noticeOneLine n width).length = width := by
  unfold State.noticeOneLine
  split
  · exact fitLine_length h _
  · exact fitLine_length h _

/-! ### The page with the text of the service level (R146) -/

section level
variable {s}

theorem composeFor_lantern (hk : row.kind = .lantern) (page : Page) (index : Nat) :
    s.composeFor n row page index = s.lanternPage n row := by
  unfold State.composeFor
  rw [hk]

theorem composeFor_below (hk : row.kind ≠ .lantern) (hl : s.mode.level = .normal ∨ s.mode.level = .night) (page : Page)
    (index : Nat) : s.composeFor n row page index = s.basePage n row page index := by
  unfold State.composeFor
  cases hrow : row.kind with
  | lantern => exact absurd hrow hk
  | lobby | destination | car =>
    rcases hl with hl | hl
    · rw [hl]
    · rw [hl]

theorem composeFor_notice (hk : row.kind ≠ .lantern) (hl : s.mode.level = .notice) (page : Page) (index : Nat) :
    s.composeFor n row page index =
      if 2 ≤ row.lines then
        if page = .notice then s.basePage n row page index
        else replaceLast (s.basePage n row page index) (s.noticeOneLine n row.width)
      else if page.givesWay then [s.noticeOneLine n row.width]
      else s.basePage n row page index := by
  unfold State.composeFor
  rw [hl]
  cases hrow : row.kind with
  | lantern => exact absurd hrow hk
  | lobby | destination | car => rfl

theorem composeFor_evacuate (hk : row.kind ≠ .lantern) (hl : s.mode.level = .evacuate) (page : Page) (index : Nat) :
    s.composeFor n row page index =
      if row.kind = .car then replaceLast (s.floorPage row) (s.evacLines n row.width 1).flatten
      else s.evacLines n row.width row.lines := by
  unfold State.composeFor
  rw [hl]
  cases hrow : row.kind with
  | lantern => exact absurd hrow hk
  | lobby | destination | car => rfl

theorem compose_of_row (hrow : s.row n = some row) (page : Page) (index : Nat) :
    s.compose n page index = s.composeFor n row page index := by
  unfold State.compose
  rw [hrow]

theorem composeFor_fills (hlines : 1 ≤ row.lines) (hwidth : 1 ≤ row.width) (page : Page) (index : Nat) :
    PageFills (s.composeFor n row page index) row.width row.lines := by
  have hbase (p : Page) : PageFills (s.basePage n row p index) row.width row.lines := basePage_fills s n hwidth p index
  by_cases hk : row.kind = .lantern
  · rw [composeFor_lantern n hk]
    exact lanternPage_fills s n hwidth
  cases hl : s.mode.level with
  | normal =>
    rw [composeFor_below n hk (.inl hl)]
    exact hbase page
  | night =>
    rw [composeFor_below n hk (.inr hl)]
    exact hbase page
  | notice =>
    rw [composeFor_notice n hk hl]
    split
    · split
      · exact hbase page
      · exact replaceLast_fills (hbase page) hlines (noticeOneLine_length s n hwidth)
    · split
      · have hone : row.lines = 1 := by omega
        rw [hone]
        exact ⟨rfl, fun line hline => List.mem_singleton.mp hline ▸ noticeOneLine_length s n hwidth⟩
      · exact hbase page
  | evacuate =>
    rw [composeFor_evacuate n hk hl]
    split
    · exact replaceLast_fills (floorPage_fills s hwidth) hlines (evacLine_length s n hwidth)
    · exact evacLines_fills s n hwidth

theorem textOf_eq (k : Nat) (lang : Lang) : s.textOf k lang = s.loader.copy.textIn k lang := by
  unfold State.textOf Image.textIn
  cases s.loader.copy.texts[k]? with
  | none => rfl
  | some t =>
    cases lang with
    | primary => exact (if_neg fun h => nomatch h.1).symm
    | secondary =>
      by_cases ht : t.secondary = []
      · exact (if_pos ht).trans (if_neg fun h => h.2 ht).symm
      · exact (if_neg ht).trans (if_pos ⟨rfl, ht⟩).symm

/-- The text of the copy that a panel shows. -/
theorem textOf_langInUse {sc : Schedule} (hs : s.schedules[n]? = some sc) (k : Nat) :
    s.textOf k (s.langInUse n) = s.loader.copy.textIn k (if s.pin n then .secondary else sc.lang) := by
  have hlang : s.langInUse n = if s.pin n then .secondary else sc.lang := by
    unfold State.langInUse State.schedule
    rw [hs]
  rw [hlang, textOf_eq]

theorem evacLines_some {k : Nat} (h : s.mode.evacText = some k) (width lines : Nat) :
    s.evacLines n width lines = drawnText width lines (s.textOf k (s.langInUse n)) := by
  unfold State.evacLines
  rw [h, ← setText_eq]

theorem evacLines_none (h : s.mode.evacText = none) (width lines : Nat) :
    s.evacLines n width lines = List.replicate lines (List.replicate width 0x08#8) := by
  unfold State.evacLines
  rw [h] <;> rfl

/-- The evacuation text on the last line of a CAR panel. -/
theorem evacLine_some {k : Nat} (h : s.mode.evacText = some k) (width : Nat) :
    (s.evacLines n width 1).flatten = drawnLine width (s.textOf k (s.langInUse n)) := by
  unfold State.evacLines
  rw [h]
  exact List.flatten_singleton

theorem evacLine_none (h : s.mode.evacText = none) (width : Nat) :
    (s.evacLines n width 1).flatten = List.replicate width 0x08#8 := by
  rw [evacLines_none n h]
  exact List.flatten_singleton

theorem noticeOneLine_some {k : Nat} (h : s.mode.noticeText = some k) (width : Nat) :
    s.noticeOneLine n width = drawnLine width (s.textOf k (s.langInUse n)) := by
  unfold State.noticeOneLine
  rw [h] <;> rfl

end level
end compose

theorem givesWay_iff (page : Page) : page.givesWay = true ↔ page = .blank ∨ ∃ j, page = .text j := by
  cases page <;> simp [Page.givesWay]

end Sys2Proof.Machine

open Sys2Proof Sys2Proof.Machine

/-- Settles O27: each page is laid on the panel's lines, and the service level replaces the last line or the whole page. -/
theorem pageFillsThePanel : Obligations.PageFillsThePanel := by
  unfold Obligations.PageFillsThePanel
  constructor
  · intro s n row page index hrow hlines hwidth
    rw [compose_of_row n hrow]
    exact ⟨(composeFor_fills n hlines hwidth page index).lines, (composeFor_fills n hlines hwidth page index).width⟩
  intro s n row sc index hrow hs text notice blank itself
  have htext (k : Nat) : text k = s.textOf k (s.langInUse n) := (textOf_langInUse n hs k).symm
  refine ⟨fun k => ?_, fun k hnotice => ?_, fun hnotice => basePage_noNotice s n hnotice index, rfl, fun hk page => ?_,
    fun hk => ⟨fun hl page => ?_, fun hl hlines => ⟨?_, fun page k hpage hnotice => ?_⟩,
      fun hl hlines => ⟨fun page k hnotice hgives => ?_, fun page hblank hother => ?_⟩,
      fun hl page => ⟨fun k hevac => ?_, fun hevac => ?_⟩⟩⟩
  · rw [htext, ← setText_eq]
    rfl
  · rw [htext, ← setText_eq]
    exact basePage_notice s n hnotice index
  · rw [compose_of_row n hrow, composeFor_lantern n hk]
    rfl
  · rw [compose_of_row n hrow, composeFor_below n hk hl]
  · rw [compose_of_row n hrow, composeFor_notice n hk hl, if_pos hlines, if_pos rfl]
  · rw [compose_of_row n hrow, composeFor_notice n hk hl, if_pos hlines, if_neg hpage, noticeOneLine_some n hnotice, htext]
    rfl
  · rw [compose_of_row n hrow, composeFor_notice n hk hl, if_neg (Nat.not_le.mpr hlines),
      if_pos ((givesWay_iff page).mpr hgives), noticeOneLine_some n hnotice, htext]
  · rw [compose_of_row n hrow, composeFor_notice n hk hl, if_neg (Nat.not_le.mpr hlines), if_neg]
    exact fun hgives => ((givesWay_iff page).mp hgives).elim hblank fun ⟨j, hj⟩ => hother j hj
  · rw [compose_of_row n hrow, composeFor_evacuate n hk hl, evacLine_some n hevac, evacLines_some n hevac, htext]
    rfl
  · rw [compose_of_row n hrow, composeFor_evacuate n hk hl, evacLine_none n hevac, evacLines_none n hevac]
    rfl

end

section
/-! PROOFS. FLOOR pages: the cars, their cells and the lines (R141). -/

namespace Sys2Proof.Machine

/-! ### Cells laid out on lines -/

theorem joinCells_eq (l : List Chars) : joinCells l = [0x20#8].intercalate l := by
  match l with
  | [] => rfl
  | [c] => exact List.flatten_singleton.symm
  | c :: d :: rest =>
    rw [joinCells, joinCells_eq (d :: rest), List.append_assoc]
    rfl

theorem layCells_eq (width k lines : Nat) (cells : List Chars) : layCells width k lines cells =
    (List.range lines).map (fun i => drawnLine width ([0x20#8].intercalate ((cells.drop (i * k)).take k))) := by
  induction lines generalizing cells with
  | zero => rfl
  | succ n ih =>
    rw [layCells, ih, List.range_succ_eq_map, List.map_cons, List.map_map]
    refine congrArg₂ List.cons ?_ (List.map_congr_left fun i _ => ?_)
    · rw [Nat.zero_mul, List.drop_zero, joinCells_eq, fitLine_eq]
    · rw [Function.comp_apply, List.drop_drop, Nat.succ_eq_add_one, Nat.succ_mul, Nat.add_comm k]

theorem markLast_concat (first : List Chars) (last : Chars) :
    markLast (first ++ [last]) = first ++ [last.take 7 ++ [0x04#8]] := by
  induction first with
  | nil => rfl
  | cons c first ih =>
    cases first with
    | nil => rfl
    | cons d first => exact congrArg (c :: ·) ih

/-! ### The cars of a page -/

/-- A LOBBY or DESTINATION panel shows the upper deck of a car: the one that alone serves its landing. -/
def State.showsUpper (s : State) (row : PanelRow) (slot : Nat) : Prop :=
  ∃ car, s.loader.copy.cars[slot]? = some car ∧ 0 < car.step ∧ car.lo + car.step ≤ row.landing ∧
    row.landing ≤ car.hi + car.step ∧ ¬ (car.lo ≤ row.landing ∧ row.landing ≤ car.hi)

theorem deckShown_upper_iff (row : PanelRow) (car : CarRow) : deckShown row car = .upper ↔
    0 < car.step ∧ car.lo + car.step ≤ row.landing ∧ row.landing ≤ car.hi + car.step ∧
      ¬ (car.lo ≤ row.landing ∧ row.landing ≤ car.hi) := by
  have hserves : (0 < car.step ∧ car.serves .upper row.landing = true ∧ car.serves .lower row.landing = false) ↔
      0 < car.step ∧ car.lo + car.step ≤ row.landing ∧ row.landing ≤ car.hi + car.step ∧
        ¬ (car.lo ≤ row.landing ∧ row.landing ≤ car.hi) := by
    simp only [CarRow.serves, Bool.and_eq_true, bne_iff_ne, decide_eq_true_iff, Bool.and_eq_false_iff,
      decide_eq_false_iff_not]
    omega
  unfold deckShown
  split
  · next h => exact ⟨fun _ => hserves.mp h, fun _ => rfl⟩
  · next h => exact ⟨nofun, fun hshown => absurd (hserves.mpr hshown) h⟩

/-- A car and the deck of it that a LOBBY or DESTINATION panel shows. -/
def State.carShown (s : State) (row : PanelRow) (slot : Nat) : Nat × Deck :=
  (slot, match s.carRow slot with
    | some car => deckShown row car
    | none => .lower)

theorem carShown_upper_iff (s : State) (row : PanelRow) (slot : Nat) :
    (s.carShown row slot).2 = .upper ↔ s.showsUpper row slot := by
  unfold State.carShown State.showsUpper State.carRow
  cases s.loader.copy.cars[slot]? with
  | none => exact ⟨nofun, fun ⟨car, hcar, _⟩ => nomatch hcar⟩
  | some car =>
    exact (deckShown_upper_iff row car).trans
      ⟨fun h => ⟨car, rfl, h⟩, fun ⟨other, hother, h⟩ => Option.some.inj hother ▸ h⟩

theorem deck_eq_of_upper_iff {d e : Deck} (h : d = .upper ↔ e = .upper) : d = e := by
  cases d with
  | upper => exact (h.mp rfl).symm
  | lower =>
    cases e with
    | lower => rfl
    | upper => exact nomatch h.mpr rfl

/-- The cars of a page are those of a list of slots, each with the deck shown. -/
theorem cars_eq_of_slots {s : State} {row : PanelRow} {cars : List (Nat × Deck)} {slots : List Nat}
    (hslots : cars.map (·.1) = slots) (hdecks : ∀ c ∈ cars, c.2 = .upper ↔ s.showsUpper row c.1) :
    cars = slots.map (s.carShown row) := by
  rw [← hslots, List.map_map]
  refine (List.map_id cars).symm.trans (List.map_congr_left fun c hc => ?_)
  exact Prod.ext rfl (deck_eq_of_upper_iff ((hdecks c hc).trans (carShown_upper_iff s row c.1).symm))

theorem floorCars_eq {s : State} {row : PanelRow} {cars : List (Nat × Deck)}
    (hlantern : row.kind ≠ .lantern) (hcar : row.kind = .car → cars = [(row.slot, row.deck)])
    (hlobby : row.kind = .lobby → cars.map (·.1) = row.cars)
    (hdestination : row.kind = .destination → cars.map (·.1) = List.range s.loader.copy.cars.length)
    (hdecks : row.kind ≠ .car → ∀ c ∈ cars, c.2 = .upper ↔ s.showsUpper row c.1) : s.floorCars row = cars := by
  unfold State.floorCars
  cases hk : row.kind with
  | lobby => exact (cars_eq_of_slots (hlobby hk) (hdecks (by rw [hk]; exact nofun))).symm
  | destination => exact (cars_eq_of_slots (hdestination hk) (hdecks (by rw [hk]; exact nofun))).symm
  | car => exact (hcar hk).symm
  | lantern => exact absurd hk hlantern

/-! ### Cells -/

section cell
variable {s : State} {slot : Nat} {car : CarRow} (d : Deck)

theorem cell_of_row (hcar : s.loader.copy.cars[slot]? = some car) : s.cell slot d =
    let arrow (a : Byte) : Byte := if (s.carRec slot).service = .firefighter then glyphFire else a
    match (s.carRec slot).tracking with
    | .tracked =>
      labelField car.label false ++ [glyphSpace] ++ indicationField car (s.carRec slot) d
        ++ [arrow (dirGlyph ((s.carRec slot).arrowFor (s.decksOf slot) d))]
    | .stale =>
      labelField car.label true ++ [glyphSpace] ++ indicationField car (s.carRec slot) d ++ [arrow glyphSpace]
    | .lost => labelField car.label false ++ [glyphSpace] ++ field 4 [glyphDash, glyphDash] ++ [glyphSpace]
    | .unknown => field 8 [] := by
  unfold State.cell State.carRow
  rw [hcar] <;> rfl

/-- The label that a deck's indication shows, if it indicates. -/
def shownOf (car : CarRow) (r : CarRec) (d : Deck) : Chars :=
  match d with
  | .lower => if r.indicated = none then [] else r.labelLower.getD []
  | .upper => if r.indicated = none ∨ car.step = 0 then [] else r.labelUpper.getD []

theorem indicationField_eq (car : CarRow) (r : CarRec) : indicationField car r d = inField 4 (shownOf car r d) := by
  unfold indicationField
  cases d with
  | lower =>
    show (match r.indicated with | none => _ | some _ => _) = inField 4 (if r.indicated = none then [] else _)
    cases r.indicated <;> rfl
  | upper =>
    by_cases hstep : car.step = 0
    · simp only [CarRec.indicatedOf, shownOf, hstep, if_true, or_true] <;> rfl
    · cases hind : r.indicated with
      | none => simp only [CarRec.indicatedOf, shownOf, hind, if_neg hstep, Option.map_none, true_or, if_true] <;> rfl
      | some k =>
        simp only [CarRec.indicatedOf, shownOf, hind, Option.map_some, reduceCtorEq, hstep, or_self, if_false]
          <;> rfl

theorem arrowFor_eq {r : CarRec} (h : r.tracking = .tracked) (decks : CarDecks) : r.arrowFor decks d =
    if d = .upper ∧ r.anchor = true ∧ (r.motion = .parked ∨ r.motion = .levelling) then decks.upper.intent else r.arrow := by
  unfold CarRec.arrowFor
  cases d with
  | lower => exact (if_neg fun hupper => nomatch hupper.1).symm
  | upper => simp only [h, true_and, atRest_iff]

theorem dirGlyph_eq (d : Dir) : dirGlyph d = drawnDir d := by cases d <;> rfl

end cell
end Sys2Proof.Machine

open Sys2Proof Sys2Proof.Machine

/-- Settles O28: the conditions on the cars determine the list that the page lays out. -/
theorem floorPagesShowTheCars : Obligations.FloorPagesShowTheCars := by
  unfold Obligations.FloorPagesShowTheCars
  constructor
  · intro s n row index hlantern upperShown perLine room laid cars hcar hlobby hdestination hdecks cells
    have hcars : s.floorCars row = cars := floorCars_eq hlantern hcar hlobby hdestination hdecks
    have hpage : s.basePage n row .floor index = laid (if room < cars.length then markLast cells else cells) := by
      refine (layCells_eq ..).trans ?_
      rw [hcars]
    constructor
    · intro hall
      rw [hpage, if_neg (Nat.not_lt.mpr hall)]
    · intro first last hout hcells
      rw [hpage, if_pos hout, hcells, markLast_concat]
  · intro s slot d car hcar r shown arrow fire steady flashing
    have hcell := cell_of_row d hcar
    have hshown : indicationField car r d = inField 4 shown := indicationField_eq d car r
    refine ⟨fun ht => ?_, fun ht => ?_, fun ht => ?_, fun ht => ?_⟩
    · rw [hcell, show (s.carRec slot).tracking = .tracked from ht, hshown.symm]
      have harrow : r.arrowFor (s.decksOf slot) d = arrow := arrowFor_eq d ht _
      rw [← harrow, ← dirGlyph_eq]
      rfl
    · rw [hcell, show (s.carRec slot).tracking = .stale from ht, hshown.symm]
      rfl
    · rw [hcell, show (s.carRec slot).tracking = .lost from ht]
      exact List.append_assoc .. |>.trans (List.append_assoc ..)
    · rw [hcell, show (s.carRec slot).tracking = .unknown from ht]
      rfl

end

section
/-! PROOFS. PROMPTS, STOPS and LANTERN pages (R91, R142, R143, R145). -/

namespace Sys2Proof.Machine

/-! ### One view of a list of lines -/

/-- The line `i` of a page that shows a list of lines and fills up with spaces. -/
theorem fillLines_eq (width lines : Nat) (page : Content) : fillLines width lines page =
    (List.range lines).map (fun i => (page[i]?).getD (List.replicate width 0x20#8)) := by
  refine List.ext_getElem? fun i => ?_
  unfold fillLines blankLines solidLines
  rw [List.getElem?_take, List.getElem?_map]
  by_cases hi : i < lines
  · rw [if_pos hi, List.getElem?_range hi, Option.map_some, List.getElem?_append]
    split
    · next hin => rw [List.getElem?_eq_getElem hin, Option.getD_some]
    · next hout =>
      rw [List.getElem?_eq_none (Nat.le_of_not_lt hout), List.getElem?_replicate, if_pos (by omega), Option.getD_none]
      rfl
  · rw [if_neg hi, List.getElem?_eq_none (by rw [List.length_range]; exact Nat.le_of_not_lt hi), Option.map_none]

/-- The item lines of a view, the other lines spaces. -/
def itemView (width lines itemLines index : Nat) (items : List Chars) : Content :=
  (List.range lines).map (fun i =>
    if i < itemLines then (items[index * itemLines + i]?).getD (List.replicate width 0x20#8)
    else List.replicate width 0x20#8)

theorem itemLines_eq (s : State) (row : PanelRow) : s.itemLines row =
    if s.mode.level = .notice ∧ 2 ≤ row.lines then row.lines - 1 else row.lines := by
  unfold State.itemLines
  refine if_congr ?_ rfl rfl
  unfold State.noticeLine
  rw [Bool.and_eq_true, beq_iff_eq, decide_eq_true_iff]

theorem itemPage_eq (s : State) (row : PanelRow) (items : List Chars) (index : Nat) :
    s.itemPage row items index = itemView row.width row.lines (s.itemLines row) index items := by
  unfold State.itemPage itemView
  rw [fillLines_eq]
  refine List.map_congr_left fun i _ => ?_
  rw [List.getElem?_take]
  split
  · rw [List.getElem?_drop]
  · rfl

/-! ### Lines of items -/

section lines
variable (s : State) (row : PanelRow)

theorem carLabel_getD (slot : Nat) : s.carLabel slot = ((s.loader.copy.cars[slot]?).map (·.label)).getD [] := by
  unfold State.carLabel State.carRow
  cases s.loader.copy.cars[slot]? <;> rfl

theorem reenterText_eq (lang : Lang) : s.reenterText lang =
    if s.loader.copy.texts = [] then [0x07#8] else s.loader.copy.textIn 0 lang := by
  unfold State.reenterText
  rw [textOf_eq] <;> rfl

/-- The direction in which a destination lies. -/
def PanelRow.wayTo (row : PanelRow) (x : Nat) : Dir :=
  if row.landing < x then .up else if x < row.landing then .down else .none

/-- A SHOWN entry as drawn: destination, direction and car, with its merges and access. -/
def State.drawnShown (s : State) (row : PanelRow) (p : Prompt) : Chars :=
  s.loader.copy.landingForm p.dest ++ [0x20#8, drawnDir (row.wayTo p.dest), 0x20#8] ++
    ((s.loader.copy.cars[p.slot]?).map (·.label)).getD [] ++
    (if 2 ≤ p.merges then [0x20#8, 0x09#8, BitVec.ofNat 8 (0x30 + p.merges)] else []) ++
    (if p.access then [0x20#8, 0x05#8] else [])

theorem shownLine_eq (p : Prompt) : s.shownLine row p = s.drawnShown row p := by
  have hway : (if row.landing < p.dest then glyphUp else if p.dest < row.landing then glyphDown else glyphSpace) =
      drawnDir (row.wayTo p.dest) := by
    unfold PanelRow.wayTo
    repeat' split
    all_goals rfl
  unfold State.shownLine State.drawnShown
  rw [hway, carLabel_getD]
  simp only [List.append_assoc, List.cons_append, List.nil_append]
  rfl

theorem promptLine_eq (p : Prompt) : s.promptLine row p =
    match p.state with
    | .shown => drawnLine row.width (s.drawnShown row p)
    | .boarding => (drawnLine row.width (s.drawnShown row p)).map (fun b => b ||| 0x80#8)
    | .reassign => drawnLine row.width (s.loader.copy.landingForm p.dest ++ [0x20#8] ++
        (if s.loader.copy.texts = [] then [0x07#8] else s.loader.copy.textIn 0 p.lang)) := by
  unfold State.promptLine
  rw [shownLine_eq, reenterText_eq]
  cases p.state <;> rfl

/-- What a lantern record that is not DARK adds to its page. -/
def State.drawnLantern (s : State) (r : Lantern) : Chars :=
  let glyph : Byte := if (s.carRec r.slot).service = .firefighter then 0x06 else drawnDir r.dir
  ((s.loader.copy.cars[r.slot]?).map (·.label)).getD [] ++ [if r.state = .announced then glyph ||| 0x80 else glyph]

theorem lanternPart_eq (r : Lantern) : s.lanternPart r = if r.state != .dark then [s.drawnLantern r] else [] := by
  unfold State.lanternPart State.drawnLantern
  rw [carLabel_getD, dirGlyph_eq]
  cases r.state <;> rfl

/-- The lantern records of a panel that are lit, in their order. -/
theorem flatMap_lanternPart (l : List Lantern) :
    l.flatMap s.lanternPart = (l.filter (fun r => r.state != .dark)).map s.drawnLantern := by
  induction l with
  | nil => rfl
  | cons r l ih =>
    rw [List.flatMap_cons, ih, lanternPart_eq, List.filter_cons]
    split <;> rfl

theorem lanternPage_eq (n : Nat) : s.lanternPage n row = (List.range row.lines).map (fun i =>
    if i = 0 then drawnLine row.width
      ([0x20#8].intercalate ((s.stops.lanterns.filter (fun r => r.panel == n && r.state != .dark)).map s.drawnLantern))
    else List.replicate row.width 0x20#8) := by
  unfold State.lanternPage
  rw [fillLines_eq, flatMap_lanternPart, List.filter_filter, joinCells_eq, fitLine_eq]
  refine List.map_congr_left fun i _ => ?_
  cases i with
  | zero => simp only [Bool.and_comm] <;> rfl
  | succ i => rfl

end lines

/-! ### The ordered stops (R91) -/

theorem directionOf_up_iff (m : Motion) (intent : Dir) : directionOf m intent = .up ↔
    m = .runningUp ∨ ((m = .parked ∨ m = .levelling) ∧ intent = .up) := by
  cases m <;> simp [directionOf, arrowOf]

theorem directionOf_down_iff (m : Motion) (intent : Dir) : directionOf m intent = .down ↔
    m = .runningDown ∨ ((m = .parked ∨ m = .levelling) ∧ intent = .down) := by
  cases m <;> simp [directionOf, arrowOf]

theorem orderStops_same {dir : Dir} {current : Option Nat} (stops : List Nat)
    (h : dir ≠ .up ∧ dir ≠ .down ∨ current = none) : orderStops dir current stops = stops := by
  cases current with
  | none => cases dir <;> rfl
  | some k =>
    obtain ⟨hup, hdown⟩ := h.resolve_right nofun
    cases dir with
    | none => rfl
    | up => exact absurd rfl hup
    | down => exact absurd rfl hdown

theorem landingForm_shows (c : Image) (x : Nat) : c.showsLabel x none (c.landingForm x) := by
  have hform : c.landingForm x = shownLabel c x none := by
    unfold Image.landingForm shownLabel
    cases c.landings[x]? <;> rfl
  rw [hform]
  exact shownLabel_shows c x none

end Sys2Proof.Machine

open Sys2Proof Sys2Proof.Machine

/-- Settles O29: each page is one view of its list of lines. -/
theorem itemPagesShowTheLists : Obligations.ItemPagesShowTheLists := by
  unfold Obligations.ItemPagesShowTheLists
  refine ⟨?_, ?_, landingForm_shows⟩
  · intro s n row index itemLines blank view form label way shown reenter line part lit
    have hview (items : List Chars) : s.itemPage row items index = view items := by
      rw [itemPage_eq, itemLines_eq]
      rfl
    refine ⟨?_, fun car hcar => ?_, lanternPage_eq s row n⟩
    · refine (hview _).trans (congrArg view (List.map_congr_left fun p _ => ?_))
      exact promptLine_eq s row p
    · refine (hview _).trans (congrArg view ?_)
      unfold State.panelStops State.carRow
      rw [hcar]
      rfl
  · intro car r ds d stops atRest up down current
    have hup : up ↔ directionOf r.motion (ds.get d).intent = .up := (directionOf_up_iff ..).symm
    have hdown : down ↔ directionOf r.motion (ds.get d).intent = .down := (directionOf_down_iff ..).symm
    refine ⟨fun k h hk => ?_, fun k h hk => ?_, fun h => ?_⟩
    · unfold orderedStops
      rw [hup.mp h, show r.indicatedOf car d = some k from hk]
      rfl
    · unfold orderedStops
      rw [hdown.mp h, show r.indicatedOf car d = some k from hk]
      rfl
    · exact orderStops_same _ (h.imp_left fun ⟨hnotUp, hnotDown⟩ => ⟨mt hup.mpr hnotUp, mt hdown.mpr hnotDown⟩)

end
